-- ==== Sys2Proof/Word.lean ====
section
/-! DEFINITION. The word types of the Kerzal (R1): scalar registers are 64 bits, instruction words 32 bits, memory bytes 8 bits. -/

namespace Sys2Proof

/-- A 64-bit scalar register value (R65). -/
abbrev Word := BitVec 64

/-- A 32-bit instruction word (R74). -/
abbrev IWord := BitVec 32

/-- One byte of memory or of a buffer. -/
abbrev Byte := BitVec 8

end Sys2Proof
end

