-- ==== Sys2Proof/Syntax.lean ====
section
/-! DEFINITION. The instructions of the Rolcen set, the fresco micro-instructions and the device's own atomic steps:
one constructor per row of spec/opcode_table.json. -/

namespace Sys2Proof

/-- The four sequencers of a hand (R64). -/
inductive SeqId where
  | x | l | c | s
  deriving DecidableEq, Repr

/-- The TOK bits 25:22 (R68). -/
structure Tok where
  wf : Bool
  sf : Bool
  wb : Bool
  sb : Bool
  deriving DecidableEq, Repr

/-- A 6-bit destination field (R85). -/
inductive Dst where
  | reg (n : BitVec 5)
  | chan (n : BitVec 5)
  deriving DecidableEq, Repr

/-- A 7-bit source field (R85); a peek bit with class 0 is no operand (R92 code 6). -/
inductive Src where
  | reg (n : BitVec 5)
  | pop (n : BitVec 5)
  | peek (n : BitVec 5)
  deriving DecidableEq, Repr

/-- Access widths (R86). -/
inductive Width where
  | b | h | w | d
  deriving DecidableEq, Repr

/-- Scope codes 0-5 (R20). -/
inductive Scope where
  | hand | easel | cluster | die | package | system
  deriving DecidableEq, Repr

/-- Typed buffers (R132). -/
inductive Buf where
  | ab | wb | cb
  deriving DecidableEq, Repr

/-- AMO ordering codes (R88). -/
inductive AmoOrd where
  | relaxed | acquire | release | acqRel
  deriving DecidableEq, Repr

/-- Out-operations of copies (R148). -/
inductive OutOp where
  | copy | addF32 | addBf16 | max
  deriving DecidableEq, Repr

/-- Clip modes 0-2 (R138). -/
inductive Clip where
  | none | zero | fill
  deriving DecidableEq, Repr

/-- PSET kinds (R215). -/
inductive PsetKind where
  | first | last | col
  deriving DecidableEq, Repr

/-- Engine queues of PUSHC (R91). -/
inductive EngQueue where
  | fresco | collective | glaze | sync | copy
  deriving DecidableEq, Repr

/-- The CSRs that exist (R119). -/
inductive Csr where
  | id | partid
  | lvl (n : BitVec 3)
  | time | tvec | tcause | tinfo | epc
  | lc (n : BitVec 2)
  | rot | shape | palbase | algsel | frm | fstat | waitlim | lbound
  deriving DecidableEq, Repr

/-- Delivery modes a context may ask for (R35). -/
inductive CtxMode where
  | rod | rud | rudi
  deriving DecidableEq, Repr

/-- A resource that the supervisor can reassign (R46, R48): counters and reduction slots are n of partition o's. -/
inductive Resource where
  | easelPair (k : Nat)
  | channel (c : Nat)
  | queue (q : Nat)
  | counters (o n : Nat)
  | slots (o n : Nat)
  deriving DecidableEq, Repr

/-- Management settings the supervisor writes for a partition (R123, R224, R269, R271, R331, R338, R351, R353, R356). -/
inductive McSetting where
  | rootTable (pa : Nat)
  | trapVector (w : Word)
  | waitLimit (us : Nat)
  | leaseBound (ns : Nat)
  | saveArea (va : Nat)
  | hangArea (va n : Nat)
  | traceRing (va n : Nat) (mask : BitVec 16)
  | traceRead (ptr : Nat)
  | latchPeriod (us : Nat)
  | policy (gmask : BitVec 7) (qshift gdelay : Nat)
  deriving DecidableEq, Repr

/-- How a send or an exchange under way goes on (R284, R288, R297): the device makes its next access or starts its next message, an
access that bad says meets an uncorrectable memory error; or a peer completes its message with a status. -/
inductive Progress where
  | access (bad : Bool)
  | peer (status : Nat)
  deriving DecidableEq, Repr

/-- A collective message as it reaches this device (R278, R284): the delivery context it comes on and its number there, the partition
it addresses, its sender, the bytes that come now and where they go, whether they are its last, how many of them are written before
one meets an uncorrectable memory error, the update it carries, and for a message of an exchange the handle and whether it
combines. -/
structure Message where
  ctx : Nat
  id : Nat
  part : Nat
  rank : Nat
  va : Nat
  bytes : List Byte
  last : Bool
  bad : Option Nat
  upd : Bool
  sb : Bool
  ix : Nat
  inc : Word
  handle : Option Nat
  combine : Bool
  deriving DecidableEq, Repr

/-- What a step of the device is about, by number, and which of the step's accesses meet an uncorrectable memory error. -/
structure Subject (β : Type) where
  no : Nat
  bad : β
  deriving DecidableEq, Repr

/-- A walk of a sequencer, by its place among those outstanding (R129). -/
structure WalkRef where
  sq : SeqId
  ix : Nat
  deriving DecidableEq, Repr

/-- How a part of an ordering-buffer entry is performed: at memory, by forwarding (R162), or at memory with an uncorrectable error (R334). -/
inductive Performing where
  | plain | forwarded | bad
  deriving DecidableEq, Repr

/-- The next bytes of a write message, and whether they end it (R172). -/
structure Chunk where
  bytes : List Byte
  last : Bool
  deriving DecidableEq, Repr

/-- Where a delivery context is established: a partition's endpoint at a port, numbered 2 n for port n or its half n.0 and 2 n + 1 for
its half n.1 (R15, R36). -/
structure Endpoint where
  part : Nat
  port : Nat
  deriving DecidableEq, Repr

/-- The source of an uncorrectable error (R335), and for source 6 the item of hand state that has it (R334): its kind, sequencer and
number. -/
structure ErrorSource where
  no : Nat
  item : Option (Nat × SeqId × Nat)
  deriving DecidableEq, Repr

/-- One constructor per row of spec/opcode_table.json. Hand instructions come first, then the fresco
micro-instructions (w…), then the device's other atomic steps (R156). -/

inductive Instr where
  /-- R107: token waits and signals only. -/
  | nop (k : Tok)
  /-- R102: register-register. -/
  | add (k : Tok) (d : Dst) (a b : Src)
  /-- R102: register-register. -/
  | sub (k : Tok) (d : Dst) (a b : Src)
  /-- R102: register-register. -/
  | and (k : Tok) (d : Dst) (a b : Src)
  /-- R102: register-register. -/
  | or (k : Tok) (d : Dst) (a b : Src)
  /-- R102: register-register. -/
  | xor (k : Tok) (d : Dst) (a b : Src)
  /-- R102: register-register. -/
  | sll (k : Tok) (d : Dst) (a b : Src)
  /-- R102: register-register. -/
  | srl (k : Tok) (d : Dst) (a b : Src)
  /-- R102: register-register. -/
  | sra (k : Tok) (d : Dst) (a b : Src)
  /-- R102: register-register. -/
  | mul (k : Tok) (d : Dst) (a b : Src)
  /-- R102: register-register. -/
  | mulh (k : Tok) (d : Dst) (a b : Src)
  /-- R102: register-register. -/
  | mulhu (k : Tok) (d : Dst) (a b : Src)
  /-- R102: register-register. -/
  | andn (k : Tok) (d : Dst) (a b : Src)
  /-- R102: register-register. -/
  | div (k : Tok) (d : Dst) (a b : Src)
  /-- R102: register-register. -/
  | divu (k : Tok) (d : Dst) (a b : Src)
  /-- R102: register-register. -/
  | rem (k : Tok) (d : Dst) (a b : Src)
  /-- R102: register-register. -/
  | remu (k : Tok) (d : Dst) (a b : Src)
  /-- R102: register-register. -/
  | seq (k : Tok) (d : Dst) (a b : Src)
  /-- R102: register-register. -/
  | slt (k : Tok) (d : Dst) (a b : Src)
  /-- R102: register-register. -/
  | sltu (k : Tok) (d : Dst) (a b : Src)
  /-- R102: register-register. -/
  | sne (k : Tok) (d : Dst) (a b : Src)
  /-- R102: register-register. -/
  | min (k : Tok) (d : Dst) (a b : Src)
  /-- R102: register-register. -/
  | max (k : Tok) (d : Dst) (a b : Src)
  /-- R102: register-register. -/
  | minu (k : Tok) (d : Dst) (a b : Src)
  /-- R102: register-register. -/
  | maxu (k : Tok) (d : Dst) (a b : Src)
  /-- R103: immediate. -/
  | addi (k : Tok) (d : Dst) (a : Src) (imm : BitVec 9)
  /-- R103: immediate. -/
  | andi (k : Tok) (d : Dst) (a : Src) (imm : BitVec 9)
  /-- R103: immediate. -/
  | ori (k : Tok) (d : Dst) (a : Src) (imm : BitVec 9)
  /-- R103: immediate. -/
  | xori (k : Tok) (d : Dst) (a : Src) (imm : BitVec 9)
  /-- R104: shift by an immediate. -/
  | slli (k : Tok) (d : Dst) (a : Src) (n : BitVec 6)
  /-- R104: shift by an immediate. -/
  | srli (k : Tok) (d : Dst) (a : Src) (n : BitVec 6)
  /-- R104: shift by an immediate. -/
  | srai (k : Tok) (d : Dst) (a : Src) (n : BitVec 6)
  /-- R104: shift by an immediate. -/
  | roti (k : Tok) (d : Dst) (a : Src) (n : BitVec 6)
  /-- R103: compare with an immediate. -/
  | slti (k : Tok) (d : Dst) (a : Src) (imm : BitVec 9)
  /-- R103: compare with an immediate. -/
  | sltiu (k : Tok) (d : Dst) (a : Src) (imm : BitVec 9)
  /-- R105: a + (b << sh). -/
  | addsh (k : Tok) (d : Dst) (a b : Src) (sh : BitVec 2)
  /-- R106: bit counts and reversal. -/
  | clz (k : Tok) (d : Dst) (a : Src)
  /-- R106: bit counts and reversal. -/
  | ctz (k : Tok) (d : Dst) (a : Src)
  /-- R106: bit counts and reversal. -/
  | popc (k : Tok) (d : Dst) (a : Src)
  /-- R106: bit counts and reversal. -/
  | brev (k : Tok) (d : Dst) (a : Src)
  /-- R109: copy with an empty tag. -/
  | tclr (k : Tok) (d : Dst) (a : Src)
  /-- R110: the tag as a value. -/
  | tget (k : Tok) (d : Dst) (a : BitVec 5)
  /-- R111: join of two tags. -/
  | tjoin (k : Tok) (d : Dst) (a b : Src)
  /-- R112: wait for an empty tag. -/
  | twait (k : Tok) (a : BitVec 5)
  /-- R113: channel count; the A field must be a peek. -/
  | chcnt (k : Tok) (d : Dst) (a : Src)
  /-- R113: channel count; the A field must be a peek. -/
  | chfree (k : Tok) (d : Dst) (a : Src)
  /-- R113: token count. -/
  | tkcnt (k : Tok) (d : Dst) (q : BitVec 2)
  /-- R114: conditional branch. -/
  | beqz (k : Tok) (r : BitVec 5) (o : BitVec 10) (x : BitVec 4)
  /-- R114: conditional branch. -/
  | bnez (k : Tok) (r : BitVec 5) (o : BitVec 10) (x : BitVec 4)
  /-- R114: conditional branch. -/
  | bltz (k : Tok) (r : BitVec 5) (o : BitVec 10) (x : BitVec 4)
  /-- R114: conditional branch. -/
  | bgez (k : Tok) (r : BitVec 5) (o : BitVec 10) (x : BitVec 4)
  /-- R114: conditional branch. -/
  | bgtz (k : Tok) (r : BitVec 5) (o : BitVec 10) (x : BitVec 4)
  /-- R114: conditional branch. -/
  | blez (k : Tok) (r : BitVec 5) (o : BitVec 10) (x : BitVec 4)
  /-- R115: jump. -/
  | j (k : Tok) (o : BitVec 18) (x : BitVec 4)
  /-- R115: jump. -/
  | jal (k : Tok) (o : BitVec 18) (x : BitVec 4)
  /-- R116: jump to a code pointer. -/
  | jr (k : Tok) (a : Src)
  /-- R116: jump to a code pointer. -/
  | jalr (k : Tok) (a : Src)
  /-- R117: open a hardware loop. -/
  | loop (k : Tok) (c : BitVec 2) (a : Src)
  /-- R117: open a hardware loop. -/
  | loopi (k : Tok) (c : BitVec 2) (n : BitVec 7)
  /-- R118: close a hardware loop. -/
  | brloop (k : Tok) (c : BitVec 2) (o : BitVec 10) (x : BitVec 4)
  /-- R143: load. -/
  | ld (k : Tok) (d : Dst) (a : Src) (z : Width) (o : BitVec 7)
  /-- R143: load. -/
  | lds (k : Tok) (d : Dst) (a : Src) (z : Width) (o : BitVec 7)
  /-- R144: load acquire. -/
  | lda (k : Tok) (d : Dst) (a : Src) (z : Width) (sc : Scope) (o : BitVec 4)
  /-- R145: store. -/
  | st (k : Tok) (o : BitVec 6) (a b : Src) (z : Width)
  /-- R146: store release. -/
  | str (k : Tok) (sc : Scope) (o : BitVec 3) (a b : Src) (z : Width)
  /-- R147: buffer load. -/
  | ldb (k : Tok) (d : Dst) (a : Src) (z : Width) (u : Buf) (o : BitVec 5)
  /-- R147: buffer store. -/
  | stb (k : Tok) (u : Buf) (o : BitVec 4) (a b : Src) (z : Width)
  /-- R274: atomic. -/
  | amoadd (k : Tok) (d a b : BitVec 5) (dbl : Bool) (ord : AmoOrd)
  /-- R274: atomic. -/
  | amoand (k : Tok) (d a b : BitVec 5) (dbl : Bool) (ord : AmoOrd)
  /-- R274: atomic. -/
  | amoor (k : Tok) (d a b : BitVec 5) (dbl : Bool) (ord : AmoOrd)
  /-- R274: atomic. -/
  | amoxor (k : Tok) (d a b : BitVec 5) (dbl : Bool) (ord : AmoOrd)
  /-- R274: atomic. -/
  | amomin (k : Tok) (d a b : BitVec 5) (dbl : Bool) (ord : AmoOrd)
  /-- R274: atomic. -/
  | amomax (k : Tok) (d a b : BitVec 5) (dbl : Bool) (ord : AmoOrd)
  /-- R274: atomic. -/
  | amominu (k : Tok) (d a b : BitVec 5) (dbl : Bool) (ord : AmoOrd)
  /-- R274: atomic. -/
  | amomaxu (k : Tok) (d a b : BitVec 5) (dbl : Bool) (ord : AmoOrd)
  /-- R274: atomic. -/
  | amoswap (k : Tok) (d a b : BitVec 5) (dbl : Bool) (ord : AmoOrd)
  /-- R274: atomic. -/
  | amocas (k : Tok) (d a b : BitVec 5) (dbl : Bool) (ord : AmoOrd)
  /-- R274: atomic. -/
  | amofadd (k : Tok) (d a b : BitVec 5) (dbl : Bool) (ord : AmoOrd)
  /-- R274: atomic. -/
  | amofmax (k : Tok) (d a b : BitVec 5) (dbl : Bool) (ord : AmoOrd)
  /-- R276: barrier operation. -/
  | binit (k : Tok) (d a b : BitVec 5)
  /-- R276: barrier operation. -/
  | barv (k : Tok) (d a b : BitVec 5)
  /-- R276: barrier operation. -/
  | bwait (k : Tok) (d a b : BitVec 5)
  /-- R276: barrier operation. -/
  | btest (k : Tok) (d a b : BitVec 5)
  /-- R276: barrier operation. -/
  | breset (k : Tok) (d a b : BitVec 5)
  /-- R165: fence marker. -/
  | fence (k : Tok) (sc : Scope) (ll ls sl ss eng uo : Bool)
  /-- R150: copy engine query. -/
  | cpqry (k : Tok) (d a : BitVec 5)
  /-- R323: start a fresco job. -/
  | frgo (k : Tok) (d a b : BitVec 5)
  /-- R324: fresco status. -/
  | frst (k : Tok) (d a : BitVec 5)
  /-- R325: fresco spill or resume. -/
  | frspl (k : Tok) (d a : BitVec 5)
  /-- R326: load a micro-program. -/
  | frld (k : Tok) (d a b : BitVec 5)
  /-- R296: prepare an exchange. -/
  | cxlay (k : Tok) (d a b : BitVec 5)
  /-- R297: start an exchange. -/
  | cxgo (k : Tok) (d a b : BitVec 5)
  /-- R298: arm a trigger. -/
  | carm (k : Tok) (d a b : BitVec 5)
  /-- R299: disarm. -/
  | cdis (k : Tok) (d a : BitVec 5)
  /-- R300: read a counter. -/
  | ccnt (k : Tok) (d a : BitVec 5)
  /-- R300: update a counter. -/
  | cadd (k : Tok) (d a b : BitVec 5)
  /-- R301: send. -/
  | csend (k : Tok) (d a : BitVec 5)
  /-- R302: write a histogram. -/
  | chist (k : Tok) (d a b : BitVec 5)
  /-- R303: free reduction slots. -/
  | cslot (k : Tok) (d : BitVec 5)
  /-- R151: push an engine command. -/
  | pushc (k : Tok) (d a : BitVec 5) (q : EngQueue)
  /-- R239: lease value and request. -/
  | mlease (k : Tok) (d : Dst) (a : Src)
  /-- R239: give the lease up. -/
  | mfree (k : Tok)
  /-- R239: lease status. -/
  | mstat (k : Tok) (d : Dst)
  /-- R239: wait for mural commands. -/
  | msync (k : Tok)
  /-- R121: read a CSR. -/
  | csrr (k : Tok) (d : Dst) (c : Csr)
  /-- R122: write a CSR other than PALBASE. -/
  | csrw (k : Tok) (a : Src) (c : Csr)
  /-- R188: write PALBASE and load the palette. -/
  | palbaseWrite (k : Tok) (a : Src)
  /-- R346: software trap. -/
  | trap (k : Tok) (a : Src)
  /-- R333: return from the handler. -/
  | eret
  /-- R346: halt the sequencer. -/
  | halt (k : Tok)
  /-- R346: request pre-emption. -/
  | yield (k : Tok)
  /-- R347: breakpoint. -/
  | brk (k : Tok) (c : BitVec 9)
  /-- R254: tick a region. -/
  | gtick (k : Tok) (d a b : BitVec 5)
  /-- R255: consistent tap read. -/
  | gldg (k : Tok) (d a m : BitVec 5)
  /-- R256: reset sample. -/
  | grst (k : Tok) (a b : BitVec 5)
  /-- R257: region image. -/
  | gexp (k : Tok) (d a b : BitVec 5)
  /-- R257: region image. -/
  | gimp (k : Tok) (d a b : BitVec 5)
  /-- R258: region status. -/
  | gstat (k : Tok) (d a : BitVec 5)
  /-- R202: element-wise floating point. -/
  | vadd (k : Tok) (d a b g : BitVec 5)
  /-- R202: element-wise floating point. -/
  | vsub (k : Tok) (d a b g : BitVec 5)
  /-- R202: element-wise floating point. -/
  | vmul (k : Tok) (d a b g : BitVec 5)
  /-- R202: element-wise floating point. -/
  | vfma (k : Tok) (d a b g : BitVec 5)
  /-- R202: element-wise floating point. -/
  | vmin (k : Tok) (d a b g : BitVec 5)
  /-- R202: element-wise floating point. -/
  | vmax (k : Tok) (d a b g : BitVec 5)
  /-- R202: element-wise floating point. -/
  | vdiv (k : Tok) (d a b g : BitVec 5)
  /-- R202: element-wise floating point. -/
  | vfms (k : Tok) (d a b g : BitVec 5)
  /-- R202: element-wise floating point. -/
  | vsqrt (k : Tok) (d a g : BitVec 5)
  /-- R203: approximated function. -/
  | vrcp (k : Tok) (d a g : BitVec 5)
  /-- R203: approximated function. -/
  | vrsq (k : Tok) (d a g : BitVec 5)
  /-- R203: approximated function. -/
  | vexp2 (k : Tok) (d a g : BitVec 5)
  /-- R203: approximated function. -/
  | vlog2 (k : Tok) (d a g : BitVec 5)
  /-- R202: sign operations. -/
  | vabs (k : Tok) (d a g : BitVec 5)
  /-- R202: sign operations. -/
  | vneg (k : Tok) (d a g : BitVec 5)
  /-- R203: approximated function. -/
  | vtanh (k : Tok) (d a g : BitVec 5)
  /-- R204: comparison: d is the guard, g the destination predicate. -/
  | vceq (k : Tok) (d a b g : BitVec 5)
  /-- R204: comparison: d is the guard, g the destination predicate. -/
  | vclt (k : Tok) (d a b g : BitVec 5)
  /-- R204: comparison: d is the guard, g the destination predicate. -/
  | vcle (k : Tok) (d a b g : BitVec 5)
  /-- R204: comparison: d is the guard, g the destination predicate. -/
  | vcne (k : Tok) (d a b g : BitVec 5)
  /-- R205: integer and bitwise. -/
  | viadd (k : Tok) (d a b g : BitVec 5)
  /-- R205: integer and bitwise. -/
  | visub (k : Tok) (d a b g : BitVec 5)
  /-- R205: integer and bitwise. -/
  | vimul (k : Tok) (d a b g : BitVec 5)
  /-- R205: integer and bitwise. -/
  | vshl (k : Tok) (d a b g : BitVec 5)
  /-- R205: integer and bitwise. -/
  | vand (k : Tok) (d a b g : BitVec 5)
  /-- R205: integer and bitwise. -/
  | vor (k : Tok) (d a b g : BitVec 5)
  /-- R205: integer and bitwise. -/
  | vxor (k : Tok) (d a b g : BitVec 5)
  /-- R205: integer and bitwise. -/
  | vshr (k : Tok) (d a b g : BitVec 5)
  /-- R206: vector with scalar. -/
  | vadds (k : Tok) (d a r g : BitVec 5)
  /-- R206: vector with scalar. -/
  | vmuls (k : Tok) (d a r g : BitVec 5)
  /-- R206: vector with scalar. -/
  | vfmas (k : Tok) (d a r g : BitVec 5)
  /-- R206: broadcast. -/
  | vbcast (k : Tok) (d r g : BitVec 5)
  /-- R207: selection. -/
  | vsel (k : Tok) (d a b g : BitVec 5)
  /-- R207: move. -/
  | vmov (k : Tok) (d a g : BitVec 5)
  /-- R207: gather and scatter. -/
  | vextr (k : Tok) (d a b g : BitVec 5)
  /-- R207: gather and scatter. -/
  | vins (k : Tok) (d a b g : BitVec 5)
  /-- R208: reduction. -/
  | vrsum (k : Tok) (d a g : BitVec 5)
  /-- R208: reduction. -/
  | vcsum (k : Tok) (d a g : BitVec 5)
  /-- R208: reduction. -/
  | vrmax (k : Tok) (d a g : BitVec 5)
  /-- R208: reduction. -/
  | vcmax (k : Tok) (d a g : BitVec 5)
  /-- R209: transpose. -/
  | vtrn (k : Tok) (d a g : BitVec 5)
  /-- R209: rotate. -/
  | vrotr (k : Tok) (d a b g : BitVec 5)
  /-- R209: rotate. -/
  | vrotc (k : Tok) (d a b g : BitVec 5)
  /-- R209: reverse. -/
  | vrev (k : Tok) (d a g : BitVec 5)
  /-- R210: hypercomplex product. -/
  | vhmul (k : Tok) (d a b g : BitVec 5)
  /-- R210: hypercomplex element operation. -/
  | vhconj (k : Tok) (d a g : BitVec 5)
  /-- R210: hypercomplex element operation. -/
  | vhnorm (k : Tok) (d a g : BitVec 5)
  /-- R210: hypercomplex element operation. -/
  | vhinv (k : Tok) (d a g : BitVec 5)
  /-- R211: scan. -/
  | vscan (k : Tok) (d a b g : BitVec 5)
  /-- R211: scan. -/
  | vscana (k : Tok) (d a g : BitVec 5)
  /-- R211: scan. -/
  | vscanm (k : Tok) (d a g : BitVec 5)
  /-- R212: convert. -/
  | vcvt (k : Tok) (d a g : BitVec 5)
  /-- R213: quantise. -/
  | vqnt (k : Tok) (d a g : BitVec 5)
  /-- R212: dequantise, round. -/
  | vdq (k : Tok) (d a g : BitVec 5)
  /-- R212: dequantise, round. -/
  | vrnd (k : Tok) (d a g : BitVec 5)
  /-- R214: predicate logic. -/
  | pand (k : Tok) (d a b : BitVec 5)
  /-- R214: predicate logic. -/
  | por (k : Tok) (d a b : BitVec 5)
  /-- R214: predicate logic. -/
  | pnot (k : Tok) (d a : BitVec 5)
  /-- R214: predicate logic. -/
  | pxor (k : Tok) (d a b : BitVec 5)
  /-- R217: buffer load or store. -/
  | vld (k : Tok) (d : BitVec 5) (u : Buf) (r g : BitVec 5)
  /-- R217: buffer load or store. -/
  | vst (k : Tok) (d : BitVec 5) (u : Buf) (r g : BitVec 5)
  /-- R217: buffer load or store. -/
  | vldr (k : Tok) (d : BitVec 5) (u : Buf) (r g : BitVec 5)
  /-- R217: buffer load or store. -/
  | vstr (k : Tok) (d : BitVec 5) (u : Buf) (r g : BitVec 5)
  /-- R218: write SHAPE. -/
  | vshape (k : Tok) (d a : BitVec 5)
  /-- R219: read a predicate slice. -/
  | psel (k : Tok) (d a b : BitVec 5)
  /-- R218: write ALGSEL. -/
  | algsel (k : Tok) (d a : BitVec 5)
  /-- R219: count common bits. -/
  | vland (k : Tok) (d a b : BitVec 5)
  /-- R108: load immediate. -/
  | liw (k : Tok) (d : Dst) (imm : BitVec 32)
  /-- R108: load upper immediate. -/
  | lih (k : Tok) (d : BitVec 5) (imm : BitVec 32)
  /-- R148: copy of a tensor box. -/
  | copyIn (k : Tok) (t ts b o : BitVec 5) (u : Buf) (sc : Scope) (acq rel : Bool) (op : OutOp) (cl : Clip)
  /-- R148: copy of a tensor box. -/
  | copyOut (k : Tok) (t ts b o : BitVec 5) (u : Buf) (sc : Scope) (acq rel : Bool) (op : OutOp) (cl : Clip)
  /-- R149: copy with a base register. -/
  | copyxIn (k : Tok) (t ts b o g : BitVec 5) (u : Buf) (sc : Scope) (acq rel : Bool) (op : OutOp) (cl : Clip)
  /-- R149: copy with a base register. -/
  | copyxOut (k : Tok) (t ts b o g : BitVec 5) (u : Buf) (sc : Scope) (acq rel : Bool) (op : OutOp) (cl : Clip)
  /-- R238: copy-out of a C tile. -/
  | drain (k : Tok) (t c ts o : BitVec 5) (sc : Scope) (acq rel : Bool) (op : OutOp) (cl : Clip)
  /-- R235: matrix multiply-accumulate. -/
  | mma (k : Tok) (c a b : BitVec 5) (acc : Bool) (pal : BitVec 4) (alg : BitVec 3) (m n : BitVec 2) (kk : BitVec 3) (ta tb ca cb sw chain : Bool)
  /-- R236: cooperative matrix command. -/
  | mmag (k : Tok) (c a b : BitVec 5) (acc : Bool) (pal : BitVec 4) (alg : BitVec 3) (m n : BitVec 2) (kk : BitVec 3) (ta tb ca cb sw : Bool) (gr gc : BitVec 2)
  /-- R237: load an algebra record. -/
  | algld (k : Tok) (sl : BitVec 3) (r : BitVec 5)
  /-- R215: set a predicate. -/
  | pset (k : Tok) (d : BitVec 5) (kd : PsetKind) (cnt : BitVec 11)
  /-- R216: table lookup. -/
  | vtlu (k : Tok) (d a b : BitVec 5) (n : BitVec 3) (g : BitVec 5) (fill : BitVec 8)
  /-- R259: write a region descriptor. -/
  | gcfg (k : Tok) (ix : BitVec 8) (r : BitVec 5)
  /-- R320: set a micro-register. -/
  | wsetm (m : BitVec 3) (h : Bool) (i : BitVec 16)
  /-- R320: set the mode. -/
  | wmode (i : BitVec 3)
  /-- R320: open a bank. -/
  | wopen (m : BitVec 3) (b : BitVec 2)
  /-- R320: release the hold. -/
  | wclose
  /-- R320: read a row. -/
  | wread (sb : Bool) (i : BitVec 8)
  /-- R320: write a row. -/
  | wwrite (i : BitVec 8) (src : BitVec 3)
  /-- R320: load the scale. -/
  | wscale (m : BitVec 3) (i : BitVec 8)
  /-- R321: scale and add. -/
  | wadd (h : Bool)
  /-- R321: dequantise. -/
  | wdeq
  /-- R320: open a loop. -/
  | wloop (m : BitVec 3)
  /-- R320: close a loop. -/
  | wnext
  /-- R320: window point. -/
  | wwin
  /-- R320: spill. -/
  | wsave
  /-- R320: restore. -/
  | wrest
  /-- R320: end the job. -/
  | wend
  /-- R75: fetch a line. -/
  | lineFetch (g : Nat) (sq : SeqId) (cached : Bool)
  /-- R80: land the next due result of C. -/
  | landing (g : Nat)
  /-- R129: complete the walks of a sequencer. -/
  | walkComplete (g : Nat) (w : WalkRef)
  /-- R353: take a latch that is due. -/
  | latch
  /-- R161: perform (a part of) an entry, or satisfy it by forwarding. -/
  | orderingBufferPerform (g : Nat) (sq : SeqId) (ix part : Nat) (how : Performing)
  /-- R165: release the held signals of the oldest fence. -/
  | fenceTokenRelease (g : Nat) (sq : SeqId)
  /-- R135: perform a range-checker entry. -/
  | bufferAccessPerform (e ix : Nat)
  /-- R166: one granule access. -/
  | copyEngineAccess (eng ix : Nat) (bad : Bool)
  /-- R141: complete a copy. -/
  | copyCompletion (eng ix : Nat)
  /-- R54: place leaves of a partition. -/
  | dispatchChoice (p : Nat)
  /-- R59: start the prefetches of a hand's scoreboard entry; bad says that its list has an uncorrectable memory error (R26). -/
  | prefetch (hand : Subject Bool)
  /-- R59: bind the resident leaf of a hand. -/
  | leafBind (g : Nat)
  /-- R58: start a gang instance. -/
  | gangStart (ln gang : Nat)
  /-- R342: retire a leaf. -/
  | leafRetire (g : Nat)
  /-- R50: complete a task. -/
  | nodeCompletion (ln tk : Nat)
  /-- R343: post the completion record, its body and then its first word; bad as for queueEntryAccept. -/
  | launchCompletionRecord (launch : Subject (List Nat))
  /-- R42, R44: accept the next ring entry; bad lists the accesses that meet an uncorrectable memory error: 0 the entry, 1 HEADVA,
  2 COMPVA, 3 QCOMPVA. -/
  | queueEntryAccept (queue : Subject (List Nat))
  /-- R31: evaluate a control task of a launch; bad says that its word has an uncorrectable memory error (R51). -/
  | conditionEvaluation (ln : Nat) (task : Subject Bool)
  /-- R220: start the next command. -/
  | muralCommandStart (e : Nat)
  /-- R220: complete the running command. -/
  | muralCommandComplete (e : Nat)
  /-- R247: present a tick command at a channel. -/
  | tickPresent (ch ix : Nat)
  /-- R253: advance one word by one tick. -/
  | wordAdvance (ch : Nat)
  /-- R260: perform a glaze-control command. -/
  | glazeControlCommand (e ix : Nat)
  /-- R268: perform a synchronisation command. -/
  | syncCommand (e ix : Nat) (bad : Bool)
  /-- R304: perform the next collective command. -/
  | collectiveCommand (e ix : Nat) (bad : Option Nat)
  /-- R327: perform the next fresco command. -/
  | frescoCommand (e ix : Nat)
  /-- R316: a job starts. -/
  | jobStart (cx : Nat)
  /-- R152: start the global copy of a copy node. -/
  | globalCopy (ln tk : Nat)
  /-- R41: present the oldest held tail of a context; bad says that a record it posts meets an uncorrectable memory error (R44). -/
  | tailPresent (ctx : Subject Bool)
  /-- R172: the next bytes of an RMA write on a delivery context. -/
  | hostRmaWrite (ctx va : Nat) (chunk : Chunk)
  /-- R39: tagged send to the command endpoint. -/
  | tailMessage (ctx : Nat) (tag : Word) (payload : BitVec 128)
  /-- R172: the bytes of an RMA read on a delivery context, or some of them. -/
  | hostRmaRead (ctx va len : Nat)
  /-- R36: UE atomic request. -/
  | ueAtomicRequest (ctx : Nat)
  /-- R36: establish a delivery context. -/
  | deliveryContextEstablishment (ctx : Nat) (endpoint : Endpoint) (mode : CtxMode) (rccc secure : Bool)
  /-- R43: close a delivery context; bad says that a record it posts meets an uncorrectable memory error (R44). -/
  | deliveryContextClose (ctx : Subject (List Nat))
  /-- R37: descriptor write, with an optional HEAD = TAILD value. -/
  | queueDescriptorWrite (q : Nat) (desc : BitVec 256) (head : Option (BitVec 32))
  /-- R41: clear HALTED. -/
  | haltedClear (q : Nat) (taild : Option (BitVec 32))
  /-- R46: compose a partition of easel pairs, channels and queues. -/
  | partitionComposition (p : Nat) (pairs channels queues : List Nat) (counters quota : Nat)
  /-- R48: move a resource to another partition. -/
  | resourceReassignment (r : Resource) (p : Nat)
  /-- R52: scheduling word. -/
  | schedulingWordWrite (p : Nat) (w : Word)
  /-- R130: request invalidation of a virtual range. -/
  | invalidation (p va len : Nat)
  /-- R130: complete the invalidation with this ticket. -/
  | invalidationComplete (ix : Nat)
  /-- R278: mesh descriptor and peer table (rank, endpoint, partition). -/
  | meshDescriptorWrite (p : Nat) (w : Word) (peers : List (Nat × Nat × Nat))
  /-- R285: write a counter or scoreboard. -/
  | counterSupervisorWrite (p : Nat) (sb : Bool) (ix : Nat) (v : Word)
  /-- R294: pause. -/
  | collectivePause (p : Nat)
  /-- R294: resume. -/
  | collectiveResume (p : Nat)
  /-- R283: link-processor firmware. -/
  | firmwareImageLoad (lp : Nat) (image : List Byte) (sig : BitVec 512)
  /-- R351: a management setting. -/
  | mcRegisterWrite (p : Nat) (w : McSetting)
  /-- R348: stop descriptor. -/
  | stopDescriptorWrite (p k : Nat) (d : BitVec 128)
  /-- R349: freeze a hand of the launch at the cut time. -/
  | cutFreeze (g : Nat)
  /-- R350: unfreeze the hands of a stopped launch. -/
  | stopResume (ln : Nat)
  /-- R353: request a latch. -/
  | latchRequest (t : Word)
  /-- R355: arm a snapshot. -/
  | snapshotArm (g : Nat) (sq : SeqId) (lc : BitVec 2) (every : Bool)
  /-- R355: read the snapshot buffer. -/
  | snapshotRead (e : Nat)
  /-- R356: guest counter read. -/
  | guestCounterRead (p grp unit ix : Nat)
  /-- R60: pre-empt for a waiting task. -/
  | priorityPreemption (p : Nat)
  /-- R342, R344: abort a leaf, or every leaf of its launch. -/
  | leafAbort (g : Nat) (whole : Bool)
  /-- R270: stall time-out. -/
  | stallTimeOut (g : Nat)
  /-- R335: report an uncorrectable error. -/
  | machineCheck (g pfn : Nat) (source : ErrorSource)
  /-- R159: write back the dirty bytes of a line. -/
  | dieCacheWriteBack (die pa : Nat)
  /-- R159: discard the clean bytes of a line. -/
  | dieCacheDiscard (die pa : Nat)
  /-- R153: check a PUSHC queue-4 command, or write its completion word. -/
  | globalCopyCommand (e ix : Nat)
  /-- R221: complete a spill. -/
  | spillComplete (e : Nat)
  /-- R223: a waiter's bound expires. -/
  | lboundExpiry (e h : Nat)
  /-- R221: 256 idle cycles have passed. -/
  | leaseIdleExpiry (e : Nat)
  /-- R233: a reservation is chosen in a member easel. -/
  | groupReservation (cl e : Nat)
  /-- R252: place the holds and transfer the image. -/
  | glazeHold (ix : Nat) (bad : Bool)
  /-- R266: a time bound expires. -/
  | bwaitTimeBoundExpiry (ix : Nat)
  /-- R284: a received message. -/
  | collectiveMessage (m : Message)
  /-- R288: a send goes on, and completes. -/
  | sendComplete (ix : Nat) (how : Progress)
  /-- R297: an exchange goes on, and completes. -/
  | exchangeComplete (p hd : Nat) (how : Progress)
  /-- R292: a peer is unreachable. -/
  | peerUnreachable (p rank : Nat)
  /-- R311: the window of context n of channel ch closes that has served the accesses it owes. -/
  | window (ch n : Nat)
  /-- R318: spill a drained context. -/
  | frescoSpill (cx : Nat)
  /-- R318: restore a context. -/
  | frescoRestore (cx : Nat)
  /-- R336: request pre-emption. -/
  | supervisorPreemptionRequest (g : Nat)
  /-- R338: save a quiesced hand. -/
  | preemptionSave (g : Nat)
  /-- R358: enter POWER-DOWN. -/
  | powerDownEntry (ch : Nat)
  /-- R358: leave POWER-DOWN. -/
  | powerDownExit (ch : Nat)
  /-- R358: enter SELF-REFRESH. -/
  | selfRefreshRequest (ch : Nat)
  /-- R358: leave SELF-REFRESH. -/
  | selfRefreshExit (ch : Nat)
  /-- R357: lower k. -/
  | supplySag (die : Nat)
  /-- R357: raise k. -/
  | supplyRecoveryStep (die : Nat)
  /-- R360: request suspend. -/
  | suspendRequest (epoch : BitVec 16)
  /-- R360: the quiesce limit expires. -/
  | quiesceLimitExpiry
  /-- R360: write the suspend image. -/
  | suspendSave
  /-- R362: resume after us microseconds, with the suspend image as it is found. -/
  | resumeRequest (us : Nat) (image : List Byte)
  /-- R362: acknowledge a failed resume. -/
  | failureAcknowledge
  /-- R364: boot the management firmware. -/
  | powerOn (fw : List Byte) (sig : BitVec 512)
  /-- R363: a function passes its self-test. -/
  | selfTestPass (bit : Nat)
  /-- R365: configuration record. -/
  | configurationRecordWrite (rec : BitVec 4096)
  /-- R366: attestation. -/
  | attestationRequest (nonce : BitVec 256)
  deriving DecidableEq, Repr

end Sys2Proof
end

