-- ==== Sys2Proof/Decode.lean ====
section
/-! DEFINITION. Decoding and encoding of instruction words, from the formats of R85-R91 and R320. The decoder is total:
a word that is no instruction is refused with the code of R92. -/

namespace Sys2Proof

/-- A failed check of R92: its code, and the operand at fault for code 6 (1 D, 2 A, 3 B). -/
structure Reject where
  code    : Nat
  operand : Nat
  deriving DecidableEq, Repr

/-- Refused with a code that names no operand. -/
def bad {α : Type} (c : Nat) : Except Reject α := .error { code := c, operand := 0 }

/-- Code 4 unless the fields marked zero are zero. -/
def need {α : Type} (zero : Bool) (k : Except Reject α) : Except Reject α := if zero then k else bad 4

/-! Fields of the formats of R86. -/

def fMaj (w : IWord) : BitVec 6 := w.extractLsb' 26 6
def fD (w : IWord) : BitVec 6 := w.extractLsb' 16 6
def fA (w : IWord) : BitVec 7 := w.extractLsb' 9 7
def fB (w : IWord) : BitVec 7 := w.extractLsb' 2 7
def fFn (w : IWord) : BitVec 2 := w.extractLsb' 0 2
def fImm (w : IWord) : BitVec 9 := w.extractLsb' 0 9
def cD (w : IWord) : BitVec 5 := w.extractLsb' 17 5
def cA (w : IWord) : BitVec 5 := w.extractLsb' 12 5
def cB (w : IWord) : BitVec 5 := w.extractLsb' 7 5
def cFn (w : IWord) : BitVec 7 := w.extractLsb' 0 7
def vD (w : IWord) : BitVec 5 := w.extractLsb' 17 5
def vA (w : IWord) : BitVec 5 := w.extractLsb' 12 5
def vB (w : IWord) : BitVec 5 := w.extractLsb' 7 5
def vG (w : IWord) : BitVec 5 := w.extractLsb' 2 5
def mMa (w : IWord) : BitVec 3 := w.extractLsb' 24 3

/-- The TOK bits (R68). -/
def tokOf (w : IWord) : Tok :=
  { wf := w.getLsbD 25, sf := w.getLsbD 24, wb := w.getLsbD 23, sb := w.getLsbD 22 }

def Tok.bits (k : Tok) : BitVec 4 :=
  BitVec.ofBool k.wf ++ BitVec.ofBool k.sf ++ BitVec.ofBool k.wb ++ BitVec.ofBool k.sb

/-- A 6-bit destination field (R85). -/
def dstOf (x : BitVec 6) : Dst :=
  if x.getLsbD 5 then .chan (x.extractLsb' 0 5) else .reg (x.extractLsb' 0 5)

def Dst.bits : Dst → BitVec 6
  | .reg n => 0#1 ++ n
  | .chan n => 1#1 ++ n

/-- A 7-bit source field (R85); a peek bit with class 0 is code 6 (R92). -/
def srcOf {α : Type} (x : BitVec 7) (pos : Nat) (k : Src → Except Reject α) : Except Reject α :=
  if x.getLsbD 6 then
    if x.getLsbD 5 then k (.peek (x.extractLsb' 0 5)) else k (.pop (x.extractLsb' 0 5))
  else if x.getLsbD 5 then .error { code := 6, operand := pos } else k (.reg (x.extractLsb' 0 5))

def Src.bits : Src → BitVec 7
  | .reg n => 0#2 ++ n
  | .pop n => 2#2 ++ n
  | .peek n => 3#2 ++ n

/-- A source field that the entry restricts to registers (R92 code 6). -/
def regOf {α : Type} (x : BitVec 7) (pos : Nat) (k : BitVec 5 → Except Reject α) : Except Reject α :=
  if x.extractLsb' 5 2 = 0 then k (x.extractLsb' 0 5) else .error { code := 6, operand := pos }

/-- The three operands of an RR form, checked in the order D, A, B. -/
def rrSrc {α : Type} (w : IWord) (k : Dst → Src → Src → Except Reject α) : Except Reject α :=
  srcOf (fA w) 2 fun a => srcOf (fB w) 3 fun b => k (dstOf (fD w)) a b

def widthOf (x : BitVec 2) : Width :=
  match x.toNat with
  | 0 => .b
  | 1 => .h
  | 2 => .w
  | _ => .d

def Width.bits : Width → BitVec 2
  | .b => 0
  | .h => 1
  | .w => 2
  | .d => 3

/-- A scope code (R20); 6 and 7 are code 3. -/
def scopeOf {α : Type} (x : BitVec 3) (k : Scope → Except Reject α) : Except Reject α :=
  match x.toNat with
  | 0 => k .hand
  | 1 => k .easel
  | 2 => k .cluster
  | 3 => k .die
  | 4 => k .package
  | 5 => k .system
  | _ => bad 3

def Scope.bits : Scope → BitVec 3
  | .hand => 0
  | .easel => 1
  | .cluster => 2
  | .die => 3
  | .package => 4
  | .system => 5

/-- A buffer code; 3 is code 3. -/
def bufOf {α : Type} (x : BitVec 2) (k : Buf → Except Reject α) : Except Reject α :=
  match x.toNat with
  | 0 => k .ab
  | 1 => k .wb
  | 2 => k .cb
  | _ => bad 3

def Buf.bits : Buf → BitVec 2
  | .ab => 0
  | .wb => 1
  | .cb => 2

/-- A clip mode; 3 is code 3. -/
def clipOf {α : Type} (x : BitVec 2) (k : Clip → Except Reject α) : Except Reject α :=
  match x.toNat with
  | 0 => k .none
  | 1 => k .zero
  | 2 => k .fill
  | _ => bad 3

def Clip.bits : Clip → BitVec 2
  | .none => 0
  | .zero => 1
  | .fill => 2

/-- A PSET kind; 3 is code 3. -/
def kindOf {α : Type} (x : BitVec 2) (k : PsetKind → Except Reject α) : Except Reject α :=
  match x.toNat with
  | 0 => k .first
  | 1 => k .last
  | 2 => k .col
  | _ => bad 3

def PsetKind.bits : PsetKind → BitVec 2
  | .first => 0
  | .last => 1
  | .col => 2

def ordOf (x : BitVec 2) : AmoOrd :=
  match x.toNat with
  | 0 => .relaxed
  | 1 => .acquire
  | 2 => .release
  | _ => .acqRel

def AmoOrd.bits : AmoOrd → BitVec 2
  | .relaxed => 0
  | .acquire => 1
  | .release => 2
  | .acqRel => 3

def outOpOf (x : BitVec 2) : OutOp :=
  match x.toNat with
  | 0 => .copy
  | 1 => .addF32
  | 2 => .addBf16
  | _ => .max

def OutOp.bits : OutOp → BitVec 2
  | .copy => 0
  | .addF32 => 1
  | .addBf16 => 2
  | .max => 3

def EngQueue.bits : EngQueue → BitVec 7
  | .fresco => 0
  | .collective => 1
  | .glaze => 2
  | .sync => 3
  | .copy => 4

/-- The CSR numbers that exist (R119); every other number is code 3. -/
def csrOf {α : Type} (x : BitVec 9) (k : Csr → Except Reject α) : Except Reject α :=
  match x.toNat with
  | 0x000 => k .id
  | 0x001 => k .partid
  | 0x010 => k .time
  | 0x020 => k .tvec
  | 0x021 => k .tcause
  | 0x022 => k .tinfo
  | 0x023 => k .epc
  | 0x040 => k .rot
  | 0x041 => k .shape
  | 0x042 => k .palbase
  | 0x043 => k .algsel
  | 0x044 => k .frm
  | 0x045 => k .fstat
  | 0x050 => k .waitlim
  | 0x051 => k .lbound
  | _ =>
    if x.extractLsb' 3 6 = 1 then k (.lvl (x.extractLsb' 0 3))
    else if x.extractLsb' 2 7 = 0x0c then k (.lc (x.extractLsb' 0 2))
    else bad 3

def Csr.bits : Csr → BitVec 9
  | .id => 0x000
  | .partid => 0x001
  | .lvl n => 1#6 ++ n
  | .time => 0x010
  | .tvec => 0x020
  | .tcause => 0x021
  | .tinfo => 0x022
  | .epc => 0x023
  | .lc n => 0x0c#7 ++ n
  | .rot => 0x040
  | .shape => 0x041
  | .palbase => 0x042
  | .algsel => 0x043
  | .frm => 0x044
  | .fstat => 0x045
  | .waitlim => 0x050
  | .lbound => 0x051

/-! Words of the formats of R86 and R87. -/

def rrWord (maj : BitVec 6) (k : BitVec 4) (d : BitVec 6) (a b : BitVec 7) (fn : BitVec 2) : IWord := maj ++ k ++ d ++ a ++ b ++ fn
def riWord (maj : BitVec 6) (k : BitVec 4) (d : BitVec 6) (a : BitVec 7) (imm : BitVec 9) : IWord := maj ++ k ++ d ++ a ++ imm
def brWord (maj : BitVec 6) (k : BitVec 4) (s : BitVec 5) (cc : BitVec 3) (o : BitVec 10) (x : BitVec 4) : IWord := maj ++ k ++ s ++ cc ++ o ++ x
def jWord (maj : BitVec 6) (k : BitVec 4) (o : BitVec 18) (x : BitVec 4) : IWord := maj ++ k ++ o ++ x
def cpWord (maj : BitVec 6) (k : BitVec 4) (d a b : BitVec 5) (fn : BitVec 7) : IWord := maj ++ k ++ d ++ a ++ b ++ fn
def vvWord (maj : BitVec 6) (k : BitVec 4) (d a b g : BitVec 5) (fn : BitVec 2) : IWord := maj ++ k ++ d ++ a ++ b ++ g ++ fn
def longWord (k : BitVec 4) (sub : BitVec 6) (lo : BitVec 16) : IWord := 0x3d#6 ++ k ++ sub ++ lo
def microWord (op : BitVec 5) (ma : BitVec 3) (h : BitVec 1) (imm : BitVec 16) : IWord := op ++ ma ++ 0#3 ++ h ++ 0#4 ++ imm

/-- The sub-ops of the long form (R89): word 0 is w, word 1 is v. -/
def decodeLong (k : Tok) (w v : IWord) : Except Reject Instr :=
  match (w.extractLsb' 16 6).toNat with
  | 0x00 => need (w.extractLsb' 0 10 = 0) (.ok (.liw k (dstOf (w.extractLsb' 10 6)) v))
  | 0x01 => need (w.extractLsb' 0 10 = 0) (if w.getLsbD 15 then .error { code := 6, operand := 1 }
    else .ok (.lih k (w.extractLsb' 10 5) v))
  | 0x02 => bufOf (v.extractLsb' 25 2) fun u => scopeOf (v.extractLsb' 22 3) fun sc => clipOf (v.extractLsb' 16 2) fun cl =>
    need (v.extractLsb' 0 16 = 0 && (v.getLsbD 21 || v.getLsbD 20 || sc = .hand))
    (if w.getLsbD 0 then .ok (.copyOut k (w.extractLsb' 11 5) (w.extractLsb' 6 5) (w.extractLsb' 1 5) (v.extractLsb' 27 5) u sc
        (v.getLsbD 21) (v.getLsbD 20) (outOpOf (v.extractLsb' 18 2)) cl)
     else .ok (.copyIn k (w.extractLsb' 11 5) (w.extractLsb' 6 5) (w.extractLsb' 1 5) (v.extractLsb' 27 5) u sc
        (v.getLsbD 21) (v.getLsbD 20) (outOpOf (v.extractLsb' 18 2)) cl))
  | 0x03 => bufOf (v.extractLsb' 25 2) fun u => scopeOf (v.extractLsb' 22 3) fun sc => clipOf (v.extractLsb' 16 2) fun cl =>
    need (v.extractLsb' 0 11 = 0 && (v.getLsbD 21 || v.getLsbD 20 || sc = .hand))
    (if w.getLsbD 0 then .ok (.copyxOut k (w.extractLsb' 11 5) (w.extractLsb' 6 5) (w.extractLsb' 1 5) (v.extractLsb' 27 5) (v.extractLsb' 11 5) u sc
        (v.getLsbD 21) (v.getLsbD 20) (outOpOf (v.extractLsb' 18 2)) cl)
     else .ok (.copyxIn k (w.extractLsb' 11 5) (w.extractLsb' 6 5) (w.extractLsb' 1 5) (v.extractLsb' 27 5) (v.extractLsb' 11 5) u sc
        (v.getLsbD 21) (v.getLsbD 20) (outOpOf (v.extractLsb' 18 2)) cl))
  | 0x04 => scopeOf (v.extractLsb' 22 3) fun sc => clipOf (v.extractLsb' 16 2) fun cl =>
    need (w.getLsbD 0 = false && v.extractLsb' 25 2 = 0 && v.extractLsb' 0 16 = 0 && (v.getLsbD 21 || v.getLsbD 20 || sc = .hand))
    (.ok (.drain k (w.extractLsb' 11 5) (w.extractLsb' 6 5) (w.extractLsb' 1 5) (v.extractLsb' 27 5) sc
        (v.getLsbD 21) (v.getLsbD 20) (outOpOf (v.extractLsb' 18 2)) cl))
  | 0x05 => need (v.extractLsb' 0 12 = 0) (.ok (.mma k (w.extractLsb' 11 5) (w.extractLsb' 6 5) (w.extractLsb' 1 5) (w.getLsbD 0) (v.extractLsb' 28 4) (v.extractLsb' 25 3)
        (v.extractLsb' 23 2) (v.extractLsb' 21 2) (v.extractLsb' 18 3) (v.getLsbD 17) (v.getLsbD 16) (v.getLsbD 15) (v.getLsbD 14) (v.getLsbD 13) (v.getLsbD 12)))
  | 0x06 => need (v.getLsbD 12 = false && v.extractLsb' 0 8 = 0) (.ok (.mmag k (w.extractLsb' 11 5) (w.extractLsb' 6 5) (w.extractLsb' 1 5) (w.getLsbD 0) (v.extractLsb' 28 4) (v.extractLsb' 25 3)
        (v.extractLsb' 23 2) (v.extractLsb' 21 2) (v.extractLsb' 18 3) (v.getLsbD 17) (v.getLsbD 16) (v.getLsbD 15) (v.getLsbD 14) (v.getLsbD 13)
        (v.extractLsb' 10 2) (v.extractLsb' 8 2)))
  | 0x07 => need (w.extractLsb' 0 8 = 0 && v = 0) (.ok (.algld k (w.extractLsb' 13 3) (w.extractLsb' 8 5)))
  | 0x08 => kindOf (v.extractLsb' 30 2) fun kd => need (w.extractLsb' 0 11 = 0 && v.extractLsb' 11 19 = 0)
    (.ok (.pset k (w.extractLsb' 11 5) kd (v.extractLsb' 0 11)))
  | 0x09 => need (w.getLsbD 0 = false && v.extractLsb' 0 16 = 0)
    (.ok (.vtlu k (w.extractLsb' 11 5) (w.extractLsb' 6 5) (w.extractLsb' 1 5) (v.extractLsb' 29 3) (v.extractLsb' 24 5) (v.extractLsb' 16 8)))
  | 0x0a => need (w.extractLsb' 0 3 = 0 && v = 0) (.ok (.gcfg k (w.extractLsb' 8 8) (w.extractLsb' 3 5)))
  | _ => bad 3

/-- Majors 0x00 to 0x18 (R88). -/
def decodeScalar (k : Tok) (w : IWord) : Except Reject Instr :=
  match (fMaj w).toNat with
  | 0x00 => need (w.extractLsb' 0 22 = 0) (.ok (.nop k))
  | 0x01 => rrSrc w fun d a b => .ok (match (fFn w).toNat with
    | 0 => .add k d a b
    | 1 => .sub k d a b
    | 2 => .and k d a b
    | _ => .or k d a b)
  | 0x02 => rrSrc w fun d a b => .ok (match (fFn w).toNat with
    | 0 => .xor k d a b
    | 1 => .sll k d a b
    | 2 => .srl k d a b
    | _ => .sra k d a b)
  | 0x03 => rrSrc w fun d a b => .ok (match (fFn w).toNat with
    | 0 => .mul k d a b
    | 1 => .mulh k d a b
    | 2 => .mulhu k d a b
    | _ => .andn k d a b)
  | 0x04 => rrSrc w fun d a b => .ok (match (fFn w).toNat with
    | 0 => .div k d a b
    | 1 => .divu k d a b
    | 2 => .rem k d a b
    | _ => .remu k d a b)
  | 0x05 => rrSrc w fun d a b => .ok (match (fFn w).toNat with
    | 0 => .seq k d a b
    | 1 => .slt k d a b
    | 2 => .sltu k d a b
    | _ => .sne k d a b)
  | 0x06 => rrSrc w fun d a b => .ok (match (fFn w).toNat with
    | 0 => .min k d a b
    | 1 => .max k d a b
    | 2 => .minu k d a b
    | _ => .maxu k d a b)
  | 0x07 => srcOf (fA w) 2 fun a => .ok (.addi k (dstOf (fD w)) a (fImm w))
  | 0x08 => srcOf (fA w) 2 fun a => .ok (.andi k (dstOf (fD w)) a (fImm w))
  | 0x09 => srcOf (fA w) 2 fun a => .ok (.ori k (dstOf (fD w)) a (fImm w))
  | 0x0a => srcOf (fA w) 2 fun a => .ok (.xori k (dstOf (fD w)) a (fImm w))
  | 0x0b => need (w.getLsbD 6 = false) (srcOf (fA w) 2 fun a => .ok (match (w.extractLsb' 7 2).toNat with
    | 0 => .slli k (dstOf (fD w)) a (w.extractLsb' 0 6)
    | 1 => .srli k (dstOf (fD w)) a (w.extractLsb' 0 6)
    | 2 => .srai k (dstOf (fD w)) a (w.extractLsb' 0 6)
    | _ => .roti k (dstOf (fD w)) a (w.extractLsb' 0 6)))
  | 0x0c => srcOf (fA w) 2 fun a => .ok (.slti k (dstOf (fD w)) a (fImm w))
  | 0x0d => srcOf (fA w) 2 fun a => .ok (.sltiu k (dstOf (fD w)) a (fImm w))
  | 0x0e => rrSrc w fun d a b => .ok (.addsh k d a b (fFn w))
  | 0x0f => need (fB w = 0) (srcOf (fA w) 2 fun a => .ok (match (fFn w).toNat with
    | 0 => .clz k (dstOf (fD w)) a
    | 1 => .ctz k (dstOf (fD w)) a
    | 2 => .popc k (dstOf (fD w)) a
    | _ => .brev k (dstOf (fD w)) a))
  | 0x10 => match (fFn w).toNat with
    | 0 => need (fB w = 0) (srcOf (fA w) 2 fun a => .ok (.tclr k (dstOf (fD w)) a))
    | 1 => need (fB w = 0) (regOf (fA w) 2 fun a => .ok (.tget k (dstOf (fD w)) a))
    | 2 => rrSrc w fun d a b => .ok (.tjoin k d a b)
    | _ => need (fD w = 0 && fB w = 0) (regOf (fA w) 2 fun a => .ok (.twait k a))
  | 0x11 => match (fFn w).toNat with
    | 0 => need (fB w = 0) (srcOf (fA w) 2 fun a => .ok (.chcnt k (dstOf (fD w)) a))
    | 1 => need (fB w = 0) (srcOf (fA w) 2 fun a => .ok (.chfree k (dstOf (fD w)) a))
    | 2 => need (fA w = 0 && w.extractLsb' 4 5 = 0) (.ok (.tkcnt k (dstOf (fD w)) (w.extractLsb' 2 2)))
    | _ => bad 3
  | 0x12 => match (w.extractLsb' 14 3).toNat with
    | 0 => .ok (.beqz k (w.extractLsb' 17 5) (w.extractLsb' 4 10) (w.extractLsb' 0 4))
    | 1 => .ok (.bnez k (w.extractLsb' 17 5) (w.extractLsb' 4 10) (w.extractLsb' 0 4))
    | 2 => .ok (.bltz k (w.extractLsb' 17 5) (w.extractLsb' 4 10) (w.extractLsb' 0 4))
    | 3 => .ok (.bgez k (w.extractLsb' 17 5) (w.extractLsb' 4 10) (w.extractLsb' 0 4))
    | 4 => .ok (.bgtz k (w.extractLsb' 17 5) (w.extractLsb' 4 10) (w.extractLsb' 0 4))
    | 5 => .ok (.blez k (w.extractLsb' 17 5) (w.extractLsb' 4 10) (w.extractLsb' 0 4))
    | _ => bad 3
  | 0x13 => .ok (.j k (w.extractLsb' 4 18) (w.extractLsb' 0 4))
  | 0x14 => .ok (.jal k (w.extractLsb' 4 18) (w.extractLsb' 0 4))
  | 0x15 => match (fFn w).toNat with
    | 0 => need (fD w = 0 && fB w = 0) (srcOf (fA w) 2 fun a => .ok (.jr k a))
    | 1 => need (fD w = 0 && fB w = 0) (srcOf (fA w) 2 fun a => .ok (.jalr k a))
    | _ => bad 3
  | 0x16 => need (w.extractLsb' 18 4 = 0 && fImm w = 0) (srcOf (fA w) 2 fun a => .ok (.loop k (w.extractLsb' 16 2) a))
  | 0x17 => need (w.extractLsb' 18 4 = 0 && fImm w = 0) (.ok (.loopi k (w.extractLsb' 16 2) (fA w)))
  | 0x18 => need (w.extractLsb' 19 3 = 0 && w.extractLsb' 14 3 = 0)
    (.ok (.brloop k (w.extractLsb' 17 2) (w.extractLsb' 4 10) (w.extractLsb' 0 4)))
  | _ => bad 1

/-- Majors 0x19 to 0x2B (R88). -/
def decodeSystem (k : Tok) (w : IWord) : Except Reject Instr :=
  match (fMaj w).toNat with
  | 0x19 => srcOf (fA w) 2 fun a => .ok (.ld k (dstOf (fD w)) a (widthOf (w.extractLsb' 7 2)) (w.extractLsb' 0 7))
  | 0x1a => srcOf (fA w) 2 fun a => .ok (.lds k (dstOf (fD w)) a (widthOf (w.extractLsb' 7 2)) (w.extractLsb' 0 7))
  | 0x1b => scopeOf (w.extractLsb' 4 3) fun sc => srcOf (fA w) 2 fun a =>
    .ok (.lda k (dstOf (fD w)) a (widthOf (w.extractLsb' 7 2)) sc (w.extractLsb' 0 4))
  | 0x1c => srcOf (fA w) 2 fun a => srcOf (fB w) 3 fun b => .ok (.st k (fD w) a b (widthOf (fFn w)))
  | 0x1d => scopeOf (w.extractLsb' 19 3) fun sc => srcOf (fA w) 2 fun a => srcOf (fB w) 3 fun b =>
    .ok (.str k sc (w.extractLsb' 16 3) a b (widthOf (fFn w)))
  | 0x1e => bufOf (w.extractLsb' 5 2) fun u => srcOf (fA w) 2 fun a =>
    .ok (.ldb k (dstOf (fD w)) a (widthOf (w.extractLsb' 7 2)) u (w.extractLsb' 0 5))
  | 0x1f => bufOf (w.extractLsb' 20 2) fun u => srcOf (fA w) 2 fun a => srcOf (fB w) 3 fun b =>
    .ok (.stb k u (w.extractLsb' 16 4) a b (widthOf (fFn w)))
  | 0x20 => let d := cD w; let a := cA w; let b := cB w; let dbl := w.getLsbD 2; let ord := ordOf (w.extractLsb' 0 2)
    match (w.extractLsb' 3 4).toNat with
    | 0 => .ok (.amoadd k d a b dbl ord)
    | 1 => .ok (.amoand k d a b dbl ord)
    | 2 => .ok (.amoor k d a b dbl ord)
    | 3 => .ok (.amoxor k d a b dbl ord)
    | 4 => .ok (.amomin k d a b dbl ord)
    | 5 => .ok (.amomax k d a b dbl ord)
    | 6 => .ok (.amominu k d a b dbl ord)
    | 7 => .ok (.amomaxu k d a b dbl ord)
    | 8 => .ok (.amoswap k d a b dbl ord)
    | 9 => .ok (.amocas k d a b dbl ord)
    | 10 => .ok (.amofadd k d a b dbl ord)
    | 11 => .ok (.amofmax k d a b dbl ord)
    | _ => bad 3
  | 0x21 => match (cFn w).toNat with
    | 0 => .ok (.binit k (cD w) (cA w) (cB w))
    | 1 => .ok (.barv k (cD w) (cA w) (cB w))
    | 2 => .ok (.bwait k (cD w) (cA w) (cB w))
    | 3 => .ok (.btest k (cD w) (cA w) (cB w))
    | 4 => .ok (.breset k (cD w) (cA w) (cB w))
    | _ => bad 3
  | 0x22 => scopeOf (w.extractLsb' 6 3) fun sc => need (fD w = 0 && fA w = 0)
    (.ok (.fence k sc (w.getLsbD 5) (w.getLsbD 4) (w.getLsbD 3) (w.getLsbD 2) (w.getLsbD 1) (w.getLsbD 0)))
  | 0x23 => match (cFn w).toNat with
    | 0x00 => need (cB w = 0) (.ok (.cpqry k (cD w) (cA w)))
    | 0x10 => .ok (.frgo k (cD w) (cA w) (cB w))
    | 0x11 => need (cB w = 0) (.ok (.frst k (cD w) (cA w)))
    | 0x12 => need (cB w = 0) (.ok (.frspl k (cD w) (cA w)))
    | 0x13 => .ok (.frld k (cD w) (cA w) (cB w))
    | 0x20 => .ok (.cxlay k (cD w) (cA w) (cB w))
    | 0x21 => .ok (.cxgo k (cD w) (cA w) (cB w))
    | 0x22 => .ok (.carm k (cD w) (cA w) (cB w))
    | 0x23 => need (cB w = 0) (.ok (.cdis k (cD w) (cA w)))
    | 0x24 => need (cB w = 0) (.ok (.ccnt k (cD w) (cA w)))
    | 0x25 => .ok (.cadd k (cD w) (cA w) (cB w))
    | 0x26 => need (cB w = 0) (.ok (.csend k (cD w) (cA w)))
    | 0x27 => .ok (.chist k (cD w) (cA w) (cB w))
    | 0x28 => need (cA w = 0 && cB w = 0) (.ok (.cslot k (cD w)))
    | _ => bad 3
  | 0x24 => match (cFn w).toNat with
    | 0 => need (cB w = 0) (.ok (.pushc k (cD w) (cA w) .fresco))
    | 1 => need (cB w = 0) (.ok (.pushc k (cD w) (cA w) .collective))
    | 2 => need (cB w = 0) (.ok (.pushc k (cD w) (cA w) .glaze))
    | 3 => need (cB w = 0) (.ok (.pushc k (cD w) (cA w) .sync))
    | 4 => need (cB w = 0) (.ok (.pushc k (cD w) (cA w) .copy))
    | _ => bad 3
  | 0x25 => match (fFn w).toNat with
    | 0 => need (fB w = 0) (srcOf (fA w) 2 fun a => .ok (.mlease k (dstOf (fD w)) a))
    | 1 => need (fD w = 0 && fA w = 0 && fB w = 0) (.ok (.mfree k))
    | 2 => need (fA w = 0 && fB w = 0) (.ok (.mstat k (dstOf (fD w))))
    | _ => need (fD w = 0 && fA w = 0 && fB w = 0) (.ok (.msync k))
  | 0x27 => csrOf (fImm w) fun c => need (fA w = 0) (.ok (.csrr k (dstOf (fD w)) c))
  | 0x28 => csrOf (fImm w) fun c => need (fD w = 0) (srcOf (fA w) 2 fun a =>
    .ok (match c with | .palbase => .palbaseWrite k a | c => .csrw k a c))
  | 0x29 => match (fFn w).toNat with
    | 0 => need (fD w = 0 && fB w = 0) (srcOf (fA w) 2 fun a => .ok (.trap k a))
    | 1 => need (w.extractLsb' 2 24 = 0) (.ok .eret)
    | 2 => need (w.extractLsb' 2 20 = 0) (.ok (.halt k))
    | _ => need (w.extractLsb' 2 20 = 0) (.ok (.yield k))
  | 0x2a => need (fD w = 0 && fA w = 0) (.ok (.brk k (fImm w)))
  | 0x2b => match (cFn w).toNat with
    | 0x00 => .ok (.gtick k (cD w) (cA w) (cB w))
    | 0x01 => .ok (.gldg k (cD w) (cA w) (cB w))
    | 0x02 => need (cD w = 0) (.ok (.grst k (cA w) (cB w)))
    | 0x03 => .ok (.gexp k (cD w) (cA w) (cB w))
    | 0x04 => .ok (.gimp k (cD w) (cA w) (cB w))
    | 0x05 => need (cB w = 0) (.ok (.gstat k (cD w) (cA w)))
    | _ => bad 3
  | _ => bad 1

/-- Majors 0x2C to 0x3C (R88). -/
def decodeVector (k : Tok) (w : IWord) : Except Reject Instr :=
  match (fMaj w).toNat with
  | 0x2c => match (fFn w).toNat with
    | 0 => .ok (.vadd k (vD w) (vA w) (vB w) (vG w))
    | 1 => .ok (.vsub k (vD w) (vA w) (vB w) (vG w))
    | 2 => .ok (.vmul k (vD w) (vA w) (vB w) (vG w))
    | _ => .ok (.vfma k (vD w) (vA w) (vB w) (vG w))
  | 0x2d => match (fFn w).toNat with
    | 0 => .ok (.vmin k (vD w) (vA w) (vB w) (vG w))
    | 1 => .ok (.vmax k (vD w) (vA w) (vB w) (vG w))
    | 2 => .ok (.vdiv k (vD w) (vA w) (vB w) (vG w))
    | _ => .ok (.vfms k (vD w) (vA w) (vB w) (vG w))
  | 0x2e => match (fFn w).toNat with
    | 0 => need (vB w = 0) (.ok (.vsqrt k (vD w) (vA w) (vG w)))
    | 1 => need (vB w = 0) (.ok (.vrcp k (vD w) (vA w) (vG w)))
    | 2 => need (vB w = 0) (.ok (.vrsq k (vD w) (vA w) (vG w)))
    | _ => need (vB w = 0) (.ok (.vexp2 k (vD w) (vA w) (vG w)))
  | 0x2f => match (fFn w).toNat with
    | 0 => need (vB w = 0) (.ok (.vlog2 k (vD w) (vA w) (vG w)))
    | 1 => need (vB w = 0) (.ok (.vabs k (vD w) (vA w) (vG w)))
    | 2 => need (vB w = 0) (.ok (.vneg k (vD w) (vA w) (vG w)))
    | _ => need (vB w = 0) (.ok (.vtanh k (vD w) (vA w) (vG w)))
  | 0x30 => match (fFn w).toNat with
    | 0 => .ok (.vceq k (vD w) (vA w) (vB w) (vG w))
    | 1 => .ok (.vclt k (vD w) (vA w) (vB w) (vG w))
    | 2 => .ok (.vcle k (vD w) (vA w) (vB w) (vG w))
    | _ => .ok (.vcne k (vD w) (vA w) (vB w) (vG w))
  | 0x31 => match (fFn w).toNat with
    | 0 => .ok (.viadd k (vD w) (vA w) (vB w) (vG w))
    | 1 => .ok (.visub k (vD w) (vA w) (vB w) (vG w))
    | 2 => .ok (.vimul k (vD w) (vA w) (vB w) (vG w))
    | _ => .ok (.vshl k (vD w) (vA w) (vB w) (vG w))
  | 0x32 => match (fFn w).toNat with
    | 0 => .ok (.vand k (vD w) (vA w) (vB w) (vG w))
    | 1 => .ok (.vor k (vD w) (vA w) (vB w) (vG w))
    | 2 => .ok (.vxor k (vD w) (vA w) (vB w) (vG w))
    | _ => .ok (.vshr k (vD w) (vA w) (vB w) (vG w))
  | 0x33 => match (fFn w).toNat with
    | 0 => .ok (.vadds k (vD w) (vA w) (vB w) (vG w))
    | 1 => .ok (.vmuls k (vD w) (vA w) (vB w) (vG w))
    | 2 => .ok (.vfmas k (vD w) (vA w) (vB w) (vG w))
    | _ => need (vA w = 0) (.ok (.vbcast k (vD w) (vB w) (vG w)))
  | 0x34 => match (fFn w).toNat with
    | 0 => .ok (.vsel k (vD w) (vA w) (vB w) (vG w))
    | 1 => need (vB w = 0) (.ok (.vmov k (vD w) (vA w) (vG w)))
    | 2 => .ok (.vextr k (vD w) (vA w) (vB w) (vG w))
    | _ => .ok (.vins k (vD w) (vA w) (vB w) (vG w))
  | 0x35 => match (fFn w).toNat with
    | 0 => need (vB w = 0) (.ok (.vrsum k (vD w) (vA w) (vG w)))
    | 1 => need (vB w = 0) (.ok (.vcsum k (vD w) (vA w) (vG w)))
    | 2 => need (vB w = 0) (.ok (.vrmax k (vD w) (vA w) (vG w)))
    | _ => need (vB w = 0) (.ok (.vcmax k (vD w) (vA w) (vG w)))
  | 0x36 => match (fFn w).toNat with
    | 0 => need (vB w = 0) (.ok (.vtrn k (vD w) (vA w) (vG w)))
    | 1 => .ok (.vrotr k (vD w) (vA w) (vB w) (vG w))
    | 2 => .ok (.vrotc k (vD w) (vA w) (vB w) (vG w))
    | _ => need (vB w = 0) (.ok (.vrev k (vD w) (vA w) (vG w)))
  | 0x37 => match (fFn w).toNat with
    | 0 => .ok (.vhmul k (vD w) (vA w) (vB w) (vG w))
    | 1 => need (vB w = 0) (.ok (.vhconj k (vD w) (vA w) (vG w)))
    | 2 => need (vB w = 0) (.ok (.vhnorm k (vD w) (vA w) (vG w)))
    | _ => need (vB w = 0) (.ok (.vhinv k (vD w) (vA w) (vG w)))
  | 0x38 => match (fFn w).toNat with
    | 0 => .ok (.vscan k (vD w) (vA w) (vB w) (vG w))
    | 1 => need (vB w = 0) (.ok (.vscana k (vD w) (vA w) (vG w)))
    | 2 => need (vB w = 0) (.ok (.vscanm k (vD w) (vA w) (vG w)))
    | _ => bad 3
  | 0x39 => match (fFn w).toNat with
    | 0 => need (vB w = 0) (.ok (.vcvt k (vD w) (vA w) (vG w)))
    | 1 => need (vB w = 0) (.ok (.vqnt k (vD w) (vA w) (vG w)))
    | 2 => need (vB w = 0) (.ok (.vdq k (vD w) (vA w) (vG w)))
    | _ => need (vB w = 0) (.ok (.vrnd k (vD w) (vA w) (vG w)))
  | 0x3a => match (fFn w).toNat with
    | 0 => need (vG w = 0) (.ok (.pand k (vD w) (vA w) (vB w)))
    | 1 => need (vG w = 0) (.ok (.por k (vD w) (vA w) (vB w)))
    | 2 => need (vB w = 0 && vG w = 0) (.ok (.pnot k (vD w) (vA w)))
    | _ => need (vG w = 0) (.ok (.pxor k (vD w) (vA w) (vB w)))
  | 0x3b => bufOf (w.extractLsb' 12 2) fun u => need (w.extractLsb' 14 3 = 0) (.ok (match (fFn w).toNat with
    | 0 => .vld k (vD w) u (vB w) (vG w)
    | 1 => .vst k (vD w) u (vB w) (vG w)
    | 2 => .vldr k (vD w) u (vB w) (vG w)
    | _ => .vstr k (vD w) u (vB w) (vG w)))
  | 0x3c => match (cFn w).toNat with
    | 0x00 => need (cB w = 0) (.ok (.vshape k (cD w) (cA w)))
    | 0x01 => .ok (.psel k (cD w) (cA w) (cB w))
    | 0x02 => need (cB w = 0) (.ok (.algsel k (cD w) (cA w)))
    | 0x03 => .ok (.vland k (cD w) (cA w) (cB w))
    | _ => bad 3
  | _ => bad 1

/-- The instruction of the Rolcen set that begins with word w and has v in the following slot, or the first failing
check of codes 1, 3, 4 and 6 (R92). -/
def decode (w v : IWord) : Except Reject Instr :=
  if fMaj w = 0x3d then decodeLong (tokOf w) w v
  else if (fMaj w).toNat < 0x19 then decodeScalar (tokOf w) w
  else if (fMaj w).toNat < 0x2c then decodeSystem (tokOf w) w
  else decodeVector (tokOf w) w

/-- The fresco micro-instruction of a word (R320), or the failure of reason 1 of R314. -/
def decodeMicro (w : IWord) : Except Reject Instr :=
  match (w.extractLsb' 27 5).toNat with
  | 1 => need (w.extractLsb' 21 3 = 0 && w.extractLsb' 16 4 = 0) (.ok (.wsetm (mMa w) (w.getLsbD 20) (w.extractLsb' 0 16)))
  | 2 => need (w.extractLsb' 3 24 = 0) (.ok (.wmode (w.extractLsb' 0 3)))
  | 3 => need (w.extractLsb' 2 22 = 0) (.ok (.wopen (mMa w) (w.extractLsb' 0 2)))
  | 4 => need (w.extractLsb' 0 27 = 0) (.ok .wclose)
  | 5 => need (w.extractLsb' 9 18 = 0) (.ok (.wread (w.getLsbD 8) (w.extractLsb' 0 8)))
  | 6 => need (w.extractLsb' 16 11 = 0 && w.extractLsb' 3 5 = 0) (.ok (.wwrite (w.extractLsb' 8 8) (w.extractLsb' 0 3)))
  | 7 => need (w.extractLsb' 8 16 = 0) (.ok (.wscale (mMa w) (w.extractLsb' 0 8)))
  | 8 => need (w.extractLsb' 1 26 = 0) (.ok (.wadd (w.getLsbD 0)))
  | 9 => need (w.extractLsb' 0 27 = 0) (.ok .wdeq)
  | 10 => need (w.extractLsb' 0 24 = 0) (.ok (.wloop (mMa w)))
  | 11 => need (w.extractLsb' 0 27 = 0) (.ok .wnext)
  | 12 => need (w.extractLsb' 0 27 = 0) (.ok .wwin)
  | 13 => need (w.extractLsb' 0 27 = 0) (.ok .wsave)
  | 14 => need (w.extractLsb' 0 27 = 0) (.ok .wrest)
  | 15 => need (w.extractLsb' 0 27 = 0) (.ok .wend)
  | _ => bad 1

/-- The words of an instruction of the Rolcen set (R86-R89); a micro-instruction or an event has none. -/
def encode (i : Instr) : Option (List IWord) :=
  match i with
  | .nop k => some [rrWord 0x00 k.bits 0 0 0 0]
  | .add k d a b => some [rrWord 0x01 k.bits d.bits a.bits b.bits 0]
  | .sub k d a b => some [rrWord 0x01 k.bits d.bits a.bits b.bits 1]
  | .and k d a b => some [rrWord 0x01 k.bits d.bits a.bits b.bits 2]
  | .or k d a b => some [rrWord 0x01 k.bits d.bits a.bits b.bits 3]
  | .xor k d a b => some [rrWord 0x02 k.bits d.bits a.bits b.bits 0]
  | .sll k d a b => some [rrWord 0x02 k.bits d.bits a.bits b.bits 1]
  | .srl k d a b => some [rrWord 0x02 k.bits d.bits a.bits b.bits 2]
  | .sra k d a b => some [rrWord 0x02 k.bits d.bits a.bits b.bits 3]
  | .mul k d a b => some [rrWord 0x03 k.bits d.bits a.bits b.bits 0]
  | .mulh k d a b => some [rrWord 0x03 k.bits d.bits a.bits b.bits 1]
  | .mulhu k d a b => some [rrWord 0x03 k.bits d.bits a.bits b.bits 2]
  | .andn k d a b => some [rrWord 0x03 k.bits d.bits a.bits b.bits 3]
  | .div k d a b => some [rrWord 0x04 k.bits d.bits a.bits b.bits 0]
  | .divu k d a b => some [rrWord 0x04 k.bits d.bits a.bits b.bits 1]
  | .rem k d a b => some [rrWord 0x04 k.bits d.bits a.bits b.bits 2]
  | .remu k d a b => some [rrWord 0x04 k.bits d.bits a.bits b.bits 3]
  | .seq k d a b => some [rrWord 0x05 k.bits d.bits a.bits b.bits 0]
  | .slt k d a b => some [rrWord 0x05 k.bits d.bits a.bits b.bits 1]
  | .sltu k d a b => some [rrWord 0x05 k.bits d.bits a.bits b.bits 2]
  | .sne k d a b => some [rrWord 0x05 k.bits d.bits a.bits b.bits 3]
  | .min k d a b => some [rrWord 0x06 k.bits d.bits a.bits b.bits 0]
  | .max k d a b => some [rrWord 0x06 k.bits d.bits a.bits b.bits 1]
  | .minu k d a b => some [rrWord 0x06 k.bits d.bits a.bits b.bits 2]
  | .maxu k d a b => some [rrWord 0x06 k.bits d.bits a.bits b.bits 3]
  | .addi k d a imm => some [riWord 0x07 k.bits d.bits a.bits imm]
  | .andi k d a imm => some [riWord 0x08 k.bits d.bits a.bits imm]
  | .ori k d a imm => some [riWord 0x09 k.bits d.bits a.bits imm]
  | .xori k d a imm => some [riWord 0x0a k.bits d.bits a.bits imm]
  | .slli k d a n => some [riWord 0x0b k.bits d.bits a.bits (0#2 ++ 0#1 ++ n)]
  | .srli k d a n => some [riWord 0x0b k.bits d.bits a.bits (1#2 ++ 0#1 ++ n)]
  | .srai k d a n => some [riWord 0x0b k.bits d.bits a.bits (2#2 ++ 0#1 ++ n)]
  | .roti k d a n => some [riWord 0x0b k.bits d.bits a.bits (3#2 ++ 0#1 ++ n)]
  | .slti k d a imm => some [riWord 0x0c k.bits d.bits a.bits imm]
  | .sltiu k d a imm => some [riWord 0x0d k.bits d.bits a.bits imm]
  | .addsh k d a b sh => some [rrWord 0x0e k.bits d.bits a.bits b.bits sh]
  | .clz k d a => some [rrWord 0x0f k.bits d.bits a.bits 0 0]
  | .ctz k d a => some [rrWord 0x0f k.bits d.bits a.bits 0 1]
  | .popc k d a => some [rrWord 0x0f k.bits d.bits a.bits 0 2]
  | .brev k d a => some [rrWord 0x0f k.bits d.bits a.bits 0 3]
  | .tclr k d a => some [rrWord 0x10 k.bits d.bits a.bits 0 0]
  | .tget k d a => some [rrWord 0x10 k.bits d.bits (0#2 ++ a) 0 1]
  | .tjoin k d a b => some [rrWord 0x10 k.bits d.bits a.bits b.bits 2]
  | .twait k a => some [rrWord 0x10 k.bits 0 (0#2 ++ a) 0 3]
  | .chcnt k d a => some [rrWord 0x11 k.bits d.bits a.bits 0 0]
  | .chfree k d a => some [rrWord 0x11 k.bits d.bits a.bits 0 1]
  | .tkcnt k d q => some [rrWord 0x11 k.bits d.bits 0 (0#5 ++ q) 2]
  | .beqz k r o x => some [brWord 0x12 k.bits r 0 o x]
  | .bnez k r o x => some [brWord 0x12 k.bits r 1 o x]
  | .bltz k r o x => some [brWord 0x12 k.bits r 2 o x]
  | .bgez k r o x => some [brWord 0x12 k.bits r 3 o x]
  | .bgtz k r o x => some [brWord 0x12 k.bits r 4 o x]
  | .blez k r o x => some [brWord 0x12 k.bits r 5 o x]
  | .j k o x => some [jWord 0x13 k.bits o x]
  | .jal k o x => some [jWord 0x14 k.bits o x]
  | .jr k a => some [rrWord 0x15 k.bits 0 a.bits 0 0]
  | .jalr k a => some [rrWord 0x15 k.bits 0 a.bits 0 1]
  | .loop k c a => some [riWord 0x16 k.bits (0#4 ++ c) a.bits 0]
  | .loopi k c n => some [riWord 0x17 k.bits (0#4 ++ c) n 0]
  | .brloop k c o x => some [brWord 0x18 k.bits (0#3 ++ c) 0 o x]
  | .ld k d a z o => some [riWord 0x19 k.bits d.bits a.bits (z.bits ++ o)]
  | .lds k d a z o => some [riWord 0x1a k.bits d.bits a.bits (z.bits ++ o)]
  | .lda k d a z sc o => some [riWord 0x1b k.bits d.bits a.bits (z.bits ++ sc.bits ++ o)]
  | .st k o a b z => some [rrWord 0x1c k.bits o a.bits b.bits z.bits]
  | .str k sc o a b z => some [rrWord 0x1d k.bits (sc.bits ++ o) a.bits b.bits z.bits]
  | .ldb k d a z u o => some [riWord 0x1e k.bits d.bits a.bits (z.bits ++ u.bits ++ o)]
  | .stb k u o a b z => some [rrWord 0x1f k.bits (u.bits ++ o) a.bits b.bits z.bits]
  | .amoadd k d a b dbl ord => some [cpWord 0x20 k.bits d a b (0#4 ++ BitVec.ofBool dbl ++ ord.bits)]
  | .amoand k d a b dbl ord => some [cpWord 0x20 k.bits d a b (1#4 ++ BitVec.ofBool dbl ++ ord.bits)]
  | .amoor k d a b dbl ord => some [cpWord 0x20 k.bits d a b (2#4 ++ BitVec.ofBool dbl ++ ord.bits)]
  | .amoxor k d a b dbl ord => some [cpWord 0x20 k.bits d a b (3#4 ++ BitVec.ofBool dbl ++ ord.bits)]
  | .amomin k d a b dbl ord => some [cpWord 0x20 k.bits d a b (4#4 ++ BitVec.ofBool dbl ++ ord.bits)]
  | .amomax k d a b dbl ord => some [cpWord 0x20 k.bits d a b (5#4 ++ BitVec.ofBool dbl ++ ord.bits)]
  | .amominu k d a b dbl ord => some [cpWord 0x20 k.bits d a b (6#4 ++ BitVec.ofBool dbl ++ ord.bits)]
  | .amomaxu k d a b dbl ord => some [cpWord 0x20 k.bits d a b (7#4 ++ BitVec.ofBool dbl ++ ord.bits)]
  | .amoswap k d a b dbl ord => some [cpWord 0x20 k.bits d a b (8#4 ++ BitVec.ofBool dbl ++ ord.bits)]
  | .amocas k d a b dbl ord => some [cpWord 0x20 k.bits d a b (9#4 ++ BitVec.ofBool dbl ++ ord.bits)]
  | .amofadd k d a b dbl ord => some [cpWord 0x20 k.bits d a b (10#4 ++ BitVec.ofBool dbl ++ ord.bits)]
  | .amofmax k d a b dbl ord => some [cpWord 0x20 k.bits d a b (11#4 ++ BitVec.ofBool dbl ++ ord.bits)]
  | .binit k d a b => some [cpWord 0x21 k.bits d a b 0]
  | .barv k d a b => some [cpWord 0x21 k.bits d a b 1]
  | .bwait k d a b => some [cpWord 0x21 k.bits d a b 2]
  | .btest k d a b => some [cpWord 0x21 k.bits d a b 3]
  | .breset k d a b => some [cpWord 0x21 k.bits d a b 4]
  | .fence k sc ll ls sl ss eng uo => some [riWord 0x22 k.bits 0 0 (sc.bits ++ BitVec.ofBool ll ++ BitVec.ofBool ls ++ BitVec.ofBool sl ++ BitVec.ofBool ss ++ BitVec.ofBool eng ++ BitVec.ofBool uo)]
  | .cpqry k d a => some [cpWord 0x23 k.bits d a 0 0x00]
  | .frgo k d a b => some [cpWord 0x23 k.bits d a b 0x10]
  | .frst k d a => some [cpWord 0x23 k.bits d a 0 0x11]
  | .frspl k d a => some [cpWord 0x23 k.bits d a 0 0x12]
  | .frld k d a b => some [cpWord 0x23 k.bits d a b 0x13]
  | .cxlay k d a b => some [cpWord 0x23 k.bits d a b 0x20]
  | .cxgo k d a b => some [cpWord 0x23 k.bits d a b 0x21]
  | .carm k d a b => some [cpWord 0x23 k.bits d a b 0x22]
  | .cdis k d a => some [cpWord 0x23 k.bits d a 0 0x23]
  | .ccnt k d a => some [cpWord 0x23 k.bits d a 0 0x24]
  | .cadd k d a b => some [cpWord 0x23 k.bits d a b 0x25]
  | .csend k d a => some [cpWord 0x23 k.bits d a 0 0x26]
  | .chist k d a b => some [cpWord 0x23 k.bits d a b 0x27]
  | .cslot k d => some [cpWord 0x23 k.bits d 0 0 0x28]
  | .pushc k d a q => some [cpWord 0x24 k.bits d a 0 q.bits]
  | .mlease k d a => some [rrWord 0x25 k.bits d.bits a.bits 0 0]
  | .mfree k => some [rrWord 0x25 k.bits 0 0 0 1]
  | .mstat k d => some [rrWord 0x25 k.bits d.bits 0 0 2]
  | .msync k => some [rrWord 0x25 k.bits 0 0 0 3]
  | .csrr k d c => some [riWord 0x27 k.bits d.bits 0 c.bits]
  | .csrw k a c => some [riWord 0x28 k.bits 0 a.bits c.bits]
  | .palbaseWrite k a => some [riWord 0x28 k.bits 0 a.bits 0x042]
  | .trap k a => some [rrWord 0x29 k.bits 0 a.bits 0 0]
  | .eret => some [rrWord 0x29 0 0 0 0 1]
  | .halt k => some [rrWord 0x29 k.bits 0 0 0 2]
  | .yield k => some [rrWord 0x29 k.bits 0 0 0 3]
  | .brk k c => some [riWord 0x2a k.bits 0 0 c]
  | .gtick k d a b => some [cpWord 0x2b k.bits d a b 0x00]
  | .gldg k d a m => some [cpWord 0x2b k.bits d a m 1]
  | .grst k a b => some [cpWord 0x2b k.bits 0 a b 0x02]
  | .gexp k d a b => some [cpWord 0x2b k.bits d a b 0x03]
  | .gimp k d a b => some [cpWord 0x2b k.bits d a b 0x04]
  | .gstat k d a => some [cpWord 0x2b k.bits d a 0 0x05]
  | .vadd k d a b g => some [vvWord 0x2c k.bits d a b g 0]
  | .vsub k d a b g => some [vvWord 0x2c k.bits d a b g 1]
  | .vmul k d a b g => some [vvWord 0x2c k.bits d a b g 2]
  | .vfma k d a b g => some [vvWord 0x2c k.bits d a b g 3]
  | .vmin k d a b g => some [vvWord 0x2d k.bits d a b g 0]
  | .vmax k d a b g => some [vvWord 0x2d k.bits d a b g 1]
  | .vdiv k d a b g => some [vvWord 0x2d k.bits d a b g 2]
  | .vfms k d a b g => some [vvWord 0x2d k.bits d a b g 3]
  | .vsqrt k d a g => some [vvWord 0x2e k.bits d a 0 g 0]
  | .vrcp k d a g => some [vvWord 0x2e k.bits d a 0 g 1]
  | .vrsq k d a g => some [vvWord 0x2e k.bits d a 0 g 2]
  | .vexp2 k d a g => some [vvWord 0x2e k.bits d a 0 g 3]
  | .vlog2 k d a g => some [vvWord 0x2f k.bits d a 0 g 0]
  | .vabs k d a g => some [vvWord 0x2f k.bits d a 0 g 1]
  | .vneg k d a g => some [vvWord 0x2f k.bits d a 0 g 2]
  | .vtanh k d a g => some [vvWord 0x2f k.bits d a 0 g 3]
  | .vceq k d a b g => some [vvWord 0x30 k.bits d a b g 0]
  | .vclt k d a b g => some [vvWord 0x30 k.bits d a b g 1]
  | .vcle k d a b g => some [vvWord 0x30 k.bits d a b g 2]
  | .vcne k d a b g => some [vvWord 0x30 k.bits d a b g 3]
  | .viadd k d a b g => some [vvWord 0x31 k.bits d a b g 0]
  | .visub k d a b g => some [vvWord 0x31 k.bits d a b g 1]
  | .vimul k d a b g => some [vvWord 0x31 k.bits d a b g 2]
  | .vshl k d a b g => some [vvWord 0x31 k.bits d a b g 3]
  | .vand k d a b g => some [vvWord 0x32 k.bits d a b g 0]
  | .vor k d a b g => some [vvWord 0x32 k.bits d a b g 1]
  | .vxor k d a b g => some [vvWord 0x32 k.bits d a b g 2]
  | .vshr k d a b g => some [vvWord 0x32 k.bits d a b g 3]
  | .vadds k d a r g => some [vvWord 0x33 k.bits d a r g 0]
  | .vmuls k d a r g => some [vvWord 0x33 k.bits d a r g 1]
  | .vfmas k d a r g => some [vvWord 0x33 k.bits d a r g 2]
  | .vbcast k d r g => some [vvWord 0x33 k.bits d 0 r g 3]
  | .vsel k d a b g => some [vvWord 0x34 k.bits d a b g 0]
  | .vmov k d a g => some [vvWord 0x34 k.bits d a 0 g 1]
  | .vextr k d a b g => some [vvWord 0x34 k.bits d a b g 2]
  | .vins k d a b g => some [vvWord 0x34 k.bits d a b g 3]
  | .vrsum k d a g => some [vvWord 0x35 k.bits d a 0 g 0]
  | .vcsum k d a g => some [vvWord 0x35 k.bits d a 0 g 1]
  | .vrmax k d a g => some [vvWord 0x35 k.bits d a 0 g 2]
  | .vcmax k d a g => some [vvWord 0x35 k.bits d a 0 g 3]
  | .vtrn k d a g => some [vvWord 0x36 k.bits d a 0 g 0]
  | .vrotr k d a b g => some [vvWord 0x36 k.bits d a b g 1]
  | .vrotc k d a b g => some [vvWord 0x36 k.bits d a b g 2]
  | .vrev k d a g => some [vvWord 0x36 k.bits d a 0 g 3]
  | .vhmul k d a b g => some [vvWord 0x37 k.bits d a b g 0]
  | .vhconj k d a g => some [vvWord 0x37 k.bits d a 0 g 1]
  | .vhnorm k d a g => some [vvWord 0x37 k.bits d a 0 g 2]
  | .vhinv k d a g => some [vvWord 0x37 k.bits d a 0 g 3]
  | .vscan k d a b g => some [vvWord 0x38 k.bits d a b g 0]
  | .vscana k d a g => some [vvWord 0x38 k.bits d a 0 g 1]
  | .vscanm k d a g => some [vvWord 0x38 k.bits d a 0 g 2]
  | .vcvt k d a g => some [vvWord 0x39 k.bits d a 0 g 0]
  | .vqnt k d a g => some [vvWord 0x39 k.bits d a 0 g 1]
  | .vdq k d a g => some [vvWord 0x39 k.bits d a 0 g 2]
  | .vrnd k d a g => some [vvWord 0x39 k.bits d a 0 g 3]
  | .pand k d a b => some [vvWord 0x3a k.bits d a b 0 0]
  | .por k d a b => some [vvWord 0x3a k.bits d a b 0 1]
  | .pnot k d a => some [vvWord 0x3a k.bits d a 0 0 2]
  | .pxor k d a b => some [vvWord 0x3a k.bits d a b 0 3]
  | .vld k d u r g => some [vvWord 0x3b k.bits d (0#3 ++ u.bits) r g 0]
  | .vst k d u r g => some [vvWord 0x3b k.bits d (0#3 ++ u.bits) r g 1]
  | .vldr k d u r g => some [vvWord 0x3b k.bits d (0#3 ++ u.bits) r g 2]
  | .vstr k d u r g => some [vvWord 0x3b k.bits d (0#3 ++ u.bits) r g 3]
  | .vshape k d a => some [cpWord 0x3c k.bits d a 0 0x00]
  | .psel k d a b => some [cpWord 0x3c k.bits d a b 0x01]
  | .algsel k d a => some [cpWord 0x3c k.bits d a 0 0x02]
  | .vland k d a b => some [cpWord 0x3c k.bits d a b 0x03]
  | .liw k d imm => some [longWord k.bits 0x00 (d.bits ++ 0#10), imm]
  | .lih k d imm => some [longWord k.bits 0x01 (0#1 ++ d ++ 0#10), imm]
  | .copyIn k t ts b o u sc acq rel op cl => some [longWord k.bits 0x02 (t ++ ts ++ b ++ 0#1), o ++ u.bits ++ sc.bits ++ BitVec.ofBool acq ++ BitVec.ofBool rel ++ op.bits ++ cl.bits ++ 0#16]
  | .copyOut k t ts b o u sc acq rel op cl => some [longWord k.bits 0x02 (t ++ ts ++ b ++ 1#1), o ++ u.bits ++ sc.bits ++ BitVec.ofBool acq ++ BitVec.ofBool rel ++ op.bits ++ cl.bits ++ 0#16]
  | .copyxIn k t ts b o g u sc acq rel op cl => some [longWord k.bits 0x03 (t ++ ts ++ b ++ 0#1), o ++ u.bits ++ sc.bits ++ BitVec.ofBool acq ++ BitVec.ofBool rel ++ op.bits ++ cl.bits ++ g ++ 0#11]
  | .copyxOut k t ts b o g u sc acq rel op cl => some [longWord k.bits 0x03 (t ++ ts ++ b ++ 1#1), o ++ u.bits ++ sc.bits ++ BitVec.ofBool acq ++ BitVec.ofBool rel ++ op.bits ++ cl.bits ++ g ++ 0#11]
  | .drain k t c ts o sc acq rel op cl => some [longWord k.bits 0x04 (t ++ c ++ ts ++ 0#1), o ++ 0#2 ++ sc.bits ++ BitVec.ofBool acq ++ BitVec.ofBool rel ++ op.bits ++ cl.bits ++ 0#16]
  | .mma k c a b acc pal alg m n kk ta tb ca cb sw chain => some [longWord k.bits 0x05 (c ++ a ++ b ++ BitVec.ofBool acc), pal ++ alg ++ m ++ n ++ kk ++ BitVec.ofBool ta ++ BitVec.ofBool tb ++ BitVec.ofBool ca ++ BitVec.ofBool cb ++ BitVec.ofBool sw ++ BitVec.ofBool chain ++ 0#12]
  | .mmag k c a b acc pal alg m n kk ta tb ca cb sw gr gc => some [longWord k.bits 0x06 (c ++ a ++ b ++ BitVec.ofBool acc), pal ++ alg ++ m ++ n ++ kk ++ BitVec.ofBool ta ++ BitVec.ofBool tb ++ BitVec.ofBool ca ++ BitVec.ofBool cb ++ BitVec.ofBool sw ++ 0#1 ++ gr ++ gc ++ 0#8]
  | .algld k sl r => some [longWord k.bits 0x07 (sl ++ r ++ 0#8), 0]
  | .pset k d kd cnt => some [longWord k.bits 0x08 (d ++ 0#11), kd.bits ++ 0#19 ++ cnt]
  | .vtlu k d a b n g fill => some [longWord k.bits 0x09 (d ++ a ++ b ++ 0#1), n ++ g ++ fill ++ 0#16]
  | .gcfg k ix r => some [longWord k.bits 0x0a (ix ++ r ++ 0#3), 0]
  | .wsetm _ _ _ => none
  | .wmode _ => none
  | .wopen _ _ => none
  | .wclose => none
  | .wread _ _ => none
  | .wwrite _ _ => none
  | .wscale _ _ => none
  | .wadd _ => none
  | .wdeq => none
  | .wloop _ => none
  | .wnext => none
  | .wwin => none
  | .wsave => none
  | .wrest => none
  | .wend => none
  | .hostRmaWrite _ _ _ => none
  | .hostRmaRead _ _ _ => none
  | .tailMessage _ _ _ => none
  | .tailPresent _ => none
  | .ueAtomicRequest _ => none
  | .deliveryContextEstablishment _ _ _ _ _ => none
  | .deliveryContextClose _ => none
  | .queueDescriptorWrite _ _ _ => none
  | .haltedClear _ _ => none
  | .partitionComposition _ _ _ _ _ _ => none
  | .resourceReassignment _ _ => none
  | .schedulingWordWrite _ _ => none
  | .invalidation _ _ _ => none
  | .invalidationComplete _ => none
  | .meshDescriptorWrite _ _ _ => none
  | .counterSupervisorWrite _ _ _ _ => none
  | .collectivePause _ => none
  | .collectiveResume _ => none
  | .firmwareImageLoad _ _ _ => none
  | .mcRegisterWrite _ _ => none
  | .stopDescriptorWrite _ _ _ => none
  | .cutFreeze _ => none
  | .stopResume _ => none
  | .latchRequest _ => none
  | .latch => none
  | .snapshotArm _ _ _ _ => none
  | .snapshotRead _ => none
  | .guestCounterRead _ _ _ _ => none
  | .queueEntryAccept _ => none
  | .dispatchChoice _ => none
  | .conditionEvaluation _ _ => none
  | .nodeCompletion _ _ => none
  | .priorityPreemption _ => none
  | .launchCompletionRecord _ => none
  | .prefetch _ => none
  | .leafBind _ => none
  | .gangStart _ _ => none
  | .leafRetire _ => none
  | .leafAbort _ _ => none
  | .lineFetch _ _ _ => none
  | .landing _ => none
  | .stallTimeOut _ => none
  | .machineCheck _ _ _ => none
  | .orderingBufferPerform _ _ _ _ _ => none
  | .fenceTokenRelease _ _ => none
  | .bufferAccessPerform _ _ => none
  | .walkComplete _ _ => none
  | .dieCacheWriteBack _ _ => none
  | .dieCacheDiscard _ _ => none
  | .copyEngineAccess _ _ _ => none
  | .copyCompletion _ _ => none
  | .globalCopy _ _ => none
  | .globalCopyCommand _ _ => none
  | .muralCommandStart _ => none
  | .muralCommandComplete _ => none
  | .spillComplete _ => none
  | .lboundExpiry _ _ => none
  | .leaseIdleExpiry _ => none
  | .groupReservation _ _ => none
  | .tickPresent _ _ => none
  | .wordAdvance _ => none
  | .glazeHold _ _ => none
  | .glazeControlCommand _ _ => none
  | .bwaitTimeBoundExpiry _ => none
  | .syncCommand _ _ _ => none
  | .collectiveMessage _ => none
  | .sendComplete _ _ => none
  | .exchangeComplete _ _ _ => none
  | .peerUnreachable _ _ => none
  | .collectiveCommand _ _ _ => none
  | .jobStart _ => none
  | .window _ _ => none
  | .frescoSpill _ => none
  | .frescoRestore _ => none
  | .frescoCommand _ _ => none
  | .supervisorPreemptionRequest _ => none
  | .preemptionSave _ => none
  | .powerDownEntry _ => none
  | .powerDownExit _ => none
  | .selfRefreshRequest _ => none
  | .selfRefreshExit _ => none
  | .supplySag _ => none
  | .supplyRecoveryStep _ => none
  | .suspendRequest _ => none
  | .quiesceLimitExpiry => none
  | .suspendSave => none
  | .resumeRequest _ _ => none
  | .failureAcknowledge => none
  | .powerOn _ _ => none
  | .selfTestPass _ => none
  | .configurationRecordWrite _ => none
  | .attestationRequest _ => none

/-- The word of a micro-instruction (R320). -/
def encodeMicro (i : Instr) : Option IWord :=
  match i with
  | .wsetm m h i => some (microWord 1 m (BitVec.ofBool h) (i))
  | .wmode i => some (microWord 2 0 0 (0#13 ++ i))
  | .wopen m b => some (microWord 3 m 0 (0#14 ++ b))
  | .wclose => some (microWord 4 0 0 (0))
  | .wread sb i => some (microWord 5 0 0 (0#7 ++ BitVec.ofBool sb ++ i))
  | .wwrite i src => some (microWord 6 0 0 (i ++ 0#5 ++ src))
  | .wscale m i => some (microWord 7 m 0 (0#8 ++ i))
  | .wadd h => some (microWord 8 0 0 (0#15 ++ BitVec.ofBool h))
  | .wdeq => some (microWord 9 0 0 (0))
  | .wloop m => some (microWord 10 m 0 (0))
  | .wnext => some (microWord 11 0 0 (0))
  | .wwin => some (microWord 12 0 0 (0))
  | .wsave => some (microWord 13 0 0 (0))
  | .wrest => some (microWord 14 0 0 (0))
  | .wend => some (microWord 15 0 0 (0))
  | _ => none

/-- The sequencers that may execute a word (R88, R89), or none for a reserved major. -/
def permitted (w : IWord) : Option (List SeqId) :=
  let m := (fMaj w).toNat
  let all := [SeqId.x, .l, .c, .s]
  if m = 0x26 ∨ m = 0x3e ∨ m = 0x3f then none
  else if m ≤ 0x18 then some all
  else if m ≤ 0x21 ∨ m = 0x2b then some [.x, .l, .s]
  else if m ≤ 0x24 then some all
  else if m = 0x25 then some [.c]
  else if m ≤ 0x2a then some all
  else if m ≤ 0x3c then some [.c]
  else
    let sub := (w.extractLsb' 16 6).toNat
    if sub = 2 ∨ sub = 3 then some (if w.getLsbD 0 then [.s] else [.l])
    else if sub = 4 then some [.s]
    else if 5 ≤ sub ∧ sub ≤ 9 then some [.c]
    else if sub = 0x0a then some [.x]
    else some all

/-- Whether a word is the first of a long form (R87). -/
def isLong (w : IWord) : Bool := fMaj w = 0x3d

/-- Little-endian bytes to a word (R1). -/
def wordOfBytes (bs : List Byte) : IWord :=
  bs.getD 3 0 ++ bs.getD 2 0 ++ bs.getD 1 0 ++ bs.getD 0 0

/-- The bytes of an instruction word as memory holds it, lowest address first (R1). -/
def bytesOfWord (w : IWord) : List Byte :=
  [w.extractLsb' 0 8, w.extractLsb' 8 8, w.extractLsb' 16 8, w.extractLsb' 24 8]

/-- What the decoder reads from an instruction whose bits are w, laid out as memory holds it: word 0 in the low 32 bits
of w, word 1 above it, absent bits zero. A word of the hand's map is read as such; a word whose row belongs to the
fresco micro-instructions alone is not a hand word, and is answered by `decodeMicro` only where `decode` refuses it. -/
def decodeTableWord (nbits w : Nat) : Option Instr :=
  let b := BitVec.ofNat 64 (w % 2 ^ nbits)
  let bs := bytesOfWord (b.extractLsb' 0 32)
  let cs := bytesOfWord (b.extractLsb' 32 32)
  match decode (wordOfBytes bs) (wordOfBytes cs) with
  | .ok i => some i
  | .error _ =>
    match decodeMicro (wordOfBytes bs) with
    | .ok i => some i
    | .error _ => none

end Sys2Proof
end

