-- ==== Sys2Proof/Config.lean ====
section
/-! DEFINITION. What one part of the hardware fixes and the spec leaves open: constants with no body, so that nothing
in Lean can compute or assume a value of them. Each is a free value of the assumption log (entries 3 and 4). -/

namespace Sys2Proof.Config

/-- ID.STEP, the silicon stepping, "fixed for the part" (R120). -/
opaque stepping : BitVec 8

/-- The message pattern that the planner picks for a layout pair and a mesh, 1 ring, 2 tree or 3 direct (R281): the mesh as every
device of it has it, without the device's own rank. -/
opaque planner : BitVec 512 → BitVec 64 → Nat

/-- Whether an Ethernet port is split into two halves (R6, R15). -/
opaque portSplit : Nat → Bool

/-- What the firmware of a link processor leaves in its core (R6, R283): applied to State.fresh, the kind of register (0 integer, 1
floating-point, 2 control, 3 pc) and its number. -/
opaque linkWord : Nat → Nat → Nat → BitVec 64

/-- The same for its vector registers of 512 bits. -/
opaque linkVec : Nat → Nat → BitVec 512

/-- What a byte of a channel reads as after the n-th key change when nothing has written it since: the old ciphertext
under a new key (R48 step 3). Arguments: the channel's key generation and the physical address. -/
opaque rekeyedByte : Nat → Nat → Byte

/-- A 64-bit value the spec leaves open, applied to the counter State.fresh. -/
opaque freeWord : Nat → Word

/-- A byte the spec leaves open, applied to the counter State.fresh and a position. -/
opaque freeByte : Nat → Nat → Byte

/-- The error in units of the last place of an approximated function (R184, R203), applied to the function's number
(0 VRCP, 1 VRSQ, 2 VEXP2, 3 VLOG2, 4 VTANH) and the FP32 input. The model uses it clamped to the range -2 to 2. -/
opaque approxError : Nat → BitVec 32 → Int

/-- The SCALE of a VQNT block in a format whose largest finite value is 0, applied to CFMT and the block's active
elements: R213 takes the logarithm of that 0. -/
opaque quantScale : BitVec 24 → List (BitVec 32) → BitVec 8

/-- The SM3 digest of a byte string (R313, R364, R366): the spec names the algorithm and does not define it. -/
opaque sm3 : List Byte → BitVec 256

/-- The SM3 digest of the vendor's SM2 public key, which the boot ROM holds (R364). -/
opaque vendorKey : BitVec 256

/-- The verdict of an SM2 signature check (R283, R313, R364): by the public key with this SM3 digest, over this digest. -/
opaque sm2Valid : BitVec 256 → BitVec 256 → BitVec 512 → Bool

/-- The bytes of the suspend image that holds this state (R360): the spec says what it holds and gives it no layout. -/
opaque imageLayout : List Nat → List Byte

/-- The SM2 signature the device makes over a digest (R366). -/
opaque sm2Sign : BitVec 256 → BitVec 512

end Sys2Proof.Config
end

