-- ==== Sys2Proof/Machine/Table.lean ====
section
/-! DEFINITION. Sparse tables: the one container this model uses for files of like registers and for units by number.
A key that no entry lists holds the table's default, which every reader names. -/

namespace Sys2Proof.Machine

/-- Entries by key, at most one entry a key. -/
abbrev Table (α : Type) := List (Nat × α)

/-- The value at key k, or the default d. -/
def tget {α : Type} (d : α) (t : Table α) (k : Nat) : α :=
  match t with
  | [] => d
  | (j, v) :: r => if j = k then v else tget d r k

/-- The table with v at key k and every other key unchanged. -/
def tput {α : Type} (t : Table α) (k : Nat) (v : α) : Table α :=
  (k, v) :: t.filter (fun e => decide (e.1 ≠ k))

/-- The table with the value at key k passed through f. -/
def tmod {α : Type} (d : α) (t : Table α) (k : Nat) (f : α → α) : Table α :=
  tput t k (f (tget d t k))

/-- The table without key k. -/
def tdel {α : Type} (t : Table α) (k : Nat) : Table α :=
  t.filter (fun e => decide (e.1 ≠ k))

/-- Every entry's value passed through f (a key that no entry lists keeps the default). -/
def tmap {α : Type} (t : Table α) (f : Nat → α → α) : Table α :=
  t.map (fun e => (e.1, f e.1 e.2))

/-- Whether some entry satisfies p. -/
def tany {α : Type} (t : Table α) (p : Nat → α → Bool) : Bool :=
  t.any (fun e => p e.1 e.2)

/-- The key of the least entry that satisfies p. -/
def tfindKey {α : Type} (t : Table α) (p : Nat → α → Bool) : Option Nat :=
  t.foldl (fun o e => if p e.1 e.2 then (match o with
    | none => some e.1
    | some j => some (min j e.1)) else o) none

/-- The element at position i of a list passed through f. -/
def lmod {α : Type} : List α → Nat → (α → α) → List α
  | [], _, _ => []
  | x :: r, 0, f => f x :: r
  | x :: r, i + 1, f => x :: lmod r i f

/-- The list without the element at position i. -/
def ldrop {α : Type} : List α → Nat → List α
  | [], _ => []
  | _ :: r, 0 => r
  | x :: r, i + 1 => x :: ldrop r i

end Sys2Proof.Machine
end

