-- ==== Sys2Proof/Machine/State.lean ====
section
/-! DEFINITION. The state of the Kerzal as plain data, and its value after reset. Every structure names the rule of
spec/ that gives its fields. Units that the part numbers (hands, easels, dies, channels, partitions, queues) are kept
in sparse tables by number; a unit that no entry lists stands at its reset value. -/

namespace Sys2Proof.Machine

/-! ### Outcomes -/

/-- No meaning of this model ends in a fault: an address outside the part (R124) is a translation failure or a fault code of
its engine, which the meanings take as the spec says. -/
inductive Fault where
  /-- An access outside the 384 channels (R124). No meaning raises it; it stands here so that the type has a constructor. Safe. -/
  | noSuchAddress
  deriving DecidableEq, Repr

/-- Reasons for which an instruction has no meaning in this model. -/
inductive Refusal where
  /-- For an arm of exec whose instruction has no meaning: no arm is one, and no meaning raises it. Safe. -/
  | notModelled (mnemonic : String)
  deriving DecidableEq, Repr

/-! ### Memory (R14, R124, R8) -/

/-- Bytes by address in canonical form: addresses strictly rising, no entry equal to what an unlisted address reads
as. `gen` gives the key generation of a channel (R48), 0 where it lists none. -/
structure Memory where
  cells : List Host.Cell
  gen   : Table Nat
  deriving DecidableEq, Repr

/-- A code pointer before it is packed (R101): a line counted from CODEBASE, and a slot. -/
structure Ptr where
  line : Int
  slot : Nat
  deriving DecidableEq, Repr

/-- The leaf bound on a hand (R25, R59): its launch, its task, its leaf index, its code image, its buffer windows in
units of 64 KiB (base and size of AB, WB and CB). -/
structure Bound where
  launch   : Nat
  task     : Nat
  leaf     : Nat
  codeBase : Nat
  codeLen  : Nat
  windows  : List (Nat × Nat)
  deriving DecidableEq, Repr

/-! ### Taint (R76-R78) -/

/-- The taint tag of a register (R76): LOC, SAT and FOR. -/
structure Tag where
  loc : BitVec 16
  sat : Bool
  frn : BitVec 4
  deriving DecidableEq, Repr

/-- A set of loads in one sender's terms (R76, R78): the hand of the easel, its sequencer, its slots, its SAT. The leaf that runs
there is kept, so that a slot which a pre-empted leaf keeps busy is not taken for a later leaf's (R340). -/
structure Term where
  hand : Nat
  sq   : SeqId
  leaf : Option Bound
  set  : BitVec 16
  sat  : Bool
  deriving DecidableEq, Repr

/-- A channel entry (R70, R71): reserved while val is none; ticket names the push that fills it. -/
structure ChanEntry where
  val    : Option Word
  ticket : Nat
  terms  : List Term
  deriving DecidableEq, Repr

/-- A load that is not yet performed (R77): its ticket and its slot, or none for a saturated load. -/
structure LoadRec where
  ticket : Nat
  slot   : Option Nat
  deriving DecidableEq, Repr

/-- A register that waits for a load, a token or a reply (R100, R141, R150). -/
structure PendReg where
  reg    : Nat
  ticket : Nat
  deriving DecidableEq, Repr

/-- Where a result goes when it arrives: nowhere, a scalar register, or the reserved entry of a channel. -/
inductive DstRef where
  | none
  | reg (n : Nat)
  | chan (n : Nat)
  deriving DecidableEq, Repr

/-! ### Translation (R123-R129) -/

/-- KIND of a page (R125). -/
inductive PageKind where
  | so | rc | uo
  deriving DecidableEq, Repr

/-- TYPE of a page (R125). -/
inductive PageType where
  | normal | glaze | sync | code
  deriving DecidableEq, Repr

/-- A leaf translation as a TLB holds it (R125, R129): the partition, the page's first virtual address, the base-2
logarithm of its size, its first physical address and its attributes. -/
structure Page where
  part   : Nat
  vbase  : Nat
  size   : Nat
  pbase  : Nat
  kind   : PageKind
  ptype  : PageType
  sup    : Bool
  w      : Bool
  rd     : Bool
  keyid  : Nat
  layout : Nat
  deriving DecidableEq, Repr

/-- A translation failure (R128): the cause (5 translation, 6 protection), its reason, and the walk level. -/
structure XlFault where
  cause  : Nat
  reason : Nat
  level  : Nat
  deriving DecidableEq, Repr

/-- A table walk of a sequencer (R129): the 4 KiB page it translates, its place in the order of arrival, when it started
(none while it waits for one of the die's 96), the level and the table whose entry it reads next, and, once it has ended, its page or its failure, kept for the instruction
that asked for it. -/
structure Walk where
  part   : Nat
  va     : Nat
  order  : Nat
  start  : Option Nat
  level  : Nat
  table  : Nat
  found  : Option Page
  failed : Option XlFault
  deriving DecidableEq, Repr

/-- A piece of an access that is performed in one step (R169, R170): where it lies, the base-2 logarithm of its page's
size, which bytes of the access it is, and, for a load, the bytes bound. `fwd` is the ticket of the store that satisfied a piece of
a load (R162). -/
structure Piece where
  va    : Nat
  pa    : Nat
  psize : Nat
  len   : Nat
  off   : Nat
  kind  : PageKind
  ptype : PageType
  done  : Bool
  fwd   : Option Nat
  data  : List Byte
  deriving DecidableEq, Repr

/-! ### The ordering buffer (R155, R161) -/

/-- What an ordering-buffer entry does. -/
inductive ObOp where
  /-- LD, LDS, LDA (R143, R144). -/
  | load (signed : Bool) (acq : Option Scope) (dst : DstRef)
  /-- ST, STR (R145, R146). -/
  | store (rel : Option Scope)
  /-- AMO (R274): the operation code, double, the operand, CAS's new value. -/
  | amo (op : Nat) (dbl : Bool) (ord : AmoOrd) (b c : Word) (dst : DstRef)
  /-- BINIT, BARV, BWAIT, BTEST, BRESET (R276): the operation code 0-4, the operand, whether a BWAIT has registered, and
  the TOK bits, which act when the reply arrives. -/
  | barrier (op : Nat) (b : Word) (registered : Bool) (k : Tok) (dst : DstRef)
  /-- GTICK, GLDG, GRST, GEXP, GIMP, GSTAT (R254-R258): the operation code 0-5, its operand words, its destination. -/
  | glaze (op : Nat) (args : List Word) (dst : DstRef)
  /-- A fence marker (R165). -/
  | fence (sc : Scope) (ll ls sl ss eng uo : Bool)
  deriving DecidableEq, Repr

/-- An entry of an ordering buffer. -/
structure ObEntry where
  ticket : Nat
  op     : ObOp
  tag    : Tag
  va     : Nat
  width  : Nat
  pieces : List Piece
  data   : List Byte
  deriving DecidableEq, Repr

/-- A token increment of a sequencer that a FENCE holds, or that waits behind one (R165). -/
structure HeldSignal where
  fwd   : Bool
  fence : Option Nat
  deriving DecidableEq, Repr

/-- A store performed in the die cache whose bytes are not yet written back (R160), and whether its page is UO (R165). -/
structure Dirtied where
  ticket : Nat
  pa     : Nat
  len    : Nat
  uo     : Bool
  deriving DecidableEq, Repr

/-! ### Sequencers (R64-R81) -/

/-- Whether a sequencer was started at bind, and whether it has executed HALT (R25, R346). -/
inductive SeqStatus where
  | off | run | halted
  deriving DecidableEq, Repr

/-- A result on its way (R100, R150): to the reserved entry of a channel, or to a pending register. `due` is the cycle of the die
at which it lands, none for a reply whose time the spec leaves open. -/
structure Late where
  ticket : Nat
  dst    : DstRef
  due    : Option Nat
  val    : Word
  tag    : Tag
  deriving DecidableEq, Repr

/-- One sequencer of a hand. `awaits` is the code pointer of a barrier operation whose reply is outstanding, and whether the
sequencer still stands at it, which a trap entry ends (R267, R330). -/
structure Seqr where
  regs    : Table Word
  tags    : Table Tag
  lc      : Table (BitVec 32)
  pc      : Ptr
  led     : Ptr
  ranOff  : Bool
  line    : Option (List IWord)
  status  : SeqStatus
  frozen  : Bool
  fwdQ    : Nat
  backQ   : Nat
  held    : List HeldSignal
  slots   : BitVec 16
  loads   : List LoadRec
  satLast : Option Nat
  frecs   : Table Term
  pend    : List PendReg
  ob      : List ObEntry
  late    : List Late
  awaits  : Option (Ptr × Bool)
  dirtied : List Dirtied
  walks   : List Walk
  stall   : Nat
  since   : Option Nat
  deriving DecidableEq, Repr

/-- What a landing of C writes (R80, R81): a scalar register, a channel, a vector register under a mask of the elements
it writes, or a predicate register under such a mask; register numbers are physical (R66). -/
inductive LandWhat where
  | scalar (n : Nat) (v : Word)
  | chan (n : Nat) (v : Word)
  | vec (n : Nat) (v : List (BitVec 32)) (mask : BitVec 1024)
  | pred (n : Nat) (v mask : BitVec 1024)
  deriving DecidableEq, Repr

/-- A pending landing: its remaining virtual distance, its tag, whether the tag its destination holds joins that tag
(R197), and the FSTAT bits it sets (R182). -/
structure Landing where
  rem  : Nat
  what : LandWhat
  tag  : Tag
  join : Bool
  stat : BitVec 3
  deriving DecidableEq, Repr

/-! ### Hands -/

/-- A byte range of a buffer (R134), in absolute buffer addresses rounded outward to 32 bytes. -/
structure BufRange where
  buf : Buf
  lo  : Nat
  hi  : Nat
  wr  : Bool
  deriving DecidableEq, Repr

/-- The open chain, or a spilled one (R225): what the next command must match, and the accumulators in the array,
FP32 or INT32 patterns in the order row, column, component. -/
structure Chain where
  c    : Word
  m    : Nat
  n    : Nat
  slot : Nat
  int  : Bool
  d    : Nat
  base : Nat
  accs : List (BitVec 32)
  deriving DecidableEq, Repr

/-- One hand (R64-R81, R119, R188, R196, R228, R269, R330). Vector and predicate registers are physical (R66). `ending`
holds the status of R344 with which the leaf ends once the conditions of R342 hold, `landStat` the FSTAT bits that the
landings of the current virtual cycle have set (R182), `portAsk` the vector port that a VLD of C waits for with its ranges
(R133), `askBudget` the budget that an MLEASE waiting for the lease asks for
(R239), `chainMark` the chain that was spilled and not yet continued (R225), `trapTime` when the last trap entry froze the other
sequencers (R330). -/
structure Hand where
  bound    : Option Bound
  lvl      : List (BitVec 24)
  x        : Seqr
  l        : Seqr
  c        : Seqr
  s        : Seqr
  chans    : Table (List ChanEntry)
  vregs    : Table (List (BitVec 32))
  vtags    : Table Tag
  pregs    : Table (BitVec 1024)
  ptags    : Table Tag
  rot      : BitVec 4
  logc     : BitVec 4
  cfmt     : BitVec 24
  bsz      : BitVec 2
  palAddr  : BitVec 32
  palPlc   : BitVec 2
  palOff   : BitVec 4
  palette  : Table (BitVec 128)
  algs     : Table (BitVec 640)
  algsel   : BitVec 3
  rm       : BitVec 3
  satovf   : Bool
  fstat    : BitVec 3
  landStat : BitVec 3
  vtime    : Nat
  landings : List Landing
  lanes    : Nat
  portAsk  : Option (Nat × List BufRange)
  tvec     : BitVec 28
  tcause   : BitVec 13
  tinfo    : Word
  epcPc    : BitVec 28
  epcXres  : BitVec 28
  sup      : Bool
  trapTime : Nat
  heldMc   : Option Word
  waitlim  : BitVec 24
  lbound   : BitVec 32
  setBudget : BitVec 9
  askBudget : Nat
  chainMark : Option Chain
  tlb      : List Page
  ending   : Option Nat
  deriving DecidableEq, Repr

/-! ### Engine commands -/

/-- A dimension of a tensor shape record (R136). -/
structure Dim where
  extent  : Nat
  box     : Nat
  gstride : Int
  bstride : Nat
  deriving DecidableEq, Repr

/-- Why a copy runs: COPY or COPYX in, COPY or COPYX out, DRAIN, a PUSHC global copy that is not yet checked, a global
copy (R152), a copy node of a launch, a prefetch for the scoreboard entry of a hand with this order (R26). -/
inductive CopyKind where
  | inn | out | drain | command | global
  | node (launch task : Nat)
  | prefetch (g entry : Nat)
  deriving DecidableEq, Repr

/-- A command of a copy queue (R148, R153). Positions count half-bytes of the box in element order (R138): `pos` is the
next one, `bytes` counts destination half-bytes written. `pages` are the translations captured at enqueue (R128), `srcPages`
those of a global copy's source. `words` are a PUSHC command's eight words, `done` is the physical address of its
completion word with the page that it lies on, `reason` the REASON of that word, or the page of a copy node's first bad granule (R51); `held` holds the source
granules that a global copy has read and still needs, each with its address and whether its read met an uncorrectable error (R169). -/
structure CopyCmd where
  ticket   : Nat
  hand     : Nat
  sq       : SeqId
  leaf     : Option Bound
  part     : Nat
  kind     : CopyKind
  tag      : Tag
  words    : List Word
  acq      : Bool
  rel      : Bool
  scope    : Scope
  outOp    : OutOp
  clip     : Clip
  buf      : Buf
  baddr    : Nat
  rowStep  : Option Nat
  src      : Nat
  dst      : Nat
  dims     : List Dim
  origin   : List Int
  cbits    : Nat
  comps    : Nat
  fmt      : BitVec 24
  fill     : BitVec 32
  pages    : List Page
  srcPages : List Page
  token    : Option Nat
  done     : Option (Nat × Page)
  started  : Bool
  pos      : Nat
  bytes    : Nat
  held     : List (Nat × List Byte × Bool)
  status   : Nat
  reason   : Nat
  deriving DecidableEq, Repr

/-- What a range-checker entry waits to do (R134): an LDB, an STB, a VST or VSTR (address and bytes of each active
element in order), or the accesses of the engine command with this ticket. -/
inductive RcWhat where
  | ldb (addr width : Nat) (dst : DstRef)
  | stb (addr : Nat) (data : List Byte)
  | vst (cells : List (Nat × BitVec 32))
  | cmd
  deriving DecidableEq, Repr

/-- An entry of a range checker (R134). -/
structure RcEntry where
  ticket : Nat
  hand   : Nat
  sq     : SeqId
  tag    : Tag
  ranges : List BufRange
  what   : RcWhat
  deriving DecidableEq, Repr

/-- A command of a fresco, collective, glaze-control or synchronisation queue: the CMD function code, or none for a
PUSHC; its operand words; its reply register; `extra` holds what issue has read for it (a job record, an image) and
`pages` what issue has translated. -/
structure EngCmd where
  ticket : Nat
  hand   : Nat
  sq     : SeqId
  part   : Nat
  leaf   : Option Bound
  tag    : Tag
  fn     : Option Nat
  words  : List Word
  dst    : DstRef
  extra  : List Byte
  pages  : List Page
  phase  : Nat
  deriving DecidableEq, Repr

/-- An entry that an engine pushes to ch8, ch9, ch10 or ch11 of a hand while the channel has no room, or while its
leaf is pre-empted (R71, R72). -/
structure EngPush where
  chan : Nat
  leaf : Option Bound
  val  : Word
  deriving DecidableEq, Repr

/-! ### The mural array (R220-R239) -/

/-- State of an easel's lease (R221). -/
inductive LeaseState where
  | free | held | spilling | group
  deriving DecidableEq, Repr

/-- An accepted mural command (R220, R235): its operand registers, its decoded fields, the palette entry, the algebra
record, and where the windows of A, B and C stand for the easel that runs it, as they were when it was accepted; `group` gives a cooperative command's rows, columns and leading easel (R232), `start` where its accumulators come from once
it has started: 0 as its ACC says, 1 the open chain, 2 a spilled one (R225); `iw` keeps its two instruction words. -/
structure MuralCmd where
  iw     : BitVec 64
  ticket : Nat
  hand   : Nat
  a      : Word
  b      : Word
  c      : Word
  acc    : Bool
  m      : Nat
  n      : Nat
  k      : Nat
  ta     : Bool
  tb     : Bool
  conjA  : Bool
  conjB  : Bool
  swap   : Bool
  chain  : Bool
  slot   : Nat
  pal    : BitVec 128
  alg    : BitVec 640
  rm     : BitVec 3
  group  : Option (Nat × Nat × Nat)
  start  : Nat
  winA   : Nat
  winB   : Nat
  winC   : Nat
  deriving DecidableEq, Repr

/-- The mural array of an easel (R220-R234). Hands are numbered 0-3 within the easel; `waits` gives the TIME at which
a requesting hand's wait started (number 4 stands for the cluster's group reservation), `expired` those whose LBOUND has expired,
`group` the request that the easel is in GROUP for, `idle` the die's cycle since which no command has run or been accepted, `spill` the range-checker entry of a spill
under way, `back` the holder and budget to which a group lease returns (R234). -/
structure Mural where
  lease    : LeaseState
  holder   : Nat
  last     : Nat
  budget   : Nat
  queue    : List MuralCmd
  running  : Option MuralCmd
  chain    : Option Chain
  spill    : Option Nat
  mfree    : Bool
  waits    : Table Nat
  expired  : List Nat
  excluded : Option Nat
  group    : Nat
  idle     : Nat
  back     : Option (Nat × Nat)
  deriving DecidableEq, Repr

/-- An MMAG that waits for its group reservation (R233): its number, its hand, its rows and columns, and when its wait began. -/
structure GroupReq where
  id    : Nat
  hand  : Nat
  rows  : Nat
  cols  : Nat
  since : Nat
  deriving DecidableEq, Repr

/-- A conflict-matrix snapshot buffer and its arming (R355). -/
structure Snapshot where
  armed  : Option (Nat × SeqId × Nat × Bool)
  ready  : Bool
  missed : Nat
  time   : Word
  image  : Table (BitVec 32)
  deriving DecidableEq, Repr

/-- One easel (R8, R133-R135, R148, R220, R354). The conflict matrix is kept by 80·requester + bank. -/
structure Easel where
  owner    : Option Nat
  ab       : Memory
  wb       : Memory
  cb       : Memory
  portLast : Table Nat
  icache   : Table (List IWord)
  copyQ    : List CopyCmd
  rc       : List RcEntry
  frescoQ  : List EngCmd
  collQ    : List EngCmd
  glazeQ   : List EngCmd
  syncQ    : List EngCmd
  mural    : Mural
  conflict : Table (BitVec 32)
  snap     : Snapshot
  deriving DecidableEq, Repr

/-! ### Compute dies -/

/-- A byte of a guest line in a die cache (R159): its value, whether it is dirty, and when it was written. -/
structure CacheByte where
  val   : Byte
  dirty : Bool
  at_   : Nat
  deriving DecidableEq, Repr

/-- A registration of a BWAIT at a barrier object (R264, R266). -/
structure Registration where
  pa     : Nat
  hand   : Nat
  sq     : SeqId
  ticket : Nat
  bound  : Option Nat
  deriving DecidableEq, Repr

/-- One compute die (R129, R155, R159, R262, R357): its cache, its TLB, the sync lines its engine's SRAM holds, most
recently used first, the BWAIT registrations, its clock step k, when it last changed, and how many sixteenths of cycles its clock
had made by then (R4, R357). -/
structure Die where
  cache : Table CacheByte
  tlb   : List Page
  sram  : List Nat
  regs  : List Registration
  k     : Nat
  kTime : Nat
  run   : Nat
  deriving DecidableEq, Repr

/-! ### HBM channels, glaze and fresco -/

/-- Power state of a channel (R358). -/
inductive ChanPower where
  | active | powerDown | selfRefresh | retention
  deriving DecidableEq, Repr

/-- A tick command at one channel (R246, R247): the words that it has still to advance with the advances each still
needs, in ascending address. -/
structure TickJob where
  ticket : Nat
  part   : Nat
  region : Nat
  tick0  : Nat
  n      : Nat
  words  : List (Nat × Nat)
  deriving DecidableEq, Repr

/-- State of a fresco context (R324). -/
inductive CtxState where
  | idle | running | window | draining | spilled | restoring
  deriving DecidableEq, Repr

/-- A fresco context (R309): its registers, its job, and who spilled it (0 none, 1 FRSPL, 2 pre-emption, 3 power). `since`
counts the nanoseconds of micro-instructions since the last window point (R311), `phase` the rows of a WSAVE or WREST
that are done, `begun` says that the job's orderings are met (R316), `drained` that it stands behind a loop boundary with
a spill requested (R318), `asked` the accesses that wait at its held bank in the order in which they arrived, `waited` those that its open
window has still to serve (R311, R312), `entry` is the first word of its image. Its pages are kept as 4 KiB pages. -/
structure Context where
  acc     : Table (BitVec 32)
  pb      : Table Byte
  sb      : Table Byte
  outB    : Table (BitVec 16)
  m       : Table (BitVec 32)
  scale   : BitVec 8
  w4      : Bool
  sat     : Bool
  curBank : Nat
  curRow  : Nat
  hold    : Bool
  mpc     : Nat
  loops   : List (Nat × Nat)
  wcnt    : Nat
  since   : Nat
  state   : CtxState
  spiller : Nat
  abort   : Bool
  phase   : Nat
  begun   : Bool
  drained : Bool
  asked   : List (Nat × Nat)
  waited  : List (Nat × Nat)
  part    : Nat
  hand    : Nat
  leaf    : Option Bound
  evt     : Bool
  cookie  : BitVec 16
  wpages  : List Page
  opages  : List Page
  entry   : Nat
  deriving DecidableEq, Repr

/-- One HBM channel (R6, R246, R309, R358): its owner, power state and last access, since when an access waits for it to leave
a power state, tick jobs in arbiter order, the
instruction buffer of its fresco unit with the images loaded (first word and length), and four contexts. -/
structure Channel where
  owner  : Option Nat
  power  : ChanPower
  access : Nat
  wake   : Option Nat
  ticks  : List TickJob
  ibuf   : Table IWord
  images : List (Nat × Nat)
  ctx    : Table Context
  deriving DecidableEq, Repr

/-- A tick, export or import under way (R246, R252): what asked for it, its region, the channels at which it has still to
be presented, those at which it holds the region, how many bytes of the image have moved, those that have been read and are still to be
written, and the descriptor that an import has read, and where its reply goes. `op` is 0 for a tick of n, 3 for an export, 4 for an import; `words` are those of a PUSHC
command. -/
structure GlazeJob where
  ticket : Nat
  part   : Nat
  region : Nat
  op     : Nat
  n      : Nat
  image  : List Page
  imgVa  : Nat
  hand   : Nat
  sq     : SeqId
  leaf   : Option Bound
  dst    : DstRef
  cookie : Option (BitVec 16)
  node   : Option (Nat × Nat)
  chans  : List Nat
  holds  : List Nat
  pos    : Nat
  held   : List Byte
  desc   : BitVec 512
  words  : List Word
  deriving DecidableEq, Repr

/-! ### Collectives (R278-R304) -/

/-- A part of a message of an exchange that has come (R284): its sender, where it goes, its bytes, whether it combines, and whether it
is the message's last. -/
structure Arrival where
  rank    : Nat
  va      : Nat
  bytes   : List Byte
  combine : Bool
  last    : Bool
  deriving DecidableEq, Repr

/-- A prepared exchange handle (R296): the record's bytes and base, its run, the I/O dies on which it holds a slot, its
histogram as 72 words, and the messages received for it, oldest first. Of a run (R281, R294): the messages still to be started, by
axis and rank, and the bytes read of the first; what is read of the device's own part of the destination shard; and, once the shard
is formed, the writes left and the histogram to come. -/
structure Handle where
  record  : BitVec 512
  base    : Nat
  running : Bool
  hand    : Nat
  leaf    : Option Bound
  cookie  : BitVec 16
  evt     : Bool
  doneCnt : Option Nat
  slots   : List Nat
  hist    : Option (List (BitVec 32))
  inbox   : List Arrival
  sends   : List (Nat × Nat)
  msg     : List Byte
  own     : List Byte
  out     : Option (List (Nat × List Byte))
  newHist : Option (List (BitVec 32))
  node    : Option (Nat × Nat)
  deriving DecidableEq, Repr

/-- An armed trigger entry (R287): its record, its send record for ACT 0, and who armed it with which command. -/
structure Trigger where
  record : BitVec 512
  send   : BitVec 512
  hand   : Nat
  sq     : SeqId
  leaf   : Option Bound
  ticket : Nat
  deriving DecidableEq, Repr

/-- A send that has not completed (R288); `after` is the ticket of the command whose earlier accesses it waits for, `data` what is read
of its source, `sent` whether its message has gone to the peer. -/
structure Send where
  ticket : Nat
  record : BitVec 512
  hand   : Nat
  sq     : SeqId
  leaf   : Option Bound
  after  : Option Nat
  data   : List Byte
  sent   : Bool
  deriving DecidableEq, Repr

/-- A glaze region (R240, R258, R259): its descriptor, the pages bound to it, its sticky flags, and the hand and new
descriptor of a GCFG that waits for the accesses before it. -/
structure Region where
  desc  : BitVec 512
  pages : List Page
  nan   : Bool
  sat   : Bool
  wait  : Option (Nat × BitVec 512)
  deriving DecidableEq, Repr

/-- A stop that fixed a cut (R349): the launch, the cut time, the stop, the hands frozen by it, each with the TIME at
which it froze, and those of them whose save has been asked for (R350). -/
structure Cut where
  launch : Nat
  time   : Nat
  stop   : Nat
  save   : Bool
  frozen : List (Nat × Nat)
  asked  : List Nat
  deriving DecidableEq, Repr

/-- One partition (R46) with the settings of its supervisor; `deferred` holds the entries that fired during a pause (R294). -/
structure Part where
  exists_   : Bool
  pairs     : List Nat
  chans     : List Nat
  queues    : List Nat
  nCounters : Nat
  quota     : Nat
  root      : Nat
  sched     : Word
  rrptr     : Table Nat
  tvec      : BitVec 28
  waitlim   : BitVec 24
  lbound    : BitVec 32
  saveVa    : Option Nat
  hang      : Option (Nat × Nat)
  hangSeq   : BitVec 32
  trace     : Option (Nat × Nat × BitVec 16)
  traceN    : Nat
  traceRd   : Nat
  traceLost : Nat
  stops     : Table (BitVec 128)
  gmask     : BitVec 7
  qshift    : Nat
  gdelay    : Nat
  regions   : Table Region
  mesh      : Word
  peers     : List (Nat × Nat × Nat)
  counters  : Table Word
  boards    : Table Word
  triggers  : Table Trigger
  handles   : Table Handle
  sends     : List Send
  paused    : Bool
  deferred  : List (Nat × Trigger)
  deriving DecidableEq, Repr

/-! ### Queues, delivery contexts and launches -/

/-- A hardware queue (R37, R38, R345). -/
structure HwQueue where
  desc  : BitVec 256
  head  : BitVec 32
  taild : BitVec 32
  count : Nat
  stale : Nat
  drops : Nat
  deriving DecidableEq, Repr

/-- A delivery context (R35, R39, R40, R155): its partition, the port that its host endpoint serves (2 n for port n or its half n.0,
2 n + 1 for its half n.1, R15), whether it is ROD, its WDONE, whether a write message of it has arrived in part (R172), the
tails held for it, oldest first, and the collective messages begun on it, by number, with whether a part of one has failed (R284). -/
structure Delivery where
  part  : Nat
  port  : Nat
  rod   : Bool
  wdone : BitVec 32
  open_ : Bool
  tails : List (BitVec 128)
  begun : List (Nat × Bool)
  deriving DecidableEq, Repr

/-- State of a task (R29, R50): not yet ready, ready, ended as complete or as skipped. -/
inductive TaskState where
  | waiting | ready | running | complete | skipped
  deriving DecidableEq, Repr

/-- A task: a node's instance at the iterations of the loops around it, outermost first (R49, R32). `sel` is the chosen
selector, `placed` how many leaves have been placed, `retired` which have retired, `stopped` that no further leaf is placed
(R50), `iters` how many iterations a loop has started, `exited` that it starts no more. -/
structure Task where
  node    : Nat
  iter    : List Nat
  state   : TaskState
  readyAt : Nat
  order   : Nat
  sel     : Option Nat
  placed  : Nat
  retired : List Nat
  stopped : Bool
  status  : Nat
  detail  : Nat
  detail1 : Word
  iters   : Nat
  exited  : Bool
  lastPlaced : Nat
  deriving DecidableEq, Repr

/-- An accepted launch (R17, R49): the scheduler's own copy of its record, its ring entry, its tasks by number, the
units chosen for instances (level, instance, unit), the status it will report, and its completion record once all of it but its
first word is written (R343): whether in the queue's ring, where, and its bytes. -/
structure Launch where
  part    : Nat
  queue   : Nat
  entry   : Nat
  va      : Nat
  cookie  : Word
  header  : BitVec 512
  levels  : List Word
  nodes   : List (BitVec 512)
  edges   : List (BitVec 32)
  tstart  : Word
  tasks   : List Task
  units   : List (Nat × Nat × Nat × Nat)
  status  : Nat
  node    : Nat
  detail  : Nat
  dwords  : List Word
  cut     : Bool
  posted  : Option (Bool × Nat × List Byte)
  ended   : Bool
  deriving DecidableEq, Repr

/-- State of a scoreboard entry (R59). -/
inductive SlotState where
  | placed | fetching | resident | bound
  deriving DecidableEq, Repr

/-- A scoreboard entry (R59): the leaf it carries, with its windows on this hand (R24), its gang instance (level and
instance) if any, its start time once chosen, and whether it resumes a pre-empted leaf. `order` numbers entries as they are
placed, and again as they are bound. -/
structure Slot where
  launch : Nat
  task   : Nat
  leaf   : Nat
  windows : List (Nat × Nat)
  state  : SlotState
  gang   : Option (Nat × Nat)
  start  : Option Nat
  resume : Bool
  order  : Nat
  deriving DecidableEq, Repr

/-- A pre-emption of a hand under way, or its saved context (R336-R338): who asked (0 scheduler, 1 supervisor, 2 YIELD,
3 suspend, 4 stop), whether the save is done, and when; the leaf, and its saved hand (R338); the saved copy commands with their range-checker entries, the
saved commands of other engines with the number of their queue (R91), and the fresco contexts spilled for it. -/
structure Preempt where
  by_    : Nat
  saved  : Bool
  time   : Nat
  order  : Nat
  leaf   : Option Bound
  image  : Hand
  slot   : Option Slot
  copies : List (CopyCmd × List BufRange)
  cmds   : List (Nat × EngCmd)
  jobs   : List Nat
  deriving DecidableEq, Repr

/-- The foreign records of a sequencer of a retired leaf, while its commands that run on still name them (R78, R342). -/
structure LeftRecs where
  hand  : Nat
  leaf  : Bound
  sq    : SeqId
  frecs : Table Term
  deriving DecidableEq, Repr

/-- What the device says to the outside and the model records: replies to the host and the supervisor, messages to
peers with the endpoint and partition of each (R278), for an exchange a message of its step along an axis under a message
pattern (R281), with its bytes where they are of the source shard, the controller's log, counters read by a guest of partition part or, under number 40, by the supervisor. Newest first. -/
inductive OutMsg where
  | refused (what : Nat)
  | rmaRead (ctx : Nat) (bytes : List Byte)
  | rmaError (ctx : Nat)
  | atomicError (ctx : Nat)
  | send (part rank : Nat) (peer : Option (Nat × Nat)) (va : Nat) (bytes : List Byte) (record : BitVec 512)
  | exchange (part handle axis wire rank : Nat) (peer : Option (Nat × Nat)) (bytes : Option (List Byte))
  | log (what : Nat) (arg : Nat)
  | snapshot (e : Nat) (time : Word) (missed : Nat) (image : Table (BitVec 32))
  | counter (part : Nat) (v : Word) (t : Word) (n : Nat)
  | report (serial : Word) (nonce : BitVec 256) (time ready pwrstat : Word) (digest : BitVec 256) (log : List (Nat × BitVec 256)) (sig : BitVec 512)
  deriving DecidableEq, Repr

/-- A link processor (R6, R10, R15, R283): the RV64GCV core with its 32 integer, 32 floating-point and 32 vector registers of 512
bits, its floating-point and vector control registers by RISC-V number, and its pc; its 1 MiB SRAM; the SM3 measurement of its schedule firmware; and its
sequence position with each peer (R294), by 65536 · partition + rank. -/
structure LinkProc where
  x    : Table Word
  f    : Table Word
  v    : Table (BitVec 512)
  csr  : Table Word
  pc   : Word
  sram : Memory
  fw   : Option (BitVec 256)
  seq  : Table Nat
  deriving DecidableEq, Repr

/-- The package's management controller (R352, R353, R359-R366). Counters are kept by 2^32·group + 2^16·unit + index.
`latches` holds the latch times requested, `latchAt` the time of the controller's last latch of its own, `past` the earlier
latches that a guest may still be due (R356), newest first. -/
structure Package where
  counters  : Table Word
  shadow    : Table Word
  latchT    : Word
  latchNo   : Nat
  latches   : List Word
  latchAt   : Nat
  past      : List (Word × Nat × Table Word)
  lper      : Nat
  ready     : Word
  readyWas  : Word
  phase     : Nat
  epoch     : BitVec 16
  aborted   : Nat
  phaseAt   : Nat
  digest    : Option (BitVec 256)
  image     : List Byte
  log       : List (Nat × BitVec 256)
  config    : Option (BitVec 4096)
  firmware  : Bool
  rejected  : Bool
  slotsUsed : Table Nat
  errs      : Table Nat
  deriving DecidableEq, Repr

/-- An action of the schedule (R156): an issue point issues; a fresco context runs its next micro-instruction, which bad says
meets an uncorrectable memory error; another atomic step of the device; a reply of no stated time reaches its register
(R150); a trace arbiter takes a record (R351); the supervisor reads the shadow set (R353); wall-clock time passes; n occurrences of what a
counter counts that no other step of the model makes (cycles of a wait, what ports carry, corrected errors). -/
inductive Action where
  | issue (g : Nat) (sq : SeqId)
  | micro (cx : Nat) (bad : Bool)
  | event (i : Instr)
  | late (g : Nat) (sq : SeqId)
  | record (ix : Nat)
  | shadow (gr u i : Nat)
  | elapse (ns : Nat)
  | tally (gr u i n : Nat)
  deriving DecidableEq, Repr

/-- The whole machine. The first six fields are the model's own: the schedule (`agenda`, and the issue point and
context that move when it is empty), the counter free values are applied to, and the next ticket. -/
structure State where
  agenda    : List Action
  focus     : Nat
  focusSq   : SeqId
  microCx   : Nat
  fresh     : Nat
  nextId    : Nat
  time      : Word
  mem       : Memory
  hands     : Table Hand
  preempts  : List (Nat × Preempt)
  left      : List LeftRecs
  pushes    : Table (List EngPush)
  easels    : Table Easel
  groups    : Table (List GroupReq)
  slots     : Table (List Slot)
  dies      : Table Die
  channels  : Table Channel
  glazeJobs : List GlazeJob
  parts     : Table Part
  queues    : Table HwQueue
  ctxs      : Table Delivery
  links     : Table LinkProc
  launches  : Table Launch
  cuts      : List Cut
  invals    : List (Nat × Nat × Nat × Nat × Nat)
  traceQ    : List (Nat × BitVec 256)
  pkg       : Package
  outbox    : List OutMsg
  deriving DecidableEq, Repr

/-! ### Reset -/

/-- The empty tag (R76). -/
def Tag.empty : Tag := { loc := 0, sat := false, frn := 0 }

/-- Memory that nothing has written. -/
def Memory.empty : Memory := { cells := [], gen := [] }

/-- A sequencer that has not been started (R25, R65). -/
def Seqr.reset : Seqr :=
  { regs := [], tags := [], lc := [], pc := { line := 0, slot := 1 }, led := { line := 0, slot := 1 }, ranOff := false,
    line := none, status := .off, frozen := false, fwdQ := 0, backQ := 0, held := [], slots := 0, loads := [],
    satLast := none, frecs := [], pend := [], ob := [], late := [], awaits := none, dirtied := [], walks := [], stall := 0, since := none }

/-- A hand on which no leaf is bound (R65, R196, R222, R224, R269, R330). -/
def Hand.reset : Hand :=
  { bound := none, lvl := [0, 0, 0, 0, 0, 0, 0, 0], x := Seqr.reset, l := Seqr.reset, c := Seqr.reset, s := Seqr.reset,
    chans := [], vregs := [], vtags := [], pregs := [], ptags := [], rot := 0, logc := 5, cfmt := 0x008000, bsz := 0,
    palAddr := 0, palPlc := 0, palOff := 0, palette := [], algs := [], algsel := 0, rm := 0, satovf := false, fstat := 0,
    landStat := 0, vtime := 0, landings := [], lanes := 0, portAsk := none, tvec := 0, tcause := 0, tinfo := 0, epcPc := 0, epcXres := 0, sup := false,
    trapTime := 0, heldMc := none, waitlim := 100000, lbound := 4000, setBudget := 64, askBudget := 0, chainMark := none, tlb := [],
    ending := none }

/-- A mural with a free lease; the last holder counts as hand 3 (R222). -/
def Mural.reset : Mural :=
  { lease := .free, holder := 0, last := 3, budget := 0, queue := [], running := none, chain := none, spill := none,
    mfree := false, waits := [], expired := [], excluded := none, group := 0, idle := 0, back := none }

/-- An easel that no partition owns. -/
def Easel.reset : Easel :=
  { owner := none, ab := Memory.empty, wb := Memory.empty, cb := Memory.empty, portLast := [], icache := [], copyQ := [],
    rc := [], frescoQ := [], collQ := [], glazeQ := [], syncQ := [], mural := Mural.reset, conflict := [],
    snap := { armed := none, ready := false, missed := 0, time := 0, image := [] } }

/-- A compute die at the nominal clock (R7). -/
def Die.reset : Die := { cache := [], tlb := [], sram := [], regs := [], k := 16, kTime := 0, run := 0 }

/-- An idle fresco context. -/
def Context.reset : Context :=
  { acc := [], pb := [], sb := [], outB := [], m := [], scale := 0, w4 := false, sat := false, curBank := 0, curRow := 0,
    hold := false, mpc := 0, loops := [], wcnt := 0, since := 0, state := .idle, spiller := 0, abort := false,
    phase := 0, begun := false, drained := false, asked := [], waited := [], part := 0, hand := 0, leaf := none, evt := false, cookie := 0, wpages := [], opages := [], entry := 0 }

/-- A channel that no partition owns. -/
def Channel.reset : Channel :=
  { owner := none, power := .active, access := 0, wake := none, ticks := [], ibuf := [], images := [], ctx := [] }

/-- A region entry that is not valid (R241). -/
def Region.reset : Region := { desc := 0, pages := [], nan := false, sat := false, wait := none }

/-- A partition that does not exist, at the reset values of R52, R54, R224, R269, R271, R278, R285, R348, R353. -/
def Part.reset : Part :=
  { exists_ := false, pairs := [], chans := [], queues := [], nCounters := 0, quota := 0, root := 0,
    sched := 0x00019908000003E8, rrptr := [], tvec := 0, waitlim := 100000, lbound := 4000, saveVa := none, hang := none,
    hangSeq := 0, trace := none, traceN := 0, traceRd := 0, traceLost := 0, stops := [], gmask := 0, qshift := 0,
    gdelay := 0, regions := [], mesh := 0, peers := [], counters := [], boards := [], triggers := [], handles := [],
    sends := [], paused := false, deferred := [] }

/-- A queue whose descriptor has never been written (R37). -/
def HwQueue.reset : HwQueue := { desc := 0, head := 0, taild := 0, count := 0, stale := 0, drops := 0 }

/-- The management controller before POWER_ON (R353, R359, R363). -/
def Package.reset : Package :=
  { counters := [], shadow := [], latchT := 0, latchNo := 0, latches := [], latchAt := 0, past := [], lper := 1000000, ready := 0, readyWas := 0, phase := 0,
    epoch := 0, aborted := 0, phaseAt := 0, digest := none, image := [], log := [], config := none, firmware := false, rejected := false,
    slotsUsed := [], errs := [] }

/-- A link processor that no firmware has been loaded into. -/
def LinkProc.reset : LinkProc := { x := [], f := [], v := [], csr := [], pc := 0, sram := Memory.empty, fw := none, seq := [] }

/-- The machine right after reset: every unit at its reset value, memory with nothing listed. -/
def State.reset : State :=
  { agenda := [], focus := 0, focusSq := .x, microCx := 0, fresh := 0, nextId := 0, time := 0, mem := Memory.empty,
    hands := [], preempts := [], left := [], pushes := [], easels := [], groups := [], slots := [], dies := [],
    channels := [], glazeJobs := [], parts := [], queues := [], ctxs := [], links := [], launches := [], cuts := [], invals := [], traceQ := [],
    pkg := Package.reset, outbox := [] }

end Sys2Proof.Machine
end

