-- ==== Sys2Proof/Machine/Bits.lean ====
section
/-! DEFINITION. Bit fields, bytes and byte order (R1), and the byte memory of R14 and R132. -/

namespace Sys2Proof.Machine

/-- Bits hi to lo of a number. -/
def bits (x hi lo : Nat) : Nat := (x / 2 ^ lo) % 2 ^ (hi + 1 - lo)

/-- Bits hi to lo of a vector. -/
def fld {n : Nat} (x : BitVec n) (hi lo : Nat) : Nat := bits x.toNat hi lo

/-- Bit i of a vector as a truth value. -/
def bit {n : Nat} (x : BitVec n) (i : Nat) : Bool := x.getLsbD i

/-- The two's-complement value of the low n bits of a number. -/
def signed (n x : Nat) : Int :=
  let y := x % 2 ^ n
  if 2 ^ n ≤ 2 * y then (y : Int) - (2 : Int) ^ n else y

/-- A value placed at bit lo. -/
def at' (x lo : Nat) : Nat := x * 2 ^ lo

/-- The number whose little-endian bytes are given (R1). -/
def natOfBytes : List Byte → Nat
  | [] => 0
  | b :: r => b.toNat + 256 * natOfBytes r

/-- The n low bytes of a number, lowest first (R1). -/
def bytesOfNat : Nat → Nat → List Byte
  | 0, _ => []
  | n + 1, x => BitVec.ofNat 8 x :: bytesOfNat n (x / 256)

/-- A 64-bit word from little-endian bytes. -/
def wordOf (bs : List Byte) : Word := BitVec.ofNat 64 (natOfBytes bs)

/-- The i-th 64-bit word of a byte string. -/
def wordAt (bs : List Byte) (i : Nat) : Word := wordOf ((bs.drop (8 * i)).take 8)

/-- The i-th 32-bit word of a byte string. -/
def word32At (bs : List Byte) (i : Nat) : BitVec 32 := BitVec.ofNat 32 (natOfBytes ((bs.drop (4 * i)).take 4))

/-! ### Byte memory -/

/-- What a byte that no cell lists reads as: 0 while the channel's key has not changed (log entry 4), and after a key
change a free value (R48). -/
def unlisted (m : Memory) (a : Nat) : Byte :=
  if tget 0 m.gen (a / 2 ^ 31) = 0 then 0 else Config.rekeyedByte (tget 0 m.gen (a / 2 ^ 31)) a

/-- The byte a sorted cell list holds at an address. -/
def cellAt : List Host.Cell → Nat → Option Byte
  | [], _ => none
  | c :: r, a => if c.1 = a then some c.2 else if a < c.1 then none else cellAt r a

/-- The byte at an address. -/
def memGet (m : Memory) (a : Nat) : Byte := (cellAt m.cells a).getD (unlisted m a)

/-- A sorted cell list without an address. -/
def cellDel : List Host.Cell → Nat → List Host.Cell
  | [], _ => []
  | c :: r, a => if c.1 = a then r else if a < c.1 then c :: r else c :: cellDel r a

/-- A sorted cell list with a byte put at an address. -/
def cellPut : List Host.Cell → Nat → Byte → List Host.Cell
  | [], a, v => [(a, v)]
  | c :: r, a, v => if c.1 = a then (a, v) :: r else if a < c.1 then (a, v) :: c :: r else c :: cellPut r a v

/-- Memory with a byte written. Writing what an unlisted address reads as removes the cell. -/
def memSet (m : Memory) (a : Nat) (v : Byte) : Memory :=
  { m with cells := if v = unlisted m a then cellDel m.cells a else cellPut m.cells a v }

/-- n bytes from an address on. -/
def memRead (m : Memory) (a : Nat) : Nat → List Byte
  | 0 => []
  | n + 1 => memGet m a :: memRead m (a + 1) n

/-- A byte string written from an address on. -/
def memWrite (m : Memory) (a : Nat) : List Byte → Memory
  | [] => m
  | b :: r => memWrite (memSet m a b) (a + 1) r

/-- Addresses strictly rising. -/
def rising : List Host.Cell → Bool
  | [] => true
  | [_] => true
  | c :: d :: r => decide (c.1 < d.1) && rising (d :: r)

/-- The canonical form of Memory. -/
def memWf (m : Memory) : Bool := rising m.cells && m.cells.all (fun c => decide (c.2 ≠ unlisted m c.1))

/-- Memory whose channel ch has taken a new key (R48 step 3): nothing is listed there any more. -/
def memRekey (m : Memory) (ch : Nat) : Memory :=
  { cells := m.cells.filter (fun c => decide (c.1 / 2 ^ 31 ≠ ch)), gen := tput m.gen ch (tget 0 m.gen ch + 1) }

/-- A range of bytes written as zero. -/
def memZero (m : Memory) (a len : Nat) : Memory :=
  if tget 0 m.gen (a / 2 ^ 31) = 0 then { m with cells := m.cells.filter (fun c => decide (c.1 < a) || decide (a + len ≤ c.1)) }
  else memWrite m a (List.replicate len 0)

/-- A 64-bit number read from a byte memory. -/
def memNat (m : Memory) (a n : Nat) : Nat := natOfBytes (memRead m a n)

end Sys2Proof.Machine
end

