-- ==== Sys2Proof/Machine/Ops.lean ====
section
/-! DEFINITION. Named operations over the state: units and their numbering (R13, R14), sequencers, taint (R76-R78),
tokens (R67-R69), channels (R70-R73), code pointers (R101), stalls (R270-R272), stops (R348), taking a trap (R330,
R332) and returning from one (R333). -/

namespace Sys2Proof.Machine

/-- What a step of this machine answers. -/
abbrev Res := Host.Outcome State Fault Refusal

/-! ### Units -/

def handOf (s : State) (g : Nat) : Hand := tget Hand.reset s.hands g
def setHand (s : State) (g : Nat) (h : Hand) : State := { s with hands := tput s.hands g h }
def modHand (s : State) (g : Nat) (f : Hand → Hand) : State := setHand s g (f (handOf s g))

def easelOf (s : State) (e : Nat) : Easel := tget Easel.reset s.easels e
def setEasel (s : State) (e : Nat) (x : Easel) : State := { s with easels := tput s.easels e x }
def modEasel (s : State) (e : Nat) (f : Easel → Easel) : State := setEasel s e (f (easelOf s e))

def dieOf (s : State) (d : Nat) : Die := tget Die.reset s.dies d
def modDie (s : State) (d : Nat) (f : Die → Die) : State := { s with dies := tput s.dies d (f (dieOf s d)) }

/-- The cycles that a die's clock has made (R4, R357): at step k it makes k/16 of one in a nanosecond. -/
def dieCycles (s : State) (d : Nat) : Nat :=
  let x := dieOf s d
  (x.run + (s.time.toNat - x.kTime) * x.k) / 16

def chanOf (s : State) (c : Nat) : Channel := tget Channel.reset s.channels c
def modChan (s : State) (c : Nat) (f : Channel → Channel) : State := { s with channels := tput s.channels c (f (chanOf s c)) }

def partOf (s : State) (p : Nat) : Part := tget Part.reset s.parts p
def modPart (s : State) (p : Nat) (f : Part → Part) : State := { s with parts := tput s.parts p (f (partOf s p)) }

def queueOf (s : State) (q : Nat) : HwQueue := tget HwQueue.reset s.queues q
def modQueue (s : State) (q : Nat) (f : HwQueue → HwQueue) : State := { s with queues := tput s.queues q (f (queueOf s q)) }

def regionOf (p : Part) (r : Nat) : Region := tget Region.reset p.regions r

/-- Easel, cluster and die of a global hand (R13). -/
def easelNo (g : Nat) : Nat := g / 4
def clusterNo (g : Nat) : Nat := g / 64
def dieNo (g : Nat) : Nat := g / 128

/-- Channel and home die of a physical address (R124, R14). -/
def chanNo (pa : Nat) : Nat := pa / 2 ^ 31
def homeDie (pa : Nat) : Nat := pa / 2 ^ 31 / 96

/-- The partition that owns a hand (R46); a hand that no partition owns reads as partition 0 (log entry 1). -/
def handPart (s : State) (g : Nat) : Nat := (easelOf s (easelNo g)).owner.getD 0

def seqNo : SeqId → Nat
  | .x => 0
  | .l => 1
  | .c => 2
  | .s => 3

def allSeqs : List SeqId := [.x, .l, .c, .s]

def seqOf (h : Hand) (q : SeqId) : Seqr :=
  match q with
  | .x => h.x
  | .l => h.l
  | .c => h.c
  | .s => h.s

def setSeq (h : Hand) (q : SeqId) (v : Seqr) : Hand :=
  match q with
  | .x => { h with x := v }
  | .l => { h with l := v }
  | .c => { h with c := v }
  | .s => { h with s := v }

def modSeq (h : Hand) (q : SeqId) (f : Seqr → Seqr) : Hand := setSeq h q (f (seqOf h q))

/-- The sequencer q of hand g passed through f. -/
def modSq (s : State) (g : Nat) (q : SeqId) (f : Seqr → Seqr) : State := modHand s g (fun h => modSeq h q f)

def sqOf (s : State) (g : Nat) (q : SeqId) : Seqr := seqOf (handOf s g) q

/-- A free value's number, and the state with the counter advanced (log entry 3). -/
def takeFresh (s : State) : Nat × State := (s.fresh, { s with fresh := s.fresh + 1 })

/-- The state in which the next ticket is taken. -/
def ticketed (s : State) : State := { s with nextId := s.nextId + 1 }

/-- The saved contexts of the hands that p names passed through f (R337, R338). -/
def modSaved (s : State) (p : Nat → Bool) (f : Preempt → Preempt) : State :=
  { s with preempts := s.preempts.map (fun e => if p e.1 ∧ e.2.saved then (e.1, f e.2) else e) }

/-- The saved context of a leaf on its hand. -/
def savedOf (s : State) (g : Nat) (leaf : Option Bound) : Option Preempt :=
  (s.preempts.find? (fun e => e.1 == g && e.2.saved && e.2.leaf == leaf)).map (·.2)

/-- A word sent to the outside or to the management controller's log. -/
def emit (s : State) (m : OutMsg) : State := { s with outbox := m :: s.outbox }

/-- Whether the management controller takes requests (R360, R365): it is off in PHASE 3, and after a configuration record that failed it
takes a new record alone. -/
def mcUp (s : State) : Bool := s.pkg.phase != 3 && !s.pkg.rejected

/-- A request of the supervisor to the management controller, which is not taken while the controller is off. -/
def asked (s : State) (k : Res) : Res := if mcUp s then k else .next s

/-- Counter i of unit u in group gr counts n (R352). -/
def count (s : State) (gr u i n : Nat) : State :=
  { s with pkg := { s.pkg with counters := tmod 0 s.pkg.counters (2 ^ 32 * gr + 2 ^ 16 * u + i) (fun v => v + BitVec.ofNat 64 n) } }

def launchOf (s : State) (ln : Nat) : Option Launch := (s.launches.find? (fun e => e.1 == ln)).map (·.2)
def modLaunch (s : State) (ln : Nat) (f : Launch → Launch) : State := { s with launches := s.launches.map (fun e => if e.1 = ln then (e.1, f e.2) else e) }
def modTask (s : State) (ln tk : Nat) (f : Task → Task) : State := modLaunch s ln (fun l => { l with tasks := lmod l.tasks tk f })

/-- The work of a node that no hand runs has ended (a copy, a tick, an exchange), with the status of R51 and its detail. -/
def workDone (s : State) (node : Option (Nat × Nat)) (status detail : Nat) (d1 : Word) : State :=
  match node with
  | none => s
  | some (ln, tk) => modTask s ln tk (fun t => { t with retired := [0], status := status, detail := detail, detail1 := d1 })

/-! ### Scalar registers (R65) -/

/-- A register's value: s0 reads as zero. -/
def regGet (q : Seqr) (n : BitVec 5) : Word := if n = 0 then 0 else tget 0 q.regs n.toNat

/-- A register's tag: the tag of s0 is empty. -/
def tagGet (q : Seqr) (n : BitVec 5) : Tag := if n = 0 then Tag.empty else tget Tag.empty q.tags n.toNat

/-- A register written with value and tag: a write to s0 is discarded. -/
def regPut (q : Seqr) (n : BitVec 5) (v : Word) (t : Tag) : Seqr :=
  if n = 0 then q else { q with regs := tput q.regs n.toNat v, tags := tput q.tags n.toNat t }

/-- The tag of a register written, its value kept. -/
def tagPut (q : Seqr) (n : BitVec 5) (t : Tag) : Seqr :=
  if n = 0 then q else { q with tags := tput q.tags n.toNat t }

/-- Whether a register waits for a load, a token or a reply (R100, R141, R150). -/
def regPending (q : Seqr) (n : BitVec 5) : Bool := q.pend.any (fun p => p.reg == n.toNat)

/-- A register marked as waiting for a ticket; s0 waits for nothing. -/
def pendReg (q : Seqr) (n : BitVec 5) (ticket : Nat) : Seqr :=
  if n = 0 then q else { q with pend := { reg := n.toNat, ticket := ticket } :: q.pend }

/-! ### Taint (R76-R78) -/

def tagJoin (a b : Tag) : Tag := { loc := a.loc ||| b.loc, sat := a.sat || b.sat, frn := a.frn ||| b.frn }

def tagEmpty (t : Tag) : Bool := t.loc == 0 && !t.sat && t.frn == 0

/-- Bits 20:0 of R76. -/
def tagBits (t : Tag) : Word := 0#43 ++ (t.frn ++ (BitVec.ofBool t.sat ++ t.loc))

def termEmpty (t : Term) : Bool := t.set == 0 && !t.sat

/-- The sender terms of a tag that sequencer q of hand g pushes (R76). -/
def termsOf (h : Hand) (g : Nat) (q : SeqId) (t : Tag) : List Term :=
  let sq := seqOf h q
  let own : Term := { hand := g % 4, sq := q, leaf := h.bound, set := t.loc, sat := t.sat }
  let recs := ([0, 1, 2, 3].filter (fun i => t.frn.getLsbD i)).filterMap (fun i => (sq.frecs.find? (fun e => e.1 == i)).map (·.2))
  (own :: recs).filter (fun x => !termEmpty x)

/-- The record a sender's term uses: the one that names the sender already, or else the lowest free one (R78). -/
def recordFor (fr : Table Term) (t : Term) : Option Nat :=
  match fr.find? (fun e => e.2.hand == t.hand && e.2.sq == t.sq && e.2.leaf == t.leaf) with
  | some e => some e.1
  | none => [0, 1, 2, 3].find? (fun i => !fr.any (fun e => e.1 == i))

/-- The records and the tag after a pop or peek takes the terms of an entry, or none while a record is wanting (R78). -/
def takeTerms (sq : Seqr) (h4 : Nat) (leaf : Option Bound) (q : SeqId) : List Term → Option (Seqr × Tag)
  | [] => some (sq, Tag.empty)
  | t :: r =>
    if t.hand = h4 ∧ t.sq = q ∧ t.leaf = leaf then
      match takeTerms sq h4 leaf q r with
      | some (sq', g) => some (sq', tagJoin g { loc := t.set, sat := t.sat, frn := 0 })
      | none => none
    else match recordFor sq.frecs t with
      | none => none
      | some i =>
        let old := (sq.frecs.find? (fun e => e.1 == i)).map (·.2)
        let new : Term := match old with
          | some o => { t with set := o.set ||| t.set, sat := o.sat || t.sat }
          | none => t
        match takeTerms { sq with frecs := tput sq.frecs i new } h4 leaf q r with
        | some (sq', g) => some (sq', tagJoin g { loc := 0, sat := false, frn := BitVec.ofNat 4 (2 ^ i) })
        | none => none

/-- Every tag that a sequencer holds passed through f: its registers, C's vector and predicate registers and landings,
its ordering buffer. -/
def mapHandTags (h : Hand) (q : SeqId) (f : Tag → Tag) : Hand :=
  let h := modSeq h q (fun x => { x with
    tags := tmap x.tags (fun _ t => f t), ob := x.ob.map (fun e => { e with tag := f e.tag })
    late := x.late.map (fun l => { l with tag := f l.tag }) })
  if q = .c then
    { h with vtags := tmap h.vtags (fun _ t => f t), ptags := tmap h.ptags (fun _ t => f t),
             landings := h.landings.map (fun l => { l with tag := f l.tag }) }
  else h

/-- Every tag that the commands of a sequencer of a leaf hold passed through f (R76, R167): in the engine queues, and, while the
leaf is on its hand (live), in the range checker. -/
def mapCmdTags (e : Easel) (g : Nat) (leaf : Option Bound) (q : SeqId) (live : Bool) (f : Tag → Tag) : Easel :=
  let eng := fun (c : EngCmd) => if c.hand = g ∧ c.sq = q ∧ c.leaf = leaf then { c with tag := f c.tag } else c
  { e with
    copyQ := e.copyQ.map (fun c => if c.hand = g ∧ c.sq = q ∧ c.leaf = leaf then { c with tag := f c.tag } else c)
    rc := e.rc.map (fun c => if live ∧ c.hand = g ∧ c.sq = q then { c with tag := f c.tag } else c)
    frescoQ := e.frescoQ.map eng, collQ := e.collQ.map eng, glazeQ := e.glazeQ.map eng, syncQ := e.syncQ.map eng }

/-- Whether a leaf stands on its hand; the hand with no leaf counts as one. -/
def onHand (s : State) (g : Nat) (leaf : Option Bound) : Bool := (handOf s g).bound == leaf

/-- The saved context of a leaf passed through f (R338). -/
def modContext (s : State) (g : Nat) (leaf : Option Bound) (f : Preempt → Preempt) : State :=
  modSaved s (fun g' => g' == g) (fun p => if p.leaf = leaf then f p else p)

/-- The hand of a leaf as it stands: the hand itself, or the context saved for it. -/
def leafHand (s : State) (g : Nat) (leaf : Option Bound) : Hand :=
  if onHand s g leaf then handOf s g else ((savedOf s g leaf).map (·.image)).getD Hand.reset

/-- The hand of a leaf passed through f, wherever it stands. -/
def modLeafHand (s : State) (g : Nat) (leaf : Option Bound) (f : Hand → Hand) : State :=
  if onHand s g leaf then modHand s g f else modContext s g leaf (fun p => { p with image := f p.image })

/-- Every tag that a sequencer of a leaf holds passed through f: on its hand or in its saved context, and in its commands. -/
def mapTags (s : State) (g : Nat) (leaf : Option Bound) (q : SeqId) (f : Tag → Tag) : State :=
  let s := modEasel s (easelNo g) (fun e => mapCmdTags e g leaf q (onHand s g leaf) f)
  let s := modLeafHand s g leaf (fun h => mapHandTags h q f)
  if onHand s g leaf then s
  else modContext s g leaf (fun p => { p with
    copies := p.copies.map (fun c => if c.1.sq = q then ({ c.1 with tag := f c.1.tag }, c.2) else c)
    cmds := p.cmds.map (fun c => if c.2.sq = q then (c.1, { c.2 with tag := f c.2.tag }) else c) })

/-- A sender's bits cleared from a term. -/
def clearFrom (who set : Term) : Term :=
  if set.hand = who.hand ∧ set.sq = who.sq ∧ set.leaf = who.leaf then { set with set := set.set &&& ~~~who.set, sat := set.sat && !who.sat } else set

/-- The foreign records of a sequencer after a sender's bits clear, and the mask of the FOR bits that still name one (R78). -/
def clearedRecords (fr : Table Term) (who : Term) : Table Term × BitVec 4 :=
  let fr := tmap fr (fun _ t => clearFrom who t)
  (fr.filter (fun e => !termEmpty e.2),
   (fr.filter (fun e => termEmpty e.2)).foldl (fun (m : BitVec 4) e => m &&& ~~~(BitVec.ofNat 4 (2 ^ e.1))) 0xf)

/-- Who may hold foreign records in an easel: the sequencers of its hands, of the contexts saved from them, and of the retired
leaves whose queued commands still name one (R78). -/
def holders (s : State) (e : Nat) : List (Nat × Option Bound × SeqId) :=
  ([4 * e, 4 * e + 1, 4 * e + 2, 4 * e + 3].flatMap (fun g => allSeqs.map (fun q => (g, (handOf s g).bound, q)))) ++
  ((s.preempts.filter (fun x => x.1 / 4 == e && x.2.saved)).flatMap (fun x => allSeqs.map (fun q => (x.1, x.2.leaf, q)))) ++
  ((s.left.filter (fun x => x.hand / 4 == e)).map (fun x => (x.hand, some x.leaf, x.sq)))

/-- The foreign records of one of them. -/
def recordsOf (s : State) (g : Nat) (leaf : Option Bound) (q : SeqId) : Table Term :=
  match s.left.find? (fun x => x.hand == g && some x.leaf == leaf && x.sq == q) with
  | some x => x.frecs
  | none => (seqOf (leafHand s g leaf) q).frecs

/-- They are replaced; a retired leaf that has none is forgotten. -/
def setRecords (s : State) (g : Nat) (leaf : Option Bound) (q : SeqId) (fr : Table Term) : State :=
  let s := { s with left := (s.left.map (fun x => if x.hand = g ∧ some x.leaf = leaf ∧ x.sq = q then { x with frecs := fr } else x)).filter (fun x => x.frecs != []) }
  modLeafHand s g leaf (fun h => modSeq h q (fun x => { x with frecs := fr }))

/-- The foreign records of a sequencer after a sender's bits clear: an empty record leaves every tag that names it and is
free (R78). -/
def clearRecords (s : State) (who : Term) (x : Nat × Option Bound × SeqId) : State :=
  let (g, leaf, q) := x
  let old := recordsOf s g leaf q
  let (fr, mask) := clearedRecords old who
  if fr = old then s
  else
    let s := setRecords s g leaf q fr
    if mask = 0xf then s else mapTags s g leaf q (fun t => { t with frn := t.frn &&& mask })

/-- The entries of a hand's channels after a sender's bits clear (R76). -/
def clearedChans (h : Hand) (who : Term) : Hand :=
  { h with chans := tmap h.chans (fun _ l => l.map (fun en => { en with
      terms := (en.terms.map (clearFrom who)).filter (fun t => !termEmpty t) })) }

/-- A sender's slots, and its SAT, cleared from every tag of the easel that holds them (R77, R78), in saved contexts too. -/
def clearTerm (s : State) (g : Nat) (leaf : Option Bound) (q : SeqId) (set : BitVec 16) (sat : Bool) : State :=
  let who : Term := { hand := g % 4, sq := q, leaf := leaf, set := set, sat := sat }
  let s := mapTags s g leaf q (fun t => { t with loc := t.loc &&& ~~~set, sat := t.sat && !sat })
  let e := easelNo g
  let s := (holders s e).foldl (fun s x => clearRecords s who x) s
  let s := [4 * e, 4 * e + 1, 4 * e + 2, 4 * e + 3].foldl (fun s g' => modHand s g' (fun h => clearedChans h who)) s
  modSaved s (fun g' => g' / 4 == e) (fun p => { p with image := clearedChans p.image who })

/-- The lowest free local load slot (R77). -/
def freeSlot (b : BitVec 16) : Option Nat := (List.range 16).find? (fun i => !b.getLsbD i)

/-- A load taken with a ticket: its slot bit as its tag, or SAT when no slot is free (R77). -/
def takeLoad (q : Seqr) (ticket : Nat) : Seqr × Tag :=
  match freeSlot q.slots with
  | some i =>
    ({ q with slots := q.slots ||| BitVec.ofNat 16 (2 ^ i), loads := q.loads ++ [{ ticket := ticket, slot := some i }] },
     { loc := BitVec.ofNat 16 (2 ^ i), sat := false, frn := 0 })
  | none =>
    ({ q with loads := q.loads ++ [{ ticket := ticket, slot := none }], satLast := some ticket },
     { loc := 0, sat := true, frn := 0 })

/-- A load of a leaf performed: its slot clears and is free, and SAT clears once no load up to the latest saturated one is left
(R77). -/
def loadDone (s : State) (g : Nat) (leaf : Option Bound) (q : SeqId) (ticket : Nat) : State :=
  let sq := seqOf (leafHand s g leaf) q
  match sq.loads.find? (fun r => r.ticket == ticket) with
  | none => s
  | some r =>
    let left := sq.loads.filter (fun r => r.ticket != ticket)
    let mask := match r.slot with
      | some i => BitVec.ofNat 16 (2 ^ i)
      | none => 0
    let satOver := match sq.satLast with
      | some t => !left.any (fun r => r.ticket ≤ t)
      | none => false
    let s := modLeafHand s g leaf (fun h => modSeq h q (fun x => { x with
      loads := left, slots := x.slots &&& ~~~mask, satLast := if satOver then none else x.satLast }))
    clearTerm s g leaf q mask satOver

/-! ### Tokens (R67-R69) -/

def down : SeqId → SeqId
  | .x => .l
  | .l => .c
  | .c => .s
  | .s => .x

def up : SeqId → SeqId
  | .x => .s
  | .l => .x
  | .c => .l
  | .s => .c

/-- Counts as R113 selects them: 0 forward from upstream, 1 forward to downstream, 2 back from downstream, 3 back to
upstream. -/
def tokenCount (h : Hand) (q : SeqId) (sel : Nat) : Nat :=
  match sel with
  | 0 => (seqOf h (up q)).fwdQ
  | 1 => (seqOf h q).fwdQ
  | 2 => (seqOf h (down q)).backQ
  | _ => (seqOf h q).backQ

/-- Increments of a queue that a fence still holds (R165). -/
def heldCount (q : Seqr) (fwd : Bool) : Nat := (q.held.filter (fun x => x.fwd == fwd)).length

/-- The stall reason of the token conditions of R69, if one fails. -/
def tokenWait (h : Hand) (q : SeqId) (k : Tok) : Option Nat :=
  if k.wf ∧ tokenCount h q 0 = 0 then some 1
  else if k.wb ∧ tokenCount h q 2 = 0 then some 2
  else if k.sf ∧ 62 < tokenCount h q 1 + heldCount (seqOf h q) true then some 3
  else if k.sb ∧ 62 < tokenCount h q 3 + heldCount (seqOf h q) false then some 3
  else none

/-- The decrements of WF and WB at issue. -/
def tokenTake (h : Hand) (q : SeqId) (k : Tok) : Hand :=
  let h := if k.wf then modSeq h (up q) (fun x => { x with fwdQ := x.fwdQ - 1 }) else h
  if k.wb then modSeq h (down q) (fun x => { x with backQ := x.backQ - 1 }) else h

/-- One signal: an increment, or a held one behind an earlier held signal of the same queue, or behind a fence. -/
def signalOne (q : Seqr) (fwd : Bool) (fence : Option Nat) : Seqr :=
  if fence.isSome ∨ heldCount q fwd ≠ 0 then { q with held := q.held ++ [{ fwd := fwd, fence := fence }] }
  else if fwd then { q with fwdQ := q.fwdQ + 1 } else { q with backQ := q.backQ + 1 }

/-- The increments of SF and SB after issue; fence is the marker that holds them (R165). -/
def tokenGive (h : Hand) (q : SeqId) (k : Tok) (fence : Option Nat) : Hand :=
  modSeq h q (fun x =>
    let x := if k.sf then signalOne x true fence else x
    if k.sb then signalOne x false fence else x)

/-- Held signals that no unreleased fence precedes in their queue, made to take effect. -/
def releaseHeld (q : Seqr) : List HeldSignal → Seqr
  | [] => { q with held := [] }
  | x :: r =>
    if x.fence.isSome ∨ heldCount q x.fwd ≠ 0 then
      let q' := releaseHeld { q with held := q.held ++ [x] } r
      { q' with held := x :: q'.held }
    else releaseHeld (if x.fwd then { q with fwdQ := q.fwdQ + 1 } else { q with backQ := q.backQ + 1 }) r

/-- The signals a fence holds are released (R165). -/
def fenceReleased (q : Seqr) (ticket : Nat) : Seqr :=
  let l := q.held.map (fun x => if x.fence = some ticket then { x with fence := none } else x)
  releaseHeld { q with held := [] } l

/-! ### Channels (R70-R73) -/

/-- The reader of a channel on hand h4, and its writer. Engines write ch8 to ch11. -/
def chanReader (h4 n : Nat) : Option SeqId :=
  match n with
  | 0 => some .l
  | 1 => some .c
  | 2 => some .s
  | 3 => some .c
  | 4 => some .s
  | 5 => some .x
  | 6 => some .x
  | 7 => some .x
  | 8 => some .x
  | 9 => some .x
  | 10 => some .x
  | 11 => some .x
  | n => if n = 12 + h4 then none else some .l

def chanWriter (h4 n : Nat) : Option SeqId :=
  match n with
  | 0 => some .x
  | 1 => some .x
  | 2 => some .x
  | 3 => some .l
  | 4 => some .c
  | 5 => some .s
  | 6 => some .c
  | 7 => some .l
  | 8 => none
  | 9 => none
  | 10 => none
  | 11 => none
  | n => if n = 12 + h4 then none else some .s

/-- The hand that holds the entries of channel n which sequencer S of hand g pushes, and their key there (R73). -/
def chanHome (g n : Nat) : Nat × Nat := if n < 12 then (g, n) else (4 * (g / 4) + (n - 12), 12 + g % 4)

def chanList (h : Hand) (n : Nat) : List ChanEntry := tget [] h.chans n

/-- The entries the reader sees: those before the first reserved one (R71). -/
def visible (l : List ChanEntry) : List ChanEntry := l.takeWhile (fun e => e.val.isSome)

/-- Whether the receiving hand of a port takes pushes: it runs a leaf of the same task and is not pre-empted (R73). -/
def portOpen (s : State) (g n : Nat) : Bool :=
  if n < 12 then true else
    let r := (chanHome g n).1
    match (handOf s g).bound, (handOf s r).bound with
    | some a, some b => a.launch == b.launch && a.task == b.task && !(s.preempts.any (fun e => e.1 == r && !e.2.saved))
    | none, none => true
    | _, _ => false

/-- Room for one more entry, held and reserved ones counted. -/
def chanRoom (s : State) (g n : Nat) : Bool :=
  let (r, k) := chanHome g n
  decide ((chanList (handOf s r) k).length < 16) && portOpen s g n

/-- A new tail entry pushed to channel n by hand g. -/
def chanAdd (s : State) (g n : Nat) (e : ChanEntry) : State :=
  let (r, k) := chanHome g n
  modHand s r (fun h => { h with chans := tput h.chans k (chanList h k ++ [e]) })

/-- The reserved entry of a ticket in a list of channels filled with its value and terms. -/
def filled (h : Hand) (k ticket : Nat) (v : Word) (terms : List Term) : Hand :=
  { h with chans := tput h.chans k ((chanList h k).map (fun e =>
    if e.ticket = ticket ∧ e.val = none then { e with val := some v, terms := terms } else e)) }

/-- The reserved entry of a ticket filled with its value and terms (R71), on the hand or in a context saved from it. -/
def chanFill (s : State) (g n ticket : Nat) (v : Word) (terms : List Term) : State :=
  let (r, k) := chanHome g n
  let s := modHand s r (fun h => filled h k ticket v terms)
  modSaved s (fun g' => g' == r) (fun p => { p with image := filled p.image k ticket v terms })

/-- A source operand read (R83): the hand after the read, the value and the tag; or the reason it waits. With norec no
foreign record is taken (R109). -/
def readSrc (h : Hand) (h4 : Nat) (q : SeqId) (norec : Bool) (f : Src) : Except Nat (Hand × Word × Tag) :=
  match f with
  | .reg n => .ok (h, regGet (seqOf h q) n, tagGet (seqOf h q) n)
  | .pop n =>
    match visible (chanList h n.toNat) with
    | [] => .error 4
    | e :: _ =>
      if norec then .ok ({ h with chans := tput h.chans n.toNat (chanList h n.toNat).tail }, e.val.getD 0, Tag.empty)
      else match takeTerms (seqOf h q) h4 h.bound q e.terms with
        | none => .error 6
        | some (sq, t) =>
          let h := setSeq h q sq
          .ok ({ h with chans := tput h.chans n.toNat (chanList h n.toNat).tail }, e.val.getD 0, t)
  | .peek n =>
    match visible (chanList h n.toNat) with
    | [] => .error 4
    | e :: _ =>
      if norec then .ok (h, e.val.getD 0, Tag.empty)
      else match takeTerms (seqOf h q) h4 h.bound q e.terms with
        | none => .error 6
        | some (sq, t) => .ok (setSeq h q sq, e.val.getD 0, t)

/-- Sources read in the order given (R84). -/
def readSrcs (h : Hand) (h4 : Nat) (q : SeqId) (norec : Bool) : List Src → Except Nat (Hand × List (Word × Tag))
  | [] => .ok (h, [])
  | f :: r =>
    match readSrc h h4 q norec f with
    | .error w => .error w
    | .ok (h, v) =>
      match readSrcs h h4 q norec r with
      | .error w => .error w
      | .ok (h, vs) => .ok (h, v :: vs)

/-- The clean bytes of a die cache's guest lines discarded (R163); dirty bytes stay. -/
def discardClean (s : State) (d : Nat) : State :=
  modDie s d (fun x => { x with cache := x.cache.filter (fun e => e.2.dirty) })

/-- Whether the leaf stands on the hand, running, or pre-empted with its context saved. -/
def leafBound (s : State) (g : Nat) (leaf : Option Bound) : Bool := leaf.isSome && (handOf s g).bound == leaf
def leafSaved (s : State) (g : Nat) (leaf : Option Bound) : Bool :=
  leaf.isSome && s.preempts.any (fun e => e.1 == g && e.2.saved && e.2.leaf == leaf)

/-- Whether a hand's pre-emption is under way, and whether it is that of this leaf. -/
def stopping (s : State) (g : Nat) : Bool := s.preempts.any (fun e => e.1 == g && !e.2.saved)
def stopsLeaf (s : State) (g : Nat) (leaf : Option Bound) : Bool := s.preempts.any (fun e => e.1 == g && !e.2.saved && e.2.leaf == leaf)

/-- The entries that engines hold for a hand, pushed in their order as far as channels have room (R71, R72): those of a
leaf that is pre-empted wait, and those of a leaf that has retired are discarded. -/
def pushWaiting (s : State) (g : Nat) (full : List Nat) : List EngPush → State × List EngPush
  | [] => (s, [])
  | p :: r =>
    if leafBound s g p.leaf then
      if decide ((chanList (handOf s g) p.chan).length < 16) ∧ ¬stopping s g ∧ ¬full.contains p.chan then
        pushWaiting (chanAdd s g p.chan { val := some p.val, ticket := 0, terms := [] }) g full r
      else
        let (s', l) := pushWaiting s g (p.chan :: full) r
        (s', p :: l)
    else if leafSaved s g p.leaf then
      let (s', l) := pushWaiting s g full r
      (s', p :: l)
    else pushWaiting s g full r

def drainPushes (s : State) (g : Nat) : State :=
  let (s', l) := pushWaiting s g [] (tget [] s.pushes g)
  { s' with pushes := if l = [] then tdel s'.pushes g else tput s'.pushes g l }

/-- An engine's entry for ch8 to ch11 of the hand that issued its command: pushed at once, or held behind those that
wait (R71). -/
def pushEng (s : State) (g : Nat) (leaf : Option Bound) (n : Nat) (v : Word) : State :=
  drainPushes { s with pushes := tput s.pushes g (tget [] s.pushes g ++ [{ chan := n, leaf := leaf, val := v }]) } g

/-- An X pop of a ch8 or ch9 entry is an acquire at system scope (R292, R316, R163); a pop of an engine's channel makes
room for the entries that wait. -/
def popAcquire (s : State) (g : Nat) (srcs : List Src) : State :=
  let popped := fun (lo hi : BitVec 5) => srcs.any (fun f => match f with
    | .pop n => decide (lo ≤ n) && decide (n ≤ hi)
    | _ => false)
  let s := if popped 8 9 then discardClean s (dieNo g) else s
  if popped 8 11 then drainPushes s g else s

/-! ### Code pointers (R101) -/

def ptrWord (p : Ptr) : BitVec 28 := BitVec.ofInt 24 p.line ++ BitVec.ofNat 4 p.slot

def ptrOf (w : BitVec 28) : Ptr := { line := (w.extractLsb' 4 24).toNat, slot := (w.extractLsb' 0 4).toNat }

/-- Fields of a link word (R74). -/
def linkOwn (w : IWord) : Nat := fld w 31 29
def linkLast (w : IWord) : Bool := bit w 28
def linkCnt (w : IWord) : Nat := fld w 27 24
def linkNext (w : IWord) : Int := signed 24 w.toNat

/-- The link word of the fetched line. -/
def linkOf (q : Seqr) : IWord := (q.line.getD []).getD 0 0

/-- The head instruction's word 0, and the word in the slot after it. -/
def headWord (q : Seqr) : IWord := (q.line.getD []).getD q.pc.slot 0
def nextWord (q : Seqr) : IWord := (q.line.getD []).getD (q.pc.slot + 1) 0

/-- The slot that sequential fetch would reach after n slots (R101): slot 0 of the line where the line has no successor. -/
def seqNext (q : Seqr) (n : Nat) : Ptr :=
  let w := linkOf q
  if q.pc.slot + n ≤ linkCnt w then { line := q.pc.line, slot := q.pc.slot + n }
  else if linkLast w then { line := q.pc.line, slot := 0 }
  else { line := q.pc.line + linkNext w, slot := 1 }

/-- The sequencer past the head instruction of n slots: in its line, or at a fetch (R75). The instruction that led there is
kept for the TINFO of a fetch-format trap. -/
def advance (q : Seqr) (n : Nat) : Seqr :=
  let p := seqNext q n
  if q.pc.slot + n ≤ linkCnt (linkOf q) then { q with pc := p, led := q.pc }
  else { q with pc := p, led := q.pc, line := none, ranOff := linkLast (linkOf q) }

/-- The sequencer fetching at a target named by the instruction at its issue point. -/
def jumpTo (q : Seqr) (p : Ptr) : Seqr := { q with pc := p, led := q.pc, line := none, ranOff := false }

/-! ### Stalls and trace records -/

/-- Whether a hand's sequencers may act: no cut has frozen it, or is about to as its time has come, and no pre-emption stands
on it. -/
def handLive (s : State) (g : Nat) : Bool :=
  !(s.cuts.any (fun c => (c.frozen.any (fun x => x.1 == g) || decide (c.time ≤ s.time.toNat)) && (handOf s g).bound.any (fun b => b.launch == c.launch))) && !(s.preempts.any (fun e => e.1 == g && !e.2.saved))

/-- A sequencer that issues: started, not halted, not frozen, on a live hand (R330, R336, R346, R349). -/
def canIssue (s : State) (g : Nat) (q : SeqId) : Bool :=
  (sqOf s g q).status == .run && !(sqOf s g q).frozen && handLive s g && (handOf s g).ending.isNone

/-- The head instruction waits for a reason of R272: the stall's start is kept from its first cycle (R270). C asks for no port
but where it says so again. -/
def stalled (s : State) (g : Nat) (q : SeqId) (reason : Nat) : State :=
  count (modHand s g (fun h =>
    let h := modSeq h q (fun x => { x with stall := reason, since := some (x.since.getD s.time.toNat) })
    if q = .c then { h with portAsk := none } else h)) 0 (4 * g + seqNo q) reason 1

/-- One cycle of C's virtual time: pending landings and the lanes come one cycle nearer (R80, R198). -/
def virtualCycle (h : Hand) : Hand :=
  { h with vtime := h.vtime + 1, lanes := h.lanes - 1, landStat := 0,
           landings := h.landings.map (fun l => { l with rem := l.rem - 1 }) }

/-- The end of an issue: signals, the new issue point, the stall over, its walks forgotten, one virtual cycle on C. -/
def finish (s : State) (g : Nat) (q : SeqId) (k : Tok) (move : Seqr → Seqr) : State :=
  count (modHand s g (fun h =>
    let h := modSeq (tokenGive h q k none) q (fun x => { move x with stall := 0, since := none, walks := [] })
    if q = .c then virtualCycle { h with portAsk := none } else h)) 0 (4 * g + seqNo q) 0 1

/-! ### Stops (R348, R349) -/

/-- The queue, ring entry and node of a leaf. -/
def identOf (s : State) (b : Option Bound) : Option (Nat × Nat × Nat) :=
  match b with
  | none => none
  | some b =>
    match s.launches.find? (fun e => e.1 == b.launch) with
    | none => none
    | some (_, l) => some (l.queue, l.entry, (l.tasks[b.task]?.map (·.node)).getD 0)

/-- Those of the leaf bound on a hand. -/
def leafIdent (s : State) (g : Nat) : Option (Nat × Nat × Nat) := identOf s (handOf s g).bound

/-- A trace record of a hand about a leaf sent to the partition's trace arbiter (R351). -/
def traceLeaf (s : State) (g : Nat) (b : Option Bound) (kind : Nat) (q : SeqId) (d0 d1 : Word) : State :=
  let (queue, _, node) := (identOf s b).getD (0, 0, 0)
  { s with traceQ := s.traceQ ++ [(handPart s g, BitVec.ofNat 256
      (at' s.time.toNat 192 + at' d1.toNat 128 + at' d0.toNat 64 + at' (node % 1024) 32 + at' (queue % 256) 24 +
       at' kind 16 + at' (seqNo q) 9 + g))] }

/-- A trace record about the leaf bound on a hand. -/
def trace (s : State) (g kind : Nat) (q : SeqId) (d0 d1 : Word) : State := traceLeaf s g (handOf s g).bound kind q d0 d1

/-- The next issue point of a sequencer: past a barrier operation that has issued and awaits its reply (R267). -/
def issuePoint (x : Seqr) : Ptr := match x.awaits with
  | some (_, true) => seqNext x 1
  | _ => x.pc

/-- Whether a stop descriptor matches an event of this kind on hand g (R348). -/
def stopHits (s : State) (g kind : Nat) (q : Option SeqId) (d : BitVec 128) : Bool :=
  match leafIdent s g with
  | none => false
  | some (queue, entry, node) =>
    bit d 0 && fld d 3 1 == kind && fld d 47 16 == entry && fld d 55 48 == queue &&
    (bit d 57 || fld d 67 58 == node) &&
    (match q with
     | none => true
     | some q => bit d (68 + seqNo q)) &&
    (kind != 0 || (match q with
     | none => false
     | some q => fld d 99 72 == (ptrWord (issuePoint (sqOf s g q))).toNat))

/-- The lowest number of an armed stop of the hand's partition that matches an event of this kind (R348). -/
def stopMatch (s : State) (g kind : Nat) (q : Option SeqId) : Option Nat :=
  tfindKey (partOf s (handPart s g)).stops (fun _ d => stopHits s g kind q d)

/-- A stop taken on hand g: every descriptor that matches is disarmed, the hand freezes and writes one record, which names the
first (R348, R350), and the first stop of the launch fixes the cut time 2 µs ahead (R349). -/
def takeStop (s : State) (g i : Nat) (q : SeqId) : State :=
  let p := handPart s g
  let d := tget 0 (partOf s p).stops i
  let hits := stopHits s g (fld d 3 1) (if fld d 3 1 = 3 then none else some q)
  let s := trace s g 7 q (BitVec.ofNat 64 i) ((ptrWord (issuePoint (sqOf s g q))).zeroExtend 64)
  let s := modPart s p (fun x => { x with
    stops := tmap x.stops (fun j y => if j = i ∨ hits y then y &&& ~~~(1 : BitVec 128) else y) })
  let ln := ((handOf s g).bound.map (·.launch)).getD 0
  let now := s.time.toNat
  if s.cuts.any (fun c => c.launch == ln) then
    { s with cuts := s.cuts.map (fun c => if c.launch = ln then { c with frozen := (g, now) :: c.frozen } else c) }
  else
    let s := { s with cuts := { launch := ln, time := now + 2000, stop := i, save := bit d 56, frozen := [(g, now)], asked := [] } :: s.cuts }
    match s.launches.find? (fun e => e.1 == ln) with
    | none => s
    | some (_, l) => { s with launches := tput s.launches ln { l with cut := true } }

/-- A stop of this kind taken if one matches. -/
def stopIf (s : State) (g kind : Nat) (q : Option SeqId) : State :=
  match stopMatch s g kind q with
  | some i => takeStop s g i (q.getD .x)
  | none => s

/-! ### Taking a trap and returning from it (R330-R333) -/

/-- The TCAUSE word of R331. -/
def tcauseWord (cause : Nat) (q : SeqId) (sup impr xhalt : Bool) : BitVec 13 :=
  BitVec.ofBool xhalt ++ (BitVec.ofBool impr ++ (BitVec.ofBool sup ++ (BitVec.ofNat 2 (seqNo q) ++ BitVec.ofNat 8 cause)))

/-- A sequencer whose stall does not count dt of the time that has passed (R270). -/
def stallShift (dt : Nat) (x : Seqr) : Seqr := { x with since := x.since.map (fun t => t + dt) }

/-- A hand whose stalls do not count dt of the time that has passed; frozen sequencers count from the trap. -/
def stallsShift (h : Hand) (dt : Nat) : Hand :=
  { allSeqs.foldl (fun h q => modSeq h q (stallShift dt)) h with trapTime := h.trapTime + dt }

/-- The five steps of trap entry on the hand (R330) at a time. The sequencer that traps stands at its instruction anew; the stall of
another goes on after the handler. -/
def enterTrap (h : Hand) (q : SeqId) (cause : Nat) (info : Word) (at_ : Ptr) (now : Nat) : Hand :=
  let xhalt := decide (h.x.status ≠ .run)
  let h := modSeq h q (fun x => { x with since := none })
  let freeze := fun (x : Seqr) => if x.status = .run then { x with frozen := true } else x
  { h with
    trapTime := now
    tcause := tcauseWord cause q h.sup (cause == 13) xhalt
    tinfo := info
    epcPc := ptrWord at_
    epcXres := if q ≠ .x ∧ ¬xhalt then ptrWord (issuePoint h.x) else 0
    sup := true
    l := freeze h.l, c := freeze h.c, s := freeze h.s
    x := { h.x with status := .run, frozen := false, pc := ptrOf h.tvec, led := at_, line := none, ranOff := false,
                    awaits := h.x.awaits.map (fun a => (a.1, false)), stall := 0, since := none } }

/-- A double trap (R332): all four sequencers stop, the second trap's TCAUSE, TINFO and EPC stand for the record, and the
leaf ends with status 5. Whether X had halted before its handler began is kept in XHALT (R331). -/
def doubleTrap (h : Hand) (q : SeqId) (cause : Nat) (info : Word) (at_ : Ptr) : Hand :=
  let stop := fun (x : Seqr) => { x with status := if x.status = .off then .off else .halted, frozen := false }
  let xhalt := bit h.tcause 12
  { h with
    tcause := tcauseWord cause q true (cause == 13) xhalt
    tinfo := info
    epcPc := ptrWord at_
    epcXres := if q ≠ .x ∧ ¬xhalt then ptrWord (issuePoint h.x) else 0
    ending := some 5
    x := stop h.x, l := stop h.l, c := stop h.c, s := stop h.s }

/-- The EPC word (R331). -/
def epcWord (h : Hand) : Word := BitVec.ofNat 64 (at' h.epcXres.toNat 32 + h.epcPc.toNat)

/-- The TRAP trace record of a trap just taken (R351). -/
def traceTrap (s : State) (g : Nat) (q : SeqId) : State :=
  trace s g 3 q ((handOf s g).tcause.zeroExtend 64) (epcWord (handOf s g))

/-- Sequencer q of hand g takes a trap at a code pointer. -/
def trapAt (s : State) (g : Nat) (q : SeqId) (cause : Nat) (info : Word) (at_ : Ptr) : State :=
  if (handOf s g).sup then traceTrap (modHand s g (fun h => doubleTrap h q cause info at_)) g q
  else stopIf (traceTrap (modHand s g (fun h => enterTrap h q cause info at_ s.time.toNat)) g q) g 2 (some q)

/-- The precise trap at the head instruction (R329). -/
def takeTrap (s : State) (g : Nat) (q : SeqId) (cause : Nat) (info : Word) : State :=
  trapAt s g q cause info (sqOf s g q).pc

/-- The TINFO word of the illegal-instruction trap (R92). -/
def illegalInfo (code operand : Nat) (w : IWord) : Word := w ++ (0#16 ++ (BitVec.ofNat 8 operand ++ BitVec.ofNat 8 code))

/-- ERET on the hand (R333) at a time. A sequencer restarted at a code pointer fetches there; the stall of one that was frozen does not
count the time of the handler (R330). -/
def returnTrap (h : Hand) (now : Nat) : Hand :=
  let q := if fld h.tcause 9 8 = 0 then SeqId.x else if fld h.tcause 9 8 = 1 then .l else if fld h.tcause 9 8 = 2 then .c else .s
  let free := fun (x : Seqr) => if x.frozen then { stallShift (now - h.trapTime) x with frozen := false } else x
  let go := fun (x : Seqr) (p : BitVec 28) => { x with pc := ptrOf p, led := h.x.pc, line := none, ranOff := false, frozen := false }
  let h' := { h with sup := bit h.tcause 10, l := free h.l, c := free h.c, s := free h.s }
  if q = .x then { h' with x := go h.x h.epcPc }
  else
    let h'' := modSeq h' q (fun x => go x h.epcPc)
    if bit h.tcause 12 then { h'' with x := { h.x with status := .halted, line := none } }
    else { h'' with x := go h.x h.epcXres }

end Sys2Proof.Machine
end

