-- ==== Sys2Proof/WellFormed.lean ====
section
/-! DEFINITION. Which terms of Instr stand for an instruction: the limits of R92 codes 4 and 8 that a word alone decides. -/

namespace Sys2Proof

/-- How many of the four taps a GLDG mask selects (R255). -/
def tapCount (m : BitVec 5) : Nat :=
  (m.getLsbD 0).toNat + (m.getLsbD 1).toNat + (m.getLsbD 2).toNat + (m.getLsbD 3).toNat

/-- A scope is written only with ACQ or REL (R148). -/
def scopeUsed (sc : Scope) (acq rel : Bool) : Bool := acq || rel || decide (sc = .hand)

/-- The operand limits of R92 code 8 that the instruction's own fields break: a LOOPI count of 0, a CAS with an odd B5,
FADD or FMAX of width double, a PUSHC group other than 8, 16 or 24, ALGLD slot 0, a PSET count above 1,024, a copy-in with
an out-operation, a GLDG mask or destination out of range, a CHCNT or CHFREE operand that is not a peek, a CSR that is
read-only. -/
def limitBroken (i : Instr) : Bool :=
  match i with
  | .chcnt _ _ a => match a with | .peek _ => false | _ => true
  | .chfree _ _ a => match a with | .peek _ => false | _ => true
  | .loopi _ _ n => n == 0
  | .amocas _ _ _ b _ _ => b.getLsbD 0
  | .amofadd _ _ _ _ dbl _ => dbl
  | .amofmax _ _ _ _ dbl _ => dbl
  | .pushc _ _ a _ => !(a == 8 || a == 16 || a == 24)
  | .csrw _ _ c => match c with
    | .id => true
    | .partid => true
    | .lvl _ => true
    | .time => true
    | _ => false
  | .gldg _ d _ m => m.extractLsb' 0 4 == 0 || m.getLsbD 4 || d == 0 || decide (31 < d.toNat + tapCount m - 1)
  | .copyIn _ _ _ _ _ _ _ _ _ op _ => decide (op ≠ .copy)
  | .copyxIn _ _ _ _ _ _ _ _ _ _ op _ => decide (op ≠ .copy)
  | .algld _ sl _ => sl == 0
  | .pset _ _ _ cnt => decide (1024 < cnt.toNat)
  | _ => false

/-- A term that stands for an instruction: no limit of its own fields is broken, a copy names a scope only with ACQ or
REL, and a write of PALBASE is the instruction of that name. -/
def WellFormed (i : Instr) : Bool :=
  !limitBroken i &&
  match i with
  | .copyIn _ _ _ _ _ _ sc acq rel _ _ => scopeUsed sc acq rel
  | .copyOut _ _ _ _ _ _ sc acq rel _ _ => scopeUsed sc acq rel
  | .copyxIn _ _ _ _ _ _ _ sc acq rel _ _ => scopeUsed sc acq rel
  | .copyxOut _ _ _ _ _ _ _ sc acq rel _ _ => scopeUsed sc acq rel
  | .drain _ _ _ _ _ sc acq rel _ _ => scopeUsed sc acq rel
  | .csrw _ _ c => decide (c ≠ .palbase)
  | _ => true

end Sys2Proof
end

