-- ==== Sys2Proof/Machine/Operands.lean ====
section
/-! DEFINITION. The issue of a hand instruction: its checks in the order of R92, its waits (R69, R71, R78, R80, R100),
the reading of its operands (R83, R84), and the ways its result is written (R71, R80, R83). -/

namespace Sys2Proof.Machine

/-- What an instruction asks of its issue point: the sequencers that may execute it, whether it is reserved to supervisor
state, a channel operand that fails R70 by its own rule, a broken limit (R92 code 8), its 6-bit destination, its 7-bit
sources in the order A, B, the registers its 5-bit fields name, whether it takes no foreign record (R109), how many
landings it makes on C, and whether it holds the lanes (R198). -/
structure Req where
  allowed : List SeqId
  sup     : Bool
  chan7   : Bool
  limit   : Bool
  dst     : Option Dst
  srcs    : List Src
  regs    : List (BitVec 5)
  norec   : Bool
  lands   : Nat
  lane    : Bool
  deriving DecidableEq, Repr

/-- The outcome of an issue point: an illegal-instruction trap (code, operand), a stall, a lane or landing bubble, or the
state with tokens taken, operands read, the destination entry reserved and a ticket taken. -/
inductive Gate where
  | illegal (code operand : Nat)
  | wait (reason : Nat)
  | bubble (landing : Bool)
  | go (s : State) (vals : List (Word × Tag)) (ticket : Nat)

/-- The sequencers of a row that all may execute. -/
def everywhere : List SeqId := [.x, .l, .c, .s]
def xls : List SeqId := [.x, .l, .s]

/-- Whether D names a channel this sequencer does not write (R71, R73). -/
def dstBad (g : Nat) (q : SeqId) (d : Option Dst) : Bool :=
  match d with
  | some (.chan n) => decide (n.toNat ≥ 16) || decide (chanWriter (g % 4) n.toNat ≠ some q)
  | _ => false

/-- Whether a source names a channel this sequencer does not read (R71, R73). -/
def srcBad (g : Nat) (q : SeqId) (f : Src) : Bool :=
  match f with
  | .reg _ => false
  | .pop n => decide (n.toNat ≥ 16) || decide (chanReader (g % 4) n.toNat ≠ some q)
  | .peek n => decide (n.toNat ≥ 16) || decide (chanReader (g % 4) n.toNat ≠ some q)

/-- The operand number of the first source that names a wrong channel: A is 2, B is 3. -/
def srcsBad (g : Nat) (q : SeqId) (i : Nat) : List Src → Option Nat
  | [] => none
  | f :: r => if srcBad g q f then some i else srcsBad g q (i + 1) r

/-- The dynamic checks of R92 in their order: codes 2, 5, 7, 8. -/
def checks (h : Hand) (g : Nat) (q : SeqId) (r : Req) : Option (Nat × Nat) :=
  if ¬r.allowed.contains q then some (2, 0)
  else if r.sup ∧ ¬h.sup then some (5, 0)
  else if dstBad g q r.dst then some (7, 1)
  else match srcsBad g q 2 r.srcs with
    | some i => some (7, i)
    | none => if r.chan7 then some (7, 2) else if r.limit then some (8, 0) else none

/-- The registers an instruction reads or writes. -/
def reqRegs (r : Req) : List (BitVec 5) :=
  r.regs ++ r.srcs.filterMap (fun f => match f with | .reg n => some n | _ => none) ++
  (match r.dst with
   | some (.reg n) => [n]
   | _ => [])

/-- The channel whose entry X, L and S reserve at issue (R71). -/
def reserves (q : SeqId) (d : Option Dst) : Option Nat :=
  match d with
  | some (.chan n) => if q = .c then none else some n.toNat
  | _ => none

/-- Whether an ordering-buffer entry is a barrier operation. -/
def isBarrier (op : ObOp) : Bool :=
  match op with
  | .barrier _ _ _ _ _ => true
  | _ => false

/-- The issue of an instruction at sequencer q of hand g: the checks of R92, then the waits, then tokens, operands and
the reservation in one step. On C a landing that is due, and the lanes, come before anything else (R80, R198). -/
def gate (s : State) (g : Nat) (q : SeqId) (k : Tok) (r : Req) : Gate :=
  let h := handOf s g
  match checks h g q r with
  | some (c, o) => .illegal c o
  | none =>
    if (reqRegs r).any (regPending (seqOf h q)) then .wait 7
    else match tokenWait h q k with
    | some w => .wait w
    | none =>
      if q = .c ∧ 16 < h.landings.length + r.lands then .bubble true
      else if q = .c ∧ r.lane ∧ h.lanes ≠ 0 then .bubble false
      else match readSrcs h (g % 4) q r.norec r.srcs with
      | .error w => .wait w
      | .ok (h', vals) =>
        match reserves q r.dst with
        | none =>
          let s := popAcquire (setHand s g (tokenTake h' q k)) g r.srcs
          .go (ticketed s) vals s.nextId
        | some n =>
          if chanRoom s g n then
            let s := popAcquire (setHand s g (tokenTake h' q k)) g r.srcs
            let s := chanAdd s g n { val := none, ticket := s.nextId, terms := [] }
            .go (ticketed s) vals s.nextId
          else .wait 5

/-- A bubble of C: nothing issues and virtual time advances (R80, R198). -/
def bubbled (s : State) (g : Nat) (landing : Bool) : State :=
  count (modHand s g virtualCycle) 0 (4 * g + 2) (if landing then 17 else 16) 1

/-- The held machine check taken at X's issue point (R335). -/
def takeHeld (s : State) (g : Nat) : State :=
  let info := (handOf s g).heldMc.getD 0
  let s := takeTrap (modHand s g (fun h => { h with heldMc := none })) g .x 13 info
  trace s g 9 .x info ((handOf s g).tcause.zeroExtend 64)

/-- An instruction taken through its issue point; body is what it does once it issues. A sequencer that does not issue
(R330, R336, R346), or a landing of C that is due first (R80), leaves the state as it is; one that awaits a barrier
operation's reply stalls, and has no issue point until it comes (R267). X takes a held machine check
first (R335), and a stop that names the issue point freezes the hand before the instruction issues (R348). -/
def issue (s : State) (k : Tok) (r : Req) (body : State → List (Word × Tag) → Nat → Res) : Res :=
  let g := s.focus
  let q := s.focusSq
  if ¬canIssue s g q then .next s
  else if q = .c ∧ (handOf s g).landings.any (fun l => l.rem == 0) then .next s
  else if (sqOf s g q).awaits.isSome then .next (stalled s g q 9)
  else if q = .x ∧ (handOf s g).heldMc.isSome ∧ ¬(handOf s g).sup then .next (takeHeld s g)
  else match stopMatch s g 0 (some q) with
  | some i => .next (takeStop s g i q)
  | none =>
  match gate s g q k r with
    | .illegal c o => .next (takeTrap s g q 1 (illegalInfo c o (headWord (sqOf s g q))))
    | .wait w => .next (stalled s g q w)
    | .bubble b => .next (bubbled s g b)
    | .go s' vals t => body s' vals t

/-! ### Results -/

/-- A landing added to C's list (R80): λ virtual cycles from its issue. -/
def land (s : State) (g : Nat) (l : Landing) : State :=
  modHand s g (fun h => { h with landings := h.landings ++ [l] })

/-- A result of a 6-bit destination. On X, L and S the register takes it at once: the issue point is interlocked, so no
instruction can tell (R100). The reserved entry of a channel takes it when it lands, λ cycles from issue, which after one
cycle is before any other step. On C it lands after λ virtual cycles. -/
def putDst (s : State) (g : Nat) (q : SeqId) (ticket lat : Nat) (d : Dst) (v : Word) (t : Tag) : State :=
  match d with
  | .reg n =>
    if n = 0 then s
    else if q = .c then land s g { rem := lat, what := .scalar n.toNat v, tag := t, join := false, stat := 0 }
    else modSq s g q (fun x => regPut x n v t)
  | .chan n =>
    if q = .c then land s g { rem := lat, what := .chan n.toNat v, tag := t, join := false, stat := 0 }
    else if lat ≤ 1 then chanFill s g n.toNat ticket v (termsOf (handOf s g) g q t)
    else modSq s g q (fun x => { x with
      late := x.late ++ [{ ticket := ticket, dst := .chan n.toNat, due := some (dieCycles s (dieNo g) + lat), val := v, tag := t }] })

/-- A result of a 5-bit register field. -/
def putReg (s : State) (g : Nat) (q : SeqId) (lat : Nat) (n : BitVec 5) (v : Word) (t : Tag) : State :=
  putDst s g q 0 lat (.reg n) v t

/-- Whether a destination makes a landing on C. -/
def dstLands (d : Dst) : Nat :=
  match d with
  | .reg n => if n = 0 then 0 else 1
  | .chan _ => 1

/-- The destination of a result that arrives later. -/
def dstRef (d : Dst) : DstRef :=
  match d with
  | .reg n => if n = 0 then .none else .reg n.toNat
  | .chan n => .chan n.toNat

/-- A late result that arrives (a load's value, a reply): its register is no longer pending, or its reserved entry is
filled (R71, R141). -/
def arrive (s : State) (g : Nat) (q : SeqId) (ticket : Nat) (d : DstRef) (v : Word) (t : Tag) : State :=
  match d with
  | .none => s
  | .reg n => modSq s g q (fun x => { regPut x (BitVec.ofNat 5 n) v t with pend := x.pend.filter (fun p => p.ticket != ticket || p.reg != n) })
  | .chan n => chanFill s g n ticket v (termsOf (handOf s g) g q t)

/-- The late results of a sequencer that satisfy p arrive, in the order of their issue (R71, R100, R150). -/
def lateArrive (s : State) (g : Nat) (q : SeqId) (p : Late → Bool) : State :=
  let l := (sqOf s g q).late
  (l.filter p).foldl (fun s x => arrive s g q x.ticket x.dst x.val x.tag)
    (modSq s g q (fun x => { x with late := l.filter (fun y => !p y) }))

/-- The results whose cycle has come arrive. -/
def lateDue (s : State) : State :=
  s.hands.foldl (fun s' e => allSeqs.foldl (fun s' q =>
    let due := fun (l : Late) => l.due.any (fun t => decide (t ≤ dieCycles s (dieNo e.1)))
    if (seqOf e.2 q).late.any due then lateArrive s' e.1 q due else s') s') s

/-- A late result's register marked pending, with the tag it carries from issue. -/
def awaitDst (s : State) (g : Nat) (q : SeqId) (ticket : Nat) (d : DstRef) (t : Tag) : State :=
  match d with
  | .reg n => modSq s g q (fun x => tagPut (pendReg x (BitVec.ofNat 5 n) ticket) (BitVec.ofNat 5 n) t)
  | _ => s

/-- The value and tag of the i-th source read. -/
def valOf (vals : List (Word × Tag)) (i : Nat) : Word × Tag := vals.getD i (0, Tag.empty)

/-- A request of an instruction of 6-bit destination and 7-bit sources. -/
def reqRR (d : Option Dst) (srcs : List Src) : Req :=
  { allowed := everywhere, sup := false, chan7 := false, limit := false, dst := d, srcs := srcs, regs := [], norec := false,
    lands := (match d with
      | some d => dstLands d
      | none => 0), lane := false }

/-- A request of the CP and BR forms: 5-bit registers only. -/
def reqCP (allowed : List SeqId) (regs : List (BitVec 5)) : Req :=
  { allowed := allowed, sup := false, chan7 := false, limit := false, dst := none, srcs := [], regs := regs, norec := false,
    lands := 0, lane := false }

/-- An instruction that computes a result from its sources at issue: its value and tag go to D after its latency. -/
def computes (k : Tok) (d : Dst) (srcs : List Src) (norec : Bool) (lat : Nat)
    (f : Word → Word → Word) (tag : Tag → Tag → Tag) (s : State) : Res :=
  issue s k { reqRR (some d) srcs with norec := norec } fun t vals id =>
    let a := valOf vals 0
    let b := valOf vals 1
    .next (finish (putDst t s.focus s.focusSq id lat d (f a.1 b.1) (tag a.2 b.2)) s.focus s.focusSq k (fun x => advance x 1))

end Sys2Proof.Machine
end

