-- ==== Sys2Proof/Machine/Translate.lean ====
section
/-! DEFINITION. Translation (R123-R131, R305): the table walk, the TLBs, the checks on a page, and translation at the
issue point of a sequencer. -/

namespace Sys2Proof.Machine

/-! ### Channels (R311, R358) -/

/-- A context that stands in one of the states of a live job (R309, R324). -/
def ctxLive (c : Context) : Bool := c.state == .running || c.state == .window || c.state == .draining

/-- Whether a fresco context holds its cursor's bank: a spill has released it before its first row (R311, R318). -/
def holds (c : Context) : Bool := c.hold && ctxLive c && !(c.drained && c.phase != 0)

/-- Whether a fresco context holds the bank of a physical address (R305, R311). -/
def bankHeld (s : State) (pa : Nat) : Bool :=
  let c := tget Context.reset (chanOf s (chanNo pa)).ctx (bits pa 30 29)
  holds c && c.curBank == bits pa 28 27

/-- Who makes an ordinary access, for its place at a held bank (R311): a unit, a host or a die cache, which nothing in State numbers; one
with a number in State (a ticket and 0, or a walk's place in the order of arrival and its level and 1); or any access, as if no bank
were held. -/
inductive Turn where
  | unit
  | known (n k : Nat)
  | free
  deriving DecidableEq, Repr

/-- The name under which an access waits at a held bank: one that State does not number waits under its granule. -/
def turnName (tn : Turn) (pa : Nat) : Option (Nat × Nat) :=
  match tn with
  | .unit => some (pa / 32, 99)
  | .known n k => some (n, k)
  | .free => none

/-- Whether a context that holds its bank lets an access through (R311): its open window serves it. -/
def windowServes (c : Context) (tn : Turn) (pa : Nat) : Bool :=
  match turnName tn pa with
  | none => true
  | some x => c.state == .window && c.waited.contains x

/-- The context of the bank group of a physical address. -/
def groupCtx (s : State) (pa : Nat) : Context := tget Context.reset (chanOf s (chanNo pa)).ctx (bits pa 30 29)

/-- The context of the bank group of a physical address passed through f. -/
def modGroup (s : State) (pa : Nat) (f : Context → Context) : State :=
  modChan s (chanNo pa) (fun c => { c with ctx := tmod Context.reset c.ctx (bits pa 30 29) f })

/-- Whether the channel of a physical address takes an access now: powered, and its bank not held unless a window serves
the access (R311, R358). -/
def chanOpen (s : State) (tn : Turn) (pa : Nat) : Bool :=
  (chanOf s (chanNo pa)).power == .active && (!bankHeld s pa || windowServes (groupCtx s pa) tn pa)

/-- The time of the last access of a channel kept, for the power states (R358). -/
def touchChan (s : State) (pa : Nat) : State := modChan s (chanNo pa) (fun c => { c with access := s.time.toNat })

/-- An access that finds the channel of a physical address in a power state: it waits there, and the channel leaves the state for it
(R358). -/
def wakeChan (s : State) (pa : Nat) : State :=
  let c := chanOf s (chanNo pa)
  if (c.power == .powerDown || c.power == .selfRefresh) && c.wake.isNone then
    modChan s (chanNo pa) (fun x => { x with wake := some s.time.toNat })
  else s

/-- An access that the channel of a physical address does not take: it waits there, at a held bank in the order of arrival, and counts
as a wait (R311, R312, R352). -/
def knockAs (s : State) (tn : Turn) (pa : Nat) : State :=
  let s := wakeChan s pa
  match turnName tn pa with
  | none => s
  | some x =>
    let c := groupCtx s pa
    if ¬bankHeld s pa ∨ c.asked.contains x ∨ c.waited.contains x then s
    else count (modGroup s pa (fun c => { c with asked := c.asked ++ [x] })) 2 (chanNo pa) 6 1

/-- The same of an access that State does not number. -/
def knock (s : State) (pa : Nat) : State := knockAs s .unit pa

/-- A numbered access that a window has served leaves its place there. -/
def servedAs (s : State) (tn : Turn) (pa : Nat) : State :=
  match turnName tn pa with
  | none => s
  | some x => if (groupCtx s pa).waited.contains x then modGroup s pa (fun c => { c with waited := c.waited.erase x }) else s

/-- An ordinary access taken by the arbiter of a physical address's channel: its time, and its place in a window. -/
def tookAccess (s : State) (pa : Nat) : State := servedAs (touchChan s pa) .unit pa

/-- A read, and a write, taken there, with its counter (R352). -/
def chanRead (s : State) (pa : Nat) : State := count (tookAccess s pa) 2 (chanNo pa) 0 1
def chanWrote (s : State) (pa : Nat) : State := count (tookAccess s pa) 2 (chanNo pa) 1 1

/-- The first of some addresses at each context that holds its bank: where a unit's step of several accesses waits. -/
def leading (s : State) (pas : List Nat) : List Nat :=
  pas.foldl (fun l pa => if bankHeld s pa ∧ ¬l.any (fun a => chanNo a == chanNo pa && bits a 30 29 == bits pa 30 29) then l ++ [pa] else l) []

/-- Whether the channels of a unit's accesses take them now, in one step. -/
def unitsOpen (s : State) (pas : List Nat) : Bool :=
  pas.all (fun pa => (chanOf s (chanNo pa)).power == .active) && (leading s pas).all (chanOpen s .unit)

/-- The accesses waiting where they do not. -/
def unitsKnock (s : State) (pas : List Nat) : State :=
  ((leading s pas).filter (fun pa => !chanOpen s .unit pa)).foldl knock (pas.foldl wakeChan s)

/-! ### Table walks (R123-R129) -/

/-- The base-2 logarithm of what a walk level's index selects (R123), and the width of the index. -/
def levelShift : Nat → Nat
  | 0 => 12
  | 1 => 21
  | 2 => 30
  | 3 => 39
  | _ => 48

/-- The walk level of a leaf that maps 2^size bytes. -/
def levelOf (size : Nat) : Nat := if size = 30 then 2 else if size = 21 then 1 else 0

/-- The physical address of a virtual one on its page. -/
def physOf (p : Page) (va : Nat) : Nat := p.pbase + (va - p.vbase)

/-- A piece of len bytes at va on a page, off bytes into its access. -/
def pieceAt (p : Page) (va len off : Nat) : Piece :=
  { va := va, pa := physOf p va, psize := p.size, len := len, off := off, kind := p.kind, ptype := p.ptype, done := false, fwd := none, data := [] }

/-- Whether the channel of a physical address is missing or outside the partition (R128 translation reason 4). -/
def foreign (s : State) (part pa : Nat) : Bool :=
  decide (384 ≤ chanNo pa) || decide ((chanOf s (chanNo pa)).owner ≠ some part)

/-- Whether a physical byte lies in a save row (R305). -/
def saveRow (pa : Nat) : Bool := decide (131064 ≤ bits pa 26 10)

/-- Whether some byte of a range lies in a save row. -/
def touchesSave (pa len : Nat) : Bool := saveRow pa || saveRow (pa + len - 1)

def kindOfBits : Nat → PageKind
  | 0 => .so
  | 1 => .rc
  | _ => .uo

def typeOfBits : Nat → PageType
  | 0 => .normal
  | 1 => .glaze
  | 2 => .sync
  | _ => .code

/-- A table entry is malformed: every field but V and FRAME must be zero (R125). -/
def badTable (e : Nat) : Bool :=
  bits e 63 52 != 0 || bits e 11 1 != 0

/-- A leaf is malformed at a level (R125): a non-zero zero field, KIND 3, C64 above level 0, a FRAME not aligned to the
page. -/
def badLeaf (level e : Nat) : Bool :=
  bits e 53 52 != 0 || bits e 6 5 != 0 || bits e 11 10 == 3 ||
  (level != 0 && bits e 7 7 == 1) || (level == 1 && bits e 20 12 != 0) || (level == 2 && bits e 29 12 != 0)

/-- The 64 KiB group of a C64 entry at table address t and index i (R126): 16 entries alike but for consecutive FRAMEs
that start on a 64 KiB boundary. -/
def groupOk (m : Memory) (t i : Nat) : Bool :=
  let b := i - i % 16
  let e0 := memNat m (t + 8 * b) 8
  let rest := fun (e : Nat) => (bits e 63 52, bits e 11 0)
  bits e0 15 12 == 0 && bits e0 7 7 == 1 && bits e0 0 0 == 1 &&
  (List.range 16).all (fun j =>
    let e := memNat m (t + 8 * (b + j)) 8
    rest e == rest e0 && bits e 51 12 == bits e0 51 12 + j)

/-- The page of a well-formed leaf. -/
def pageOfLeaf (part va level e : Nat) : Page :=
  let size := if level = 0 then (if bits e 7 7 = 1 then 16 else 12) else levelShift level
  let frame := at' (bits e 51 12) 12
  { part := part, vbase := va - va % 2 ^ size, size := size, pbase := frame - frame % 2 ^ size,
    kind := kindOfBits (bits e 11 10), ptype := typeOfBits (bits e 9 8), sup := bits e 4 4 == 1, w := bits e 3 3 == 1,
    rd := bits e 2 2 == 1, keyid := bits e 59 54, layout := bits e 63 60 }

/-- The index of a virtual address in the table of a level (R123). -/
def levelIndex (va level : Nat) : Nat := bits va (levelShift level + (if level = 4 then 3 else 8)) (levelShift level)

/-- What one table entry gives a walk: the table of the level below, a page, or a failure. -/
inductive WalkTo where
  | table (t : Nat)
  | page (p : Page)
  | fault (f : XlFault)
  deriving DecidableEq, Repr

/-- The entry that a walk reads at a level in the table at physical address t (R123-R126, R128). -/
def walkRead (s : State) (part va level t : Nat) : WalkTo :=
  let i := levelIndex va level
  let e := memNat s.mem (t + 8 * i) 8
  let bad := fun r => WalkTo.fault { cause := 5, reason := r, level := level }
  if touchesSave (t + 8 * i) 8 then bad 4
  else if bits e 0 0 = 0 then bad 2
  else if bits e 1 1 = 1 then
    if 2 < level then bad 3
    else if badLeaf level e then bad 3
    else if level = 0 ∧ bits e 7 7 = 1 ∧ ¬groupOk s.mem t i then bad 3
    else if foreign s part (at' (bits e 51 12) 12) then bad 4
    else .page (pageOfLeaf part va level e)
  else if badTable e then bad 3
  else if level = 0 then bad 3
  else if foreign s part (at' (bits e 51 12) 12) then bad 4
  else .table (at' (bits e 51 12) 12)

/-- The walk from the table at physical address t down from a level. -/
def walkFrom (s : State) (part va : Nat) : Nat → Nat → Except XlFault Page
  | level, t =>
    match walkRead s part va level t, level with
    | .fault f, _ => .error f
    | .page p, _ => .ok p
    | .table t', l + 1 => walkFrom s part va l t'
    | .table _, 0 => .error { cause := 5, reason := 3, level := 0 }

/-- The physical addresses of the entries that it reads. -/
def walkTables (s : State) (part va : Nat) : Nat → Nat → List Nat
  | level, t =>
    let a := t + 8 * levelIndex va level
    match walkRead s part va level t, level with
    | .table t', l + 1 => a :: walkTables s part va l t'
    | _, _ => [a]

/-- The walk of a virtual address in a partition's tree. -/
def walk (s : State) (part va : Nat) : Except XlFault Page :=
  if 2 ^ 52 ≤ va then .error { cause := 5, reason := 1, level := 7 }
  else walkFrom s part va 4 (partOf s part).root

/-- Whether a cached page maps a virtual address of a partition. -/
def covers (p : Page) (part va : Nat) : Bool := p.part == part && decide (p.vbase ≤ va) && decide (va < p.vbase + 2 ^ p.size)

/-- The first failing check on a translated access of len bytes at va (R128, R305): translation before protection, the
lowest reason first. rd and wr say how it accesses, types which page types admit it (R127). -/
def pageFault (p : Page) (part : Nat) (sup rd wr : Bool) (types : List PageType) (va len : Nat) : Option XlFault :=
  let l := levelOf p.size
  if touchesSave (physOf p va) len then some { cause := 5, reason := 4, level := l }
  else if rd ∧ ¬p.rd then some { cause := 6, reason := 1, level := l }
  else if wr ∧ ¬p.w then some { cause := 6, reason := 2, level := l }
  else if p.sup ∧ ¬sup then some { cause := 6, reason := 3, level := l }
  else if p.keyid ≠ part then some { cause := 6, reason := 4, level := l }
  else if ¬types.contains p.ptype then some { cause := 6, reason := 5, level := l }
  else none

/-- The TINFO word of a translation or protection trap (R128). -/
def xlInfo (va : Nat) (wr : Bool) (f : XlFault) : Word :=
  BitVec.ofNat 64 (at' (bits va 51 12) 12 + at' wr.toNat 11 + at' f.level 8 + f.reason)

/-- What a sequencer's look-up of one address gives. -/
inductive Xl where
  | page (p : Page)
  | fault (f : XlFault)
  | miss
  deriving DecidableEq, Repr

/-- Whether a walk has not ended. -/
def walkLive (w : Walk) : Bool := w.found.isNone && w.failed.isNone

/-- A look-up in the hand's TLB, then the die's, then among the sequencer's ended walks, whose pages and failures are kept
for the instruction that asked for them (R129). -/
def lookup (s : State) (g : Nat) (q : SeqId) (va : Nat) : Xl :=
  let part := handPart s g
  if 2 ^ 52 ≤ va then .fault { cause := 5, reason := 1, level := 7 }
  else match (handOf s g).tlb.find? (fun p => covers p part va) with
  | some p => .page p
  | none =>
    match (dieOf s (dieNo g)).tlb.find? (fun p => covers p part va) with
    | some p => .page p
    | none =>
      match (sqOf s g q).walks.findSome? (fun w => if w.part = part ∧ w.found.any (fun p => covers p part va) then w.found else none) with
      | some p => .page p
      | none =>
        match (sqOf s g q).walks.find? (fun w => w.va == va / 4096 && w.part == part && w.failed.isSome) with
        | some w => .fault (w.failed.getD { cause := 5, reason := 2, level := 0 })
        | none => .miss

/-- The walks of the hands of a die that satisfy p: hand, sequencer, walk. -/
def dieWalks (s : State) (d : Nat) (p : Walk → Bool) : List (Nat × SeqId × Walk) :=
  s.hands.flatMap (fun e => if dieNo e.1 = d then
    allSeqs.flatMap (fun q => ((seqOf e.2 q).walks.filter p).map (fun w => (e.1, q, w))) else [])

/-- A walk begun at the root of its partition's tree. It counts for its die, and for its partition on that die (unit
4 + 4·partition + die), whose guests may read it (R352, R356). -/
def beginWalk (s : State) (g : Nat) (q : SeqId) (order : Nat) : State :=
  let own := 4 + 4 * handPart s g + dieNo g
  count (count (modSq s g q (fun x => { x with walks := x.walks.map (fun w =>
    if w.order = order ∧ w.start.isNone then { w with start := some s.time.toNat, level := 4, table := (partOf s w.part).root } else w) }))
    3 (dieNo g) 1 1) 3 own 1 1

/-- The walk of a die that has waited longest begun where fewer than 96 run there (R129). -/
def beginNext (s : State) (d : Nat) : State :=
  if 96 ≤ (dieWalks s d (fun w => walkLive w && w.start.isSome)).length then s
  else match (dieWalks s d (fun w => walkLive w && w.start.isNone)) with
  | [] => s
  | x :: r =>
    let y := r.foldl (fun (a b : Nat × SeqId × Walk) => if b.2.2.order < a.2.2.order then b else a) x
    beginWalk s y.1 y.2.1 y.2.2.order

/-- A walk asked for, unless one for the same 4 KiB is outstanding: a miss (R352), and a place in the order of arrival. -/
def startWalk (s : State) (g : Nat) (q : SeqId) (va : Nat) : State :=
  let part := handPart s g
  if (sqOf s g q).walks.any (fun w => w.va == va / 4096 && w.part == part) then s
  else
    let s := count (modSq s g q (fun x => { x with
      walks := x.walks ++ [{ part := part, va := va / 4096, order := s.nextId, start := none, level := 4, table := 0, found := none, failed := none }] }))
      3 (dieNo g) 0 1
    beginNext (ticketed s) (dieNo g)

/-- An access to translate: an address, its length within one page, and whether it writes. -/
structure Touch where
  va  : Nat
  len : Nat
  deriving DecidableEq, Repr

/-- The outcome of translating accesses in element order (R128): the pages, the first failing one, or the addresses that
need walks, all started together (R129). -/
inductive XlAll where
  | pages (ps : List Page)
  | fault (va : Nat) (f : XlFault)
  | misses (vas : List Nat)
  deriving DecidableEq, Repr

def xlateAll (s : State) (g : Nat) (q : SeqId) (rd wr : Bool) (types : List PageType) : List Touch → XlAll
  | [] => .pages []
  | t :: r =>
    match lookup s g q t.va with
    | .fault f => .fault t.va f
    | .miss =>
      match xlateAll s g q rd wr types r with
      | .misses l => .misses (t.va :: l)
      | _ => .misses [t.va]
    | .page p =>
      match pageFault p (handPart s g) (handOf s g).sup rd wr types t.va t.len with
      | some f => .fault t.va f
      | none =>
        match xlateAll s g q rd wr types r with
        | .pages ps => .pages (p :: ps)
        | x => x

/-- An access split at 4 KiB boundaries of the virtual space, which every page boundary is (R170). -/
def splitPages (va len : Nat) : List Touch :=
  if len = 0 then []
  else
    let first := min len (4096 - va % 4096)
    if first = len then [{ va := va, len := len }] else [{ va := va, len := first }, { va := va + first, len := len - first }]

/-- The 4 KiB pieces of a longer range. -/
def splitRange (va len : Nat) : List Touch :=
  (List.range ((va % 4096 + len + 4095) / 4096)).map (fun i =>
    let lo := max va (4096 * (va / 4096 + i))
    let hi := min (va + len) (4096 * (va / 4096 + i + 1))
    { va := lo, len := hi - lo })

/-- The failures of ended walks forgotten, as the instruction they stopped has been dealt with. -/
def dropWalks (s : State) (g : Nat) (q : SeqId) : State := modSq s g q (fun x => { x with walks := [] })

/-- A trap of the translation or protection cause at the head instruction. -/
def xlTrap (s : State) (g : Nat) (q : SeqId) (va : Nat) (wr : Bool) (f : XlFault) : State :=
  takeTrap (dropWalks s g q) g q f.cause (xlInfo va wr f)

/-- Walks started for the addresses that missed; the sequencer stalls with reason 14. -/
def missWalks (s : State) (g : Nat) (q : SeqId) (vas : List Nat) : State :=
  stalled (vas.foldl (fun s va => startWalk s g q va) s) g q 14

/-- Translation at issue (R128): k goes on with the pages; a failure traps before issue and a miss stalls, both in s0, the
state before the instruction took anything. -/
def withPages (s0 : State) (g : Nat) (q : SeqId) (rd wr : Bool) (types : List PageType) (ts : List Touch)
    (k : List Page → Res) : Res :=
  match xlateAll s0 g q rd wr types ts with
  | .fault va f => .next (xlTrap s0 g q va wr f)
  | .misses vas => .next (missWalks s0 g q vas)
  | .pages ps => k ps

/-- The physical addresses of the table entries that a unit reads for a virtual one. -/
def unitTables (s : State) (part va : Nat) : List Nat :=
  if 2 ^ 52 ≤ va then [] else walkTables s part va 4 (partOf s part).root

/-- The addresses that a unit which walks the tables itself meets in a range: those of the table entries, and those of its pages. -/
def unitAddrs (s : State) (part va len : Nat) : List Nat :=
  (splitRange va len).flatMap (fun t => unitTables s part t.va ++ (match walk s part t.va with
    | .ok p => [physOf p t.va]
    | .error _ => []))

/-- Whether such a unit can make its accesses to a range now: their channels take them (R311, R358). -/
def unitOpen (s : State) (part va len : Nat) : Bool := unitsOpen s (unitAddrs s part va len)

/-- Its accesses waiting at channels that do not take them. -/
def unitKnock (s : State) (part va len : Nat) : State := unitsKnock s (unitAddrs s part va len)

/-- Translation by a unit that walks the tables itself and reports failures as statuses (R152, R292, R323). -/
def unitPages (s : State) (part : Nat) (sup rd wr : Bool) (types : List PageType) : List Touch → Except (Nat × XlFault) (List Page)
  | [] => .ok []
  | t :: r =>
    match walk s part t.va with
    | .error f => .error (t.va, f)
    | .ok p =>
      match pageFault p part sup rd wr types t.va t.len with
      | some f => .error (t.va, f)
      | none =>
        match unitPages s part sup rd wr types r with
        | .error e => .error e
        | .ok ps => .ok (p :: ps)

/-- A range read at the channel arbiters by such a unit. -/
def unitRead (s : State) (part : Nat) (sup : Bool) (types : List PageType) (va len : Nat) : Except (Nat × XlFault) (List Byte) :=
  match unitPages s part sup true false types (splitRange va len) with
  | .error e => .error e
  | .ok ps => .ok ((List.zip (splitRange va len) ps).flatMap (fun (t, p) => memRead s.mem (physOf p t.va) t.len))

/-- The table entries that a unit reads for an address, counted at their channels (R352). -/
def walkTouched (s : State) (part va : Nat) : State := (unitTables s part va).foldl chanRead s

/-- The channels that a unit's accesses to a range take, those of its walks among them, with their counters (R352, R358). -/
def unitTouched (s : State) (wr : Bool) (va len : Nat) (ps : List Page) : State :=
  (List.zip (splitRange va len) ps).foldl (fun s (t, p) =>
    let s := walkTouched s p.part t.va
    if wr then chanWrote s (physOf p t.va) else chanRead s (physOf p t.va)) s

/-- The same for a range that a unit has read. -/
def unitTook (s : State) (part va len : Nat) : State :=
  match unitPages s part true false false [.normal, .code, .glaze, .sync] (splitRange va len) with
  | .error _ => s
  | .ok ps => unitTouched s false va len ps

/-- A range written at the channel arbiters by such a unit. -/
def unitWrite (s : State) (part : Nat) (sup : Bool) (types : List PageType) (va : Nat) (bs : List Byte) : Except (Nat × XlFault) State :=
  match unitPages s part sup false true types (splitRange va bs.length) with
  | .error e => .error e
  | .ok ps => .ok { unitTouched s true va bs.length ps with mem := (List.zip (splitRange va bs.length) ps).foldl (fun m (t, p) =>
      memWrite m (physOf p t.va) ((bs.drop (t.va - va)).take t.len)) s.mem }

/-- The page types of a launch's records (R17) and of ordinary data (R127). -/
def dataTypes : List PageType := [.normal, .code]

/-- A translation put into a TLB of n entries, once, in place of the oldest where it is full (R129). -/
def tlbPut (l : List Page) (p : Page) (n : Nat) : List Page := (p :: l.filter (fun x => x != p)).take n

/-- Whether a page, or an address range, meets a virtual range of a partition (R130). -/
def pageMeets (p : Page) (part va len : Nat) : Bool :=
  p.part == part && decide (p.vbase < va + len) && decide (va < p.vbase + 2 ^ p.size)

/-- Whether what a walk has found is of a range whose invalidation was requested after the walk started (R130): what the instruction
that waits for it is to use are the new tables. -/
def walkOld (s : State) (w : Walk) (p : Option Page) : Bool :=
  s.invals.any (fun x => x.2.1 == w.part && w.start.any (fun b => decide (b ≤ x.2.2.2.2)) &&
    ((decide (x.2.2.1 < 4096 * w.va + 4096) && decide (4096 * w.va < x.2.2.1 + x.2.2.2.1)) ||
     p.any (fun p => pageMeets p w.part x.2.2.1 x.2.2.2.1)))

/-- A walk reads its next table entry, once the channel takes the access (R129, R311): it goes on in the table below, or ends.
A page enters both TLBs and both ends are kept for the instruction that needs them; a walk that waits takes its place. One that an
invalidation has overtaken is forgotten, and its instruction walks again. -/
def walkStep (s : State) (g : Nat) (q : SeqId) (ix : Nat) : State :=
  match (sqOf s g q).walks[ix]? with
  | none => s
  | some w =>
    let a := w.table + 8 * levelIndex (4096 * w.va) w.level
    if ¬walkLive w then s
    else if w.start.isNone then beginNext s (dieNo g)
    else if ¬chanOpen s (.known w.order (w.level + 1)) a then knockAs s (.known w.order (w.level + 1)) a
    else
      let set := fun (s : State) (w' : Walk) => modSq s g q (fun x => { x with walks := lmod x.walks ix (fun _ => w') })
      let t := walkRead s w.part (4096 * w.va) w.level w.table
      let s := servedAs (chanRead s a) (.known w.order (w.level + 1)) a
      let forget := beginNext (modSq s g q (fun x => { x with walks := x.walks.eraseIdx ix })) (dieNo g)
      match t with
      | .table t => set s { w with level := w.level - 1, table := t }
      | .fault f => if walkOld s w none then forget else beginNext (set s { w with failed := some f }) (dieNo g)
      | .page p =>
        if walkOld s w (some p) then forget else
        let s := modHand (set s { w with found := some p }) g (fun h => { h with tlb := tlbPut h.tlb p 64 })
        beginNext (modDie s (dieNo g) (fun d => { d with tlb := tlbPut d.tlb p 8192 })) (dieNo g)

/-- WALK_COMPLETE (R129): the walk at a position among a sequencer's makes one step. -/
def execWalkComplete (g : Nat) (w : WalkRef) (s : State) : Res := .next (walkStep s g w.sq w.ix)

/-- Whether the page of a piece meets a virtual range. -/
def pieceMeets (p : Piece) (va len : Nat) : Bool :=
  decide (p.va - p.va % 2 ^ p.psize < va + len) && decide (va < p.va - p.va % 2 ^ p.psize + 2 ^ p.psize)

/-- The in-flight counters of the pages of a virtual range (R130): the accesses and commands that touch one of them and are
not yet performed, those saved with a pre-empted leaf among them (R337). They are counted from what holds them. -/
def inFlight (s : State) (part va len : Nat) : Nat :=
  let copyMeets := fun (c : CopyCmd) => (c.pages ++ c.srcPages ++ (c.done.map (·.2)).toList).any (fun p => pageMeets p part va len)
  let cmdMeets := fun (c : EngCmd) => c.pages.any (fun p => pageMeets p part va len)
  let obs := (s.hands.map (fun e => if handPart s e.1 ≠ part then 0 else
    ([e.2.x, e.2.l, e.2.s].map (fun q => (q.ob.filter (fun o => o.pieces.any (fun p => !p.done && pieceMeets p va len))).length)).sum)).sum
  let cmds := (s.easels.map (fun e =>
    (e.2.copyQ.filter copyMeets).length + ((e.2.frescoQ ++ e.2.collQ ++ e.2.glazeQ ++ e.2.syncQ).filter cmdMeets).length)).sum
  let saved := (s.preempts.map (fun e =>
    (e.2.copies.filter (fun c => copyMeets c.1)).length + (e.2.cmds.filter (fun c => cmdMeets c.2)).length)).sum
  let jobs := (s.channels.map (fun e => (e.2.ctx.filter (fun c => c.2.state != .idle &&
    (c.2.wpages ++ c.2.opages).any (fun p => pageMeets p part va len))).length)).sum
  let gl := (s.glazeJobs.filter (fun j => j.image.any (fun p => pageMeets p part va len))).length
  obs + cmds + saved + jobs + gl

/-- The ended walks of a hand whose page meets an invalidated range forgotten, as TLB entries are. -/
def forgetPages (h : Hand) (part va len : Nat) : Hand :=
  allSeqs.foldl (fun h q => modSeq h q (fun x => { x with
    walks := x.walks.filter (fun w => !w.found.any (fun y => pageMeets y part va len)) })) h

/-- An invalidation of a virtual range requested by the supervisor (R130): every TLB entry of the range is discarded, and
the request waits for the in-flight counters and for the walks that were outstanding. -/
def execInvalidation (p va len : Nat) (s : State) : Res :=
  asked s <|
  let keep := fun (l : List Page) => l.filter (fun x => !pageMeets x p va len)
  let s := { s with
    hands := tmap s.hands (fun _ h => forgetPages { h with tlb := keep h.tlb } p va len)
    dies := tmap s.dies (fun _ d => { d with tlb := keep d.tlb }) }
  .next { s with invals := (s.nextId, p, va, len, s.time.toNat) :: s.invals, nextId := s.nextId + 1 }

/-- Whether a walk that started no later than the invalidation is outstanding for its partition (R130). -/
def oldWalk (s : State) (p t : Nat) : Bool :=
  s.hands.any (fun e => [e.2.x, e.2.l, e.2.c, e.2.s].any (fun q => q.walks.any (fun w => w.part == p && walkLive w && w.start.any (fun b => decide (b ≤ t)))))

/-- The invalidation with this ticket completes once its conditions hold (R130): nothing of the range is in flight, no
older walk is outstanding, and the TLBs hold no entry of it. -/
def execInvalidationComplete (ix : Nat) (s : State) : Res :=
  match s.invals.find? (fun e => e.1 == ix) with
  | none => .next s
  | some (_, p, va, len, t) =>
    if inFlight s p va len ≠ 0 ∨ oldWalk s p t then .next s
    else
      let keep := fun (l : List Page) => l.filter (fun x => !pageMeets x p va len)
      .next { s with
        invals := s.invals.filter (fun e => e.1 != ix)
        hands := tmap s.hands (fun _ h => forgetPages { h with tlb := keep h.tlb } p va len)
        dies := tmap s.dies (fun _ d => { d with tlb := keep d.tlb })
        outbox := .log 1 ix :: s.outbox }

end Sys2Proof.Machine
end

