-- ==== Sys2Proof/Machine/Cache.lean ====
section
/-! DEFINITION. Points of performance and the die caches (R155, R158-R160). -/

namespace Sys2Proof.Machine

/-! ### Points of performance (R158, R159) -/

/-- Whether an access from die d to a byte of this page goes through d's cache (R158): a normal or code page of kind RC
or UO homed on another die. -/
def viaCache (d : Nat) (kind : PageKind) (ptype : PageType) (pa : Nat) : Bool :=
  decide (homeDie pa ≠ d) && kind != .so && (ptype == .normal || ptype == .code)

/-- The 128-byte lines of a range. -/
def linesOf (pa len : Nat) : List Nat := if len = 0 then [] else (List.range ((pa + len - 1) / 128 + 1 - pa / 128)).map (fun i => pa / 128 + i)

/-- The lines that an access from die d brings into its cache. -/
def linesVia (d : Nat) (kind : PageKind) (ptype : PageType) (pa len : Nat) : List Nat := if viaCache d kind ptype pa then linesOf pa len else []

/-- Whether die d's cache has room for all these lines, those that it holds among them: it holds 96 MiB in lines of 128 bytes
(R155). -/
def linesRoom (s : State) (d : Nat) (ls : List Nat) : Bool :=
  let l := (dieOf s d).cache
  let new := (ls.filter (fun n => !l.any (fun e => e.1 / 128 == n))).eraseDups
  new == [] || decide (l.length + new.length ≤ 786432) || decide ((l.map (fun e => e.1 / 128)).eraseDups.length + new.length ≤ 786432)

/-- Whether die d's cache serves an access by itself: a write, or a read of bytes that it holds. -/
def cacheServes (s : State) (d : Nat) (wr : Bool) (pa len : Nat) : Bool :=
  wr || (List.range len).all (fun i => (dieOf s d).cache.any (fun e => e.1 == pa + i))

/-- Whether an access from die d to a range can reach its point of performance now: the channel takes it, or the die cache
serves it, which has room for its lines. -/
def canReach (s : State) (tn : Turn) (d : Nat) (wr : Bool) (kind : PageKind) (ptype : PageType) (pa len : Nat) : Bool :=
  if viaCache d kind ptype pa then
    linesRoom s d (linesOf pa len) &&
    (chanOpen s tn pa || cacheServes s d wr pa len)
  else chanOpen s tn pa

/-- A byte read at die d's cache, a missing one from memory (R159). -/
def cacheByte (s : State) (d pa : Nat) : Byte :=
  match (dieOf s d).cache.find? (fun e => e.1 == pa) with
  | some e => e.2.val
  | none => memGet s.mem pa

/-- The 128-byte line of an address filled: every byte of it that the cache does not hold becomes clean (R159). -/
def fillLine (s : State) (d pa : Nat) : State :=
  let b := pa - pa % 128
  let missing := (List.range 128).filter (fun i => !((dieOf s d).cache.any (fun e => e.1 == b + i)))
  if missing = [] then s
  else
    let new := missing.map (fun i => (b + i, ({ val := memGet s.mem (b + i), dirty := false, at_ := s.time.toNat } : CacheByte)))
    count (chanRead (modDie s d (fun x => { x with cache := new ++ x.cache })) pa) 3 d 3 1

/-- Bytes read from die d at their point of performance. -/
def pointRead (s : State) (d : Nat) (kind : PageKind) (ptype : PageType) (pa len : Nat) : List Byte × State :=
  if viaCache d kind ptype pa then
    let s := fillLine s d pa
    let s := if len = 0 then s else fillLine s d (pa + len - 1)
    ((List.range len).map (fun i => cacheByte s d (pa + i)), s)
  else (memRead s.mem pa len, chanRead s pa)

/-- Bytes written from die d at their point of performance: into the cache as dirty bytes, or into memory. -/
def pointWrite (s : State) (d : Nat) (kind : PageKind) (ptype : PageType) (pa : Nat) (bs : List Byte) : State :=
  if viaCache d kind ptype pa then
    let new := (List.range bs.length).map (fun i => (pa + i, ({ val := bs.getD i 0, dirty := true, at_ := s.time.toNat } : CacheByte)))
    modDie s d (fun x => { x with cache := new ++ x.cache.filter (fun e => decide (e.1 < pa) || decide (pa + bs.length ≤ e.1)) })
  else chanWrote { s with mem := memWrite s.mem pa bs } pa

/-- Dirty bytes of a range of die d's cache, lowest first. -/
def dirtyIn (s : State) (d lo len : Nat) : Table CacheByte :=
  (dieOf s d).cache.filter (fun e => e.2.dirty && decide (lo ≤ e.1) && decide (e.1 < lo + len))

/-- The stores whose bytes of a range of die d's cache have been written back are performed at every scope (R160). -/
def storesBack (s : State) (d lo len : Nat) : State :=
  let f := fun (h : Hand) => allSeqs.foldl (fun h q => modSeq h q (fun x => { x with
    dirtied := x.dirtied.filter (fun y => decide (y.pa < lo) || decide (lo + len ≤ y.pa)) })) h
  modSaved { s with hands := tmap s.hands (fun g h => if dieNo g = d then f h else h) }
    (fun g => dieNo g == d) (fun p => { p with image := f p.image })

/-- The dirty bytes of a 128-byte line written back: they become clean (R159). -/
def writeBackLine (s : State) (d pa : Nat) : State :=
  let b := pa - pa % 128
  let l := dirtyIn s d b 128
  if l = [] then s
  else
    let s := { s with mem := l.foldl (fun m e => memSet m e.1 e.2.val) s.mem }
    let s := modDie s d (fun x => { x with cache := x.cache.map (fun e =>
      if b ≤ e.1 ∧ e.1 < b + 128 then (e.1, { e.2 with dirty := false }) else e) })
    count (chanWrote (storesBack s d b 128) pa) 3 d 4 1

/-- DIE_CACHE_WRITE_BACK (R159): enabled while the line's channel takes accesses. -/
def execDieCacheWriteBack (die pa : Nat) (s : State) : Res :=
  if dirtyIn s die (pa - pa % 128) 128 = [] then .next s
  else if ¬chanOpen s .unit pa then .next (knock s pa)
  else .next (writeBackLine s die pa)

/-- DIE_CACHE_DISCARD (R159): the clean bytes of a line leave the cache. -/
def execDieCacheDiscard (die pa : Nat) (s : State) : Res :=
  let b := pa - pa % 128
  .next (modDie s die (fun x => { x with cache := x.cache.filter (fun e => e.2.dirty || decide (e.1 < b) || decide (b + 128 ≤ e.1)) }))

/-- Whether a die cache holds a dirty byte. -/
def anyDirty (s : State) (d : Nat) : Bool := (dieOf s d).cache.any (fun e => e.2.dirty)

end Sys2Proof.Machine
end

