-- ==== Sys2Proof/Machine/Box.lean ====
section
/-! DEFINITION. The box of a copy (R137-R139, R152, R169): its elements, their addresses, and the accesses in which an engine
moves them. -/

namespace Sys2Proof.Machine

/-- Half-bytes of an element. -/
def CopyCmd.eh (c : CopyCmd) : Nat := c.comps * c.cbits / 4

def prod (l : List Nat) : Nat := l.foldl (fun x y => x * y) 1

def CopyCmd.count (c : CopyCmd) : Nat := prod (c.dims.map (·.box))
def CopyCmd.total (c : CopyCmd) : Nat := c.count * c.eh

/-- Box coordinates of the n-th element. -/
def coordsOf : List Dim → Nat → List Nat
  | [], _ => []
  | d :: r, n => n % d.box :: coordsOf r (n / d.box)

/-- The range of a coordinate inside the tensor; everything under clip 0. -/
def insideRange (clip : Clip) (d : Dim) (o : Int) : Nat × Nat :=
  if clip = .none then (0, d.box)
  else ((max 0 (-o)).toNat, (min (d.box : Int) ((d.extent : Int) - o)).toNat)

def ranges (c : CopyCmd) : List (Nat × Nat) := (List.zip c.dims c.origin).map (fun (d, o) => insideRange c.clip d o)

/-- Whether coordinates, the first apart, are inside. -/
def rowInside (c : CopyCmd) (co : List Nat) : Bool :=
  (List.zip co (ranges c)).tail.all (fun (x, r) => decide (r.1 ≤ x) && decide (x < r.2))

def elemInside (c : CopyCmd) (co : List Nat) : Bool :=
  (List.zip co (ranges c)).all (fun (x, r) => decide (r.1 ≤ x) && decide (x < r.2))

/-- The global offset of coordinates in half-bytes. -/
def gOff (c : CopyCmd) (co : List Nat) : Int :=
  let l := (List.zip (List.zip co c.origin) c.dims).map (fun ((x, o), d) => ((x : Int) + o, d.gstride))
  match l with
  | [] => 0
  | (g0, _) :: r => g0 * c.eh + 2 * (r.map (fun (g, st) => g * st)).sum

/-- The buffer offset of coordinates in half-bytes; a DRAIN's row step replaces BSTRIDE(1) (R238). -/
def bOff (c : CopyCmd) (co : List Nat) : Nat :=
  let strides := match c.rowStep with
    | some r => 0 :: r :: (c.dims.map (·.bstride)).drop 2
    | none => c.dims.map (·.bstride)
  match co with
  | [] => 0
  | c0 :: _ => c0 * c.eh + 2 * ((List.zip co strides).tail.map (fun (x, st) => x * st)).sum

/-- A global half-byte address from a base. -/
def gHalf (base : Nat) (off : Int) : Nat := ((2 * (base : Int) + off) % (2 : Int) ^ 65).toNat

/-- The inside part of each row, in element order, as a virtual range from a base. -/
def rowSpans (c : CopyCmd) (base : Nat) : List (Nat × Nat) :=
  let b0 := (c.dims.map (·.box)).headD 0
  let r0 := (ranges c).headD (0, 0)
  (List.range (if b0 = 0 then 0 else c.count / b0)).filterMap (fun r =>
    let co := coordsOf c.dims (r * b0)
    if rowInside c co ∧ r0.1 < r0.2 then
      let h := gHalf base (gOff c (r0.1 :: co.tail))
      some (h / 2, (h % 2 + (r0.2 - r0.1) * c.eh + 1) / 2)
    else none)

def rowTouches (c : CopyCmd) (base : Nat) : List Touch := (rowSpans c base).flatMap (fun x => splitRange x.1 x.2)

/-- Pages, each once. -/
def distinct (l : List Page) : List Page :=
  (l.foldl (fun acc p => if acc.any (fun x => x.vbase == p.vbase) then acc else p :: acc) []).reverse

/-- The buffer bytes of a whole box, clipped elements included: lowest and end. -/
def boxSpan (c : CopyCmd) : Nat × Nat :=
  if c.count = 0 then (c.baddr, c.baddr)
  else
    let far := bOff c (c.dims.map (fun d => d.box - 1))
    (c.baddr, c.baddr + (far + c.eh + 1) / 2)

/-- The bytes that n half-bytes from half-address h touch. -/
def byteSpan (h n : Nat) : Nat := (h % 2 + n + 1) / 2

/-- A run of half-bytes at a position: how many, whether inside, whether it is written at its destination although it is not
inside (R152 clip 2), and where. -/
structure Run where
  n      : Nat
  inside : Bool
  fills  : Bool
  src    : Nat
  dst    : Nat
  buf    : Nat
  deriving DecidableEq, Repr

/-- The half-bytes left before the next boundary of a granule. -/
def toBoundary (h gran : Nat) : Nat := gran - h % gran

/-- The granule of a page in half-bytes (R139, R169). -/
def granuleOf (p : Option Page) : Nat := match p with
  | some p => if p.kind = .uo then 16 else 64
  | none => 64

def pageAt (ps : List Page) (part va : Nat) : Option Page := ps.find? (fun p => covers p part va)

def isGlazePage (p : Option Page) : Bool := match p with
  | some p => p.ptype == .glaze
  | none => false

def copyIn? (k : CopyKind) : Bool := match k with
  | .inn => true
  | .prefetch _ _ => true
  | _ => false

def copyOut? (k : CopyKind) : Bool := match k with
  | .out => true
  | .drain => true
  | _ => false

/-- Whether elements are taken one by one: under an out-operation, and on glaze pages. -/
def single (c : CopyCmd) (src dst : Nat) : Bool :=
  c.outOp != .copy || (!copyOut? c.kind && isGlazePage (pageAt (if copyIn? c.kind then c.pages else c.srcPages) c.part (src / 2))) ||
    (!copyIn? c.kind && isGlazePage (pageAt c.pages c.part (dst / 2)))

/-- The granule in half-bytes on the side that a command moves through. -/
def granuleAt (c : CopyCmd) (src dst : Nat) : Nat :=
  granuleOf (pageAt c.pages c.part ((if copyIn? c.kind then src else dst) / 2))

/-- The run of half-bytes from a position on, `bytes` having been written before it: within its row and its segment, in one
granule of the global side it moves through (the destination's, for a global copy), one element where elements are taken one
by one. -/
def runFrom (c : CopyCmd) (pos bytes : Nat) : Run :=
  let co := coordsOf c.dims (pos / c.eh)
  let ho := pos % c.eh
  let off := gOff c co + ho
  let src := gHalf c.src off
  let dst := gHalf c.dst off
  let buf := 2 * c.baddr + bOff c co + ho
  let r0 := (ranges c).headD (0, 0)
  let c0 := co.headD 0
  let b0 := (c.dims.map (·.box)).headD 0
  let row := rowInside c co
  let inside := row && decide (r0.1 ≤ c0) && decide (c0 < r0.2)
  let fills := !inside && !copyIn? c.kind && !copyOut? c.kind && c.clip == .fill
  let stop := if row then (if c0 < r0.1 then min r0.1 b0 else if c0 < r0.2 then r0.2 else b0) else b0
  let left := min ((stop - c0) * c.eh - ho) (131072 - bytes % 131072)
  let n :=
    if ¬inside ∧ ¬fills then min left 64
    else if single c src dst then c.eh - ho
    else min left (toBoundary (if copyIn? c.kind then src else dst) (granuleAt c src dst))
  { n := n, inside := inside, fills := fills, src := src, dst := dst, buf := buf }

/-- The granule of a run: the number of its first half-byte's granule on the side it moves through. -/
def granuleNo (c : CopyCmd) (r : Run) : Nat := (if copyIn? c.kind then r.src else r.dst) / granuleAt c r.src r.dst

/-- The runs that follow in one access: those of the same granule, past elements that are not inside. -/
def runsAfter (c : CopyCmd) (g : Nat) : Nat → Nat → Nat → List Run
  | 0, _, _ => []
  | f + 1, pos, bytes =>
    if c.total ≤ pos ∨ bytes % 131072 = 0 then []
    else
      let r := runFrom c pos bytes
      if (r.inside ∨ r.fills) ∧ (single c r.src r.dst ∨ granuleNo c r ≠ g) then []
      else r :: runsAfter c g f (pos + r.n) (bytes + (if r.inside ∨ r.fills ∨ copyIn? c.kind then r.n else 0))

/-- The next access of a command: the runs of one granule that follow each other in element order, moved in one step (R139,
R169), or one element where elements are taken one by one. -/
def accessRuns (c : CopyCmd) : List Run :=
  let r := runFrom c c.pos c.bytes
  if (¬r.inside ∧ ¬r.fills) ∨ single c r.src r.dst then [r]
  else r :: runsAfter c (granuleNo c r) 64 (c.pos + r.n) (c.bytes + r.n)

/-- The position after the last half-byte that is inside. -/
def lastInside (c : CopyCmd) : Nat :=
  if (ranges c).any (fun r => decide (r.2 ≤ r.1)) then 0
  else
    let idx := (List.zip c.dims (ranges c)).foldr (fun (x : Dim × Nat × Nat) (acc : Nat) => acc * x.1.box + (x.2.2 - 1)) 0
    (idx + 1) * c.eh

end Sys2Proof.Machine
end

