-- ==== Sys2Proof/Machine/Control.lean ====
section
/-! DEFINITION. Branches, jumps and hardware loops (R114-R118), and the fetching of code lines (R74, R75, R367). -/

namespace Sys2Proof.Machine

/-- The target of an instruction: a signed line offset from its own line, and a slot (R75). -/
def targetOf (q : Seqr) (o : Int) (x : BitVec 4) : Ptr := { line := q.pc.line + o, slot := x.toNat }

/-- A conditional branch on the sign and zero of S5 (R114); taken, it fetches at its target. -/
def branch (k : Tok) (r : BitVec 5) (o : BitVec 10) (x : BitVec 4) (taken : Word → Bool) (s : State) : Res :=
  issue s k (reqRR none [.reg r]) fun t vals _ =>
    .next (finish t s.focus s.focusSq k (fun q =>
      if taken (valOf vals 0).1 then jumpTo q (targetOf q o.toInt x) else advance q 1))

/-- BEQZ (R114). -/
def execBeqz (k : Tok) (r : BitVec 5) (o : BitVec 10) (x : BitVec 4) (s : State) : Res := branch k r o x (fun v => v == 0) s
/-- BNEZ (R114). -/
def execBnez (k : Tok) (r : BitVec 5) (o : BitVec 10) (x : BitVec 4) (s : State) : Res := branch k r o x (fun v => v != 0) s
/-- BLTZ (R114). -/
def execBltz (k : Tok) (r : BitVec 5) (o : BitVec 10) (x : BitVec 4) (s : State) : Res := branch k r o x (fun v => v.slt 0) s
/-- BGEZ (R114). -/
def execBgez (k : Tok) (r : BitVec 5) (o : BitVec 10) (x : BitVec 4) (s : State) : Res := branch k r o x (fun v => !v.slt 0) s
/-- BGTZ (R114). -/
def execBgtz (k : Tok) (r : BitVec 5) (o : BitVec 10) (x : BitVec 4) (s : State) : Res := branch k r o x (fun v => (0 : Word).slt v) s
/-- BLEZ (R114). -/
def execBlez (k : Tok) (r : BitVec 5) (o : BitVec 10) (x : BitVec 4) (s : State) : Res := branch k r o x (fun v => !(0 : Word).slt v) s

/-- The return point of JAL, JALR, TRAP, BRK or YIELD as a word (R101). -/
def returnPoint (q : Seqr) : Word := (ptrWord (seqNext q 1)).zeroExtend 64

/-- J (R115). -/
def execJ (k : Tok) (o : BitVec 18) (x : BitVec 4) (s : State) : Res :=
  issue s k (reqRR none []) fun t _ _ =>
    .next (finish t s.focus s.focusSq k (fun q => jumpTo q (targetOf q o.toInt x)))

/-- JAL (R115): s31 takes the return point with an empty tag. -/
def execJal (k : Tok) (o : BitVec 18) (x : BitVec 4) (s : State) : Res :=
  issue s k (reqRR (some (.reg 31)) []) fun t _ id =>
    let rp := returnPoint (sqOf t s.focus s.focusSq)
    .next (finish (putDst t s.focus s.focusSq id 1 (.reg 31) rp Tag.empty) s.focus s.focusSq k
      (fun q => jumpTo q (targetOf q o.toInt x)))

/-- JR (R116): the target is bits 27:0 of A. -/
def execJr (k : Tok) (a : Src) (s : State) : Res :=
  issue s k (reqRR none [a]) fun t vals _ =>
    .next (finish t s.focus s.focusSq k (fun q => jumpTo q (ptrOf ((valOf vals 0).1.extractLsb' 0 28))))

/-- JALR (R116): A is read before s31 is written. -/
def execJalr (k : Tok) (a : Src) (s : State) : Res :=
  issue s k (reqRR (some (.reg 31)) [a]) fun t vals id =>
    let rp := returnPoint (sqOf t s.focus s.focusSq)
    .next (finish (putDst t s.focus s.focusSq id 1 (.reg 31) rp Tag.empty) s.focus s.focusSq k
      (fun q => jumpTo q (ptrOf ((valOf vals 0).1.extractLsb' 0 28))))

/-- A loop counter (R65). -/
def lcGet (q : Seqr) (c : BitVec 2) : BitVec 32 := tget 0 q.lc c.toNat
def lcPut (q : Seqr) (c : BitVec 2) (v : BitVec 32) : Seqr := { q with lc := tput q.lc c.toNat v }

/-- LOOP (R117): LC[c] takes a[31:0]; the tag of A is dropped. -/
def execLoop (k : Tok) (c : BitVec 2) (a : Src) (s : State) : Res :=
  issue s k (reqRR none [a]) fun t vals _ =>
    .next (finish t s.focus s.focusSq k (fun q => advance (lcPut q c ((valOf vals 0).1.extractLsb' 0 32)) 1))

/-- LOOPI (R117): a count of 0 is code 8. -/
def execLoopi (k : Tok) (c : BitVec 2) (n : BitVec 7) (s : State) : Res :=
  issue s k { reqRR none [] with limit := limitBroken (.loopi k c n) } fun t _ _ =>
    .next (finish t s.focus s.focusSq k (fun q => advance (lcPut q c (n.zeroExtend 32)) 1))

/-- A BRLOOP that falls through while a snapshot of its counter is armed (R355): the matrix is copied into the buffer
with the TIME and zeroed, or MISSED counts. -/
def snapshotAt (s : State) (g : Nat) (q : SeqId) (c : Nat) : State :=
  modEasel s (easelNo g) (fun e =>
    match e.snap.armed with
    | none => e
    | some (hand, sq, n, every) =>
      if hand = g ∧ sq = q ∧ n = c then
        if e.snap.ready then { e with snap := { e.snap with missed := e.snap.missed + 1 } }
        else { e with
          conflict := []
          snap := { e.snap with ready := true, time := s.time, image := e.conflict, armed := if every then e.snap.armed else none } }
      else e)

/-- BRLOOP (R118): on C ROT falls by one; LC above 1 is lowered and the branch taken, otherwise LC becomes 0. -/
def execBrloop (k : Tok) (c : BitVec 2) (o : BitVec 10) (x : BitVec 4) (s : State) : Res :=
  issue s k (reqRR none []) fun t _ _ =>
    let q := s.focusSq
    let lc := lcGet (sqOf t s.focus q) c
    let t := if q = .c then modHand t s.focus (fun h => { h with rot := h.rot - 1 }) else t
    if 1 < lc.toNat then
      .next (finish t s.focus q k (fun z => jumpTo (lcPut z c (lc - 1)) (targetOf z o.toInt x)))
    else
      .next (snapshotAt (finish t s.focus q k (fun z => advance (lcPut z c 0) 1)) s.focus q c.toNat)

/-! ### Fetching (R74, R75, R367) -/

/-- The TINFO word of a fetch-format trap (R75). -/
def fetchInfo (reason : Nat) (led : Ptr) : Word := BitVec.ofNat 64 (at' (ptrWord led).toNat 32 + reason)

/-- The first fetch-format reason that a line fails for a sequencer aiming at a slot (R75). A data line and a line of another owner
report 3 whatever their CNT (R98, R116); for the rest of a line that fails several R75 states no order, and the lowest reason is
reported (DESIGN CHOICE, log entry 38). -/
def lineFault (q : SeqId) (w : IWord) (slot : Nat) : Option Nat :=
  if 5 ≤ linkOwn w then some 1
  else if linkOwn w ≠ seqNo q then some 3
  else if linkCnt w = 0 then some 2
  else if slot = 0 ∨ linkCnt w < slot then some 5
  else if linkLast w ∧ linkNext w ≠ 0 then some 7
  else none

/-- The words of 64 bytes. -/
def wordsOf (bs : List Byte) : List IWord := (List.range 16).map (word32At bs)

/-- A sequencer fetches the line its code pointer names (R75). cached asks for the copy the easel's instruction cache
holds from an earlier fetch, where it holds one (R367); otherwise the line is read at its point of performance (R158). The
cache holds 256 KiB (R8). A line beyond the code image, a failed translation and a bad
line trap at the fetch point; a missing translation starts a walk and stalls. -/
def execLineFetch (g : Nat) (q : SeqId) (cached : Bool) (s : State) : Res :=
  let z := sqOf s g q
  if ¬canIssue s g q ∨ z.line.isSome then .next s
  else if z.ranOff then .next (takeTrap s g q 2 (fetchInfo 6 z.led))
  else
    let (base, len) := match (handOf s g).bound with
      | some b => (b.codeBase, b.codeLen)
      | none => (0, 0)
    let va := base + 64 * z.pc.line.toNat
    if z.pc.line < 0 ∨ (len : Int) ≤ z.pc.line then
      .next (xlTrap s g q ((((base : Int) + 64 * z.pc.line) % 2 ^ 52).toNat) false { cause := 5, reason := 5, level := 7 })
    else match xlateAll s g q true false [.code] [{ va := va, len := 64 }] with
    | .fault va f => .next (xlTrap s g q va false f)
    | .misses vas => .next (missWalks s g q vas)
    | .pages ps =>
      let pa := match ps with
        | p :: _ => physOf p va
        | [] => 0
      let e := easelNo g
      let kind := (ps.map (·.kind)).headD .rc
      let take := fun (ws : List IWord) (s : State) =>
        let s := modEasel s e (fun y => { y with icache := (tput y.icache va ws).take 4096 })
        match lineFault q (ws.getD 0 0) z.pc.slot with
        | some r => Host.Outcome.next (takeTrap (dropWalks s g q) g q 2 (fetchInfo r z.led))
        | none => .next (modSq s g q (fun x => { x with line := some ws, stall := 0, since := none, walks := [] }))
      match (if cached then (easelOf s e).icache.find? (fun x => x.1 == va) else none) with
      | some x => take x.2 s
      | none =>
        if ¬canReach s .unit (dieNo g) false kind .code pa 64 then .next (stalled (knock s pa) g q 15)
        else
          let (bs, s) := pointRead s (dieNo g) kind .code pa 64
          take (wordsOf bs) s

end Sys2Proof.Machine
end

