-- ==== Sys2Proof/Machine/Ordering.lean ====
section
/-! DEFINITION. The ordering machine (R155-R173): the conditions under which an
ordering buffer performs an entry, forwarding, acquires, releases and fences, and what performing an access does. -/

namespace Sys2Proof.Machine

/-! ### Scopes (R160) -/

/-- Whether a scope reaches the channel arbiters (R160). -/
def wide (sc : Scope) : Bool := sc == .package || sc == .system

/-! ### The synchronisation engine's lines (R263) -/

/-- Whether a sync line holds a barrier object with WAITERS ≠ 0: such a line is not evicted. -/
def linePinned (m : Memory) (line : Nat) : Bool :=
  (List.range 8).any (fun i =>
    bits (memNat m (128 * line + 16 * i) 8) 51 48 != 0)

/-- The lines that the engine of a die must move for an access to a sync page: the one that it fills, and the least recently used that
is not pinned, which it evicts where it is full. None while every line is pinned. -/
def syncMoves (s : State) (pa : Nat) : Option (List Nat × List Nat) :=
  let l := (dieOf s (homeDie pa)).sram
  if l.contains (pa / 128) then some ([], [])
  else if l.length < 16384 then some ([pa / 128], [])
  else (l.reverse.find? (fun x => !linePinned s.mem x)).map (fun v => ([pa / 128], [v]))

/-- A sync line brought into the engine's SRAM as the most recently used (R263); none while every line is pinned, or the channels of
the lines that move do not take them. Memory holds the line's bytes throughout, as no other unit reaches them (R127). -/
def syncTouch (s : State) (pa : Nat) : Option State :=
  match syncMoves s pa with
  | none => none
  | some (fill, evict) =>
    if ¬unitsOpen s ((fill ++ evict).map (fun l => 128 * l)) then none
    else
      let s := evict.foldl (fun s l => chanWrote s (128 * l)) (fill.foldl (fun s l => chanRead s (128 * l)) s)
      some (modDie s (homeDie pa) (fun x => { x with sram := pa / 128 :: x.sram.filter (fun l => l != pa / 128 && !evict.contains l) }))

/-- An access to a sync page that waits for its line. -/
def syncKnock (s : State) (pa : Nat) : State :=
  match syncMoves s pa with
  | none => s
  | some (fill, evict) => unitsKnock s ((fill ++ evict).map (fun l => 128 * l))

/-- An access that waits at its point of performance. -/
def waitAt (s : State) (tn : Turn) (ptype : PageType) (pa : Nat) : State :=
  if ptype = .sync then syncKnock s pa else knockAs s tn pa

/-! ### Glaze regions and who may touch them (R240, R249) -/

/-- Fields of a region descriptor (R241). -/
def rgTick (d : BitVec 512) : Nat := fld d 511 480
def rgSize (d : BitVec 512) : Nat := fld d 144 128
def rgValid (d : BitVec 512) : Bool := bit d 72
def rgXfer (d : BitVec 512) : Bool := bit d 71
def rgRtz (d : BitVec 512) : Bool := bit d 70
def rgPre (d : BitVec 512) : Nat := fld d 69 68
def rgPerTick (d : BitVec 512) : Bool := bit d 67
def rgFmt (d : BitVec 512) : Nat := fld d 66 65
def rgG32 (d : BitVec 512) : Bool := bit d 64
def rgBase (d : BitVec 512) : Nat := fld d 63 0

/-- The bytes of one word of a region (R242). -/
def rgWord (d : BitVec 512) : Nat := if rgG32 d then 32 else 16

/-- The valid region of a partition that covers a virtual address. -/
def regionAt (s : State) (part va : Nat) : Option (Nat × BitVec 512) :=
  ((partOf s part).regions.find? (fun e =>
    rgValid e.2.desc && decide (rgBase e.2.desc ≤ va) && decide (va < rgBase e.2.desc + 4096 * rgSize e.2.desc))).map
    (fun e => (e.1, e.2.desc))

/-- The region that covers a virtual address and to which its physical page is bound (R249, R259). -/
def regionOn (s : State) (part va pa : Nat) : Option (Nat × BitVec 512) :=
  match regionAt s part va with
  | none => none
  | some (r, d) =>
    if (regionOf (partOf s part) r).pages.any (fun p => decide (p.vbase ≤ va) && decide (va < p.vbase + 2 ^ p.size) && physOf p va == pa)
    then some (r, d) else none

/-- The reason of R249 for a tap read of w bytes at va, if it is not permitted. -/
def tapFault (s : State) (part va pa w : Nat) : Option Nat :=
  match regionOn s part va pa with
  | none => some 1
  | some (_, d) =>
    let o := (va - rgBase d) % rgWord d
    if w = 4 ∧ (o = 0 ∨ o = 4 ∨ o = 8 ∨ o = 12) then none
    else if w = 2 ∧ rgFmt d ≠ 0 ∧ (o = 0 ∨ o = 4 ∨ o = 8) then none
    else if rgG32 d ∧ w = 2 ∧ (o = 16 ∨ o = 18 ∨ o = 20 ∨ o = 22) then none
    else if rgG32 d ∧ w = 4 ∧ (o = 24 ∨ o = 28) then none
    else some 2

/-- The reason of R249 for a sample of w bytes at va, if it is not permitted. -/
def sampleFault (s : State) (part va pa w : Nat) : Option Nat :=
  match regionOn s part va pa with
  | none => some 1
  | some (_, d) => if (w = 4 ∨ w = 2) ∧ (va - rgBase d) % rgWord d = 0 then none else some 2

/-- The reason of R249 for GLDG or GRST at va: a word start. -/
def wordFault (s : State) (part va pa : Nat) : Option Nat :=
  match regionOn s part va pa with
  | none => some 1
  | some (_, d) => if (va - rgBase d) % rgWord d = 0 then none else some 2

/-- Whether a region's descriptor covers a virtual address. -/
def rgCovers (d : BitVec 512) (va : Nat) : Bool := decide (rgBase d ≤ va) && decide (va < rgBase d + 4096 * rgSize d)

/-- Whether a GCFG waits on a region: its X sequencer stands at it (R259). -/
def cfgWaits (s : State) (r : Region) : Bool :=
  match r.wait with
  | none => false
  | some (g, _) => (sqOf s g .x).stall == 15 && handLive s g

/-- Whether a new glaze access at va stalls at its issuing point because a GCFG waits on its range (R259 step 3). -/
def cfgStalls (s : State) (part va : Nat) : Bool :=
  (partOf s part).regions.any (fun e => cfgWaits s e.2 &&
    ((rgValid e.2.desc && rgCovers e.2.desc va) || (match e.2.wait with
      | some (_, d) => rgValid d && rgCovers d va
      | none => false)))

/-- Whether a glaze operation on region r stalls for the same reason. -/
def cfgStallsRegion (s : State) (part r : Nat) : Bool := cfgWaits s (regionOf (partOf s part) r)

/-- The TINFO word of the glaze-region trap (R249): the reason, its detail, and the address or region index. -/
def glazeInfo (reason detail where_ : Nat) : Word := BitVec.ofNat 64 (at' (where_ % 2 ^ 32) 32 + at' detail 8 + reason)

/-! ### Order between the entries of one buffer (R161, R165) -/

def isAcquire (op : ObOp) : Bool :=
  match op with
  | .load _ acq _ => acq.isSome
  | .amo _ _ ord _ _ _ => ord == .acquire || ord == .acqRel
  | .barrier o _ _ _ _ => o == 2
  | _ => false

/-- The scope of an acquire. -/
def acquireScope (op : ObOp) : Option Scope :=
  match op with
  | .load _ acq _ => acq
  | .amo _ _ ord _ _ _ => if ord = .acquire ∨ ord = .acqRel then some .system else none
  | .barrier o _ _ _ _ => if o = 2 then some .cluster else none
  | _ => none

/-- The scope of a release (R164, R267). -/
def releaseScope (op : ObOp) : Option Scope :=
  match op with
  | .store rel => rel
  | .amo _ _ ord _ _ _ => if ord = .release ∨ ord = .acqRel then some .system else none
  | .barrier o _ _ _ _ => if o = 0 ∨ o = 1 ∨ o = 4 then some .cluster else none
  | _ => none

/-- Whether an entry counts as a load, and as a store, for a fence (R165). Glaze codes: 0 GTICK, 1 GLDG, 2 GRST, 3 GEXP,
4 GIMP, 5 GSTAT; GSTAT reads no memory and counts as neither. -/
def countsLoad (op : ObOp) : Bool :=
  match op with
  | .load _ _ _ => true
  | .store _ => false
  | .amo _ _ _ _ _ _ => true
  | .barrier _ _ _ _ _ => true
  | .glaze o _ _ => o == 1
  | .fence _ _ _ _ _ _ _ => false

def countsStore (op : ObOp) : Bool :=
  match op with
  | .load _ _ _ => false
  | .store _ => true
  | .amo _ _ _ _ _ _ => true
  | .barrier _ _ _ _ _ => true
  | .glaze o _ _ => o != 1 && o != 5
  | .fence _ _ _ _ _ _ _ => false

def isFence (op : ObOp) : Bool :=
  match op with
  | .fence _ _ _ _ _ _ _ => true
  | _ => false

/-- Whether some part of an entry that is not yet performed takes part in a fence: without UO its parts on UO pages pass
(R165, R170). pass says that UO is clear. -/
def takesPart (pass : Bool) (e : ObEntry) : Bool :=
  e.pieces == [] || e.pieces.any (fun p => !p.done && !(pass && p.kind == .uo))

/-- Whether a fence orders a later entry behind an earlier one of the kinds given. -/
def fencePair (f : ObOp) (el es ll_ ls_ : Bool) : Bool :=
  match f with
  | .fence _ ll ls sl ss _ _ => (el && ll_ && ll) || (el && ls_ && ls) || (es && ll_ && sl) || (es && ls_ && ss)
  | _ => false

def fenceUo (f : ObOp) : Bool :=
  match f with
  | .fence _ _ _ _ _ _ uo => uo
  | _ => false

def fenceEng (f : ObOp) : Bool :=
  match f with
  | .fence _ _ _ _ _ eng _ => eng
  | _ => false

def fenceScope (f : ObOp) : Scope :=
  match f with
  | .fence sc _ _ _ _ _ _ => sc
  | _ => .hand

/-- Two pieces share a byte. -/
def overlap (a b : Piece) : Bool := decide (a.pa < b.pa + b.len) && decide (b.pa < a.pa + a.len)

/-- The region of a glaze entry that works on a whole region (GTICK, GEXP, GIMP). -/
def glazeRegionOf (e : ObEntry) : Option Nat :=
  match e.op with
  | .glaze o args _ => if o = 0 ∨ o = 3 ∨ o = 4 then some (fld (args.getD 0 0) 7 0) else none
  | _ => none

/-- A piece with the bytes that count for its order: a sample, and GRST, write every byte of their word (R248). -/
def orderedPiece (s : State) (part : Nat) (e : ObEntry) (p : Piece) : Piece :=
  if p.ptype = .glaze ∧ countsStore e.op then
    let w := ((regionAt s part p.va).map (fun r => rgWord r.2)).getD 16
    { p with pa := p.pa - p.pa % w, len := w }
  else p

/-- Whether an operation on a whole region reaches SO pages (R248). -/
def soRegion (s : State) (part : Nat) (e : ObEntry) : Bool :=
  match glazeRegionOf e with
  | some r => (regionOf (partOf s part) r).pages.any (fun p => p.kind == .so)
  | none => false

/-- Whether piece p of a later entry is ordered behind an unperformed earlier entry because both lie on SO pages (R161,
R248). -/
def soBehind (s : State) (part : Nat) (e l : ObEntry) (p : Piece) : Bool :=
  (soRegion s part e || e.pieces.any (fun x => !x.done && x.kind == .so)) && (p.kind == .so || soRegion s part l)

/-- Whether it is because both lie on SO or RC pages and they overlap (R161). -/
def overlapBehind (s : State) (part : Nat) (e l : ObEntry) (p : Piece) : Bool :=
  e.pieces.any (fun x => !x.done && x.kind != .uo && p.kind != .uo && overlap (orderedPiece s part e x) (orderedPiece s part l p))

/-- Whether it is for either reason. -/
def kindBehind (s : State) (part : Nat) (e l : ObEntry) (p : Piece) : Bool :=
  soBehind s part e l p || overlapBehind s part e l p

/-- Whether a page of a copy lies in a region. -/
def copyOnRegion (s : State) (r : Nat) (c : CopyCmd) : Bool :=
  let d := (regionOf (partOf s c.part) r).desc
  (c.pages ++ c.srcPages).any (fun p => p.ptype == .glaze && decide (p.vbase < rgBase d + 4096 * rgSize d) && decide (rgBase d < p.vbase + 2 ^ p.size))

/-- Whether a copy that the sequencer issued before an operation on a whole region may still reach that region (R254, R257). -/
def copiesBefore (s : State) (g : Nat) (q : SeqId) (e : ObEntry) : Bool :=
  match glazeRegionOf e with
  | some r => (easelOf s (easelNo g)).copyQ.any (fun c => c.hand == g && c.sq == q && decide (c.ticket < e.ticket) && (c.kind == .command || (decide (c.pos < c.total) && copyOnRegion s r c)))
  | none => false

/-- Whether a whole-region entry has still to take its place at the channel of an address: a tick that has been presented
there has taken it (R247). -/
def stillToCome (s : State) (e : ObEntry) (pa : Nat) : Bool :=
  match s.glazeJobs.find? (fun j => j.ticket == e.ticket) with
  | some j => j.op != 0 || j.chans.contains (chanNo pa)
  | none => true

/-- Whether an earlier and a later entry of a sequencer touch one region, one of them as a whole (R254, R257): a sample or
tap read on its pages, or another operation on it. -/
def regionClash (s : State) (part : Nat) (a b : ObEntry) : Bool :=
  match glazeRegionOf a, glazeRegionOf b with
  | some r, some r' => r == r'
  | some r, none => b.pieces.any (fun p => p.ptype == .glaze && !p.done && stillToCome s a p.pa && ((regionAt s part p.va).map (·.1)) == some r)
  | none, some r => a.pieces.any (fun p => p.ptype == .glaze && !p.done && ((regionAt s part p.va).map (·.1)) == some r)
  | none, none => false

/-- Tickets of the engine commands of a sequencer that have not completed (R155). -/
def cmdTickets (s : State) (g : Nat) (q : SeqId) : List Nat :=
  let e := easelOf s (easelNo g)
  let eng := fun (l : List EngCmd) => (l.filter (fun c => c.hand == g && c.sq == q)).map (·.ticket)
  (e.copyQ.filter (fun c => c.hand == g && c.sq == q)).map (·.ticket) ++
  eng e.frescoQ ++ eng e.collQ ++ eng e.glazeQ ++ eng e.syncQ ++
  (s.glazeJobs.filter (fun j => j.hand == g && j.sq == q && j.cookie.isSome)).map (·.ticket)

/-- Whether a command that has not started waits for the save of its leaf (R337). One that a FENCE with ENG behind it waits for does not:
the ordering buffer that holds the marker has to empty first (R336, log entry 40). -/
def stopsCmd (s : State) (g : Nat) (q : SeqId) (leaf : Option Bound) (ticket : Nat) : Bool :=
  stopsLeaf s g leaf && !((sqOf s g q).ob.any (fun f => isFence f.op && fenceEng f.op && decide (ticket < f.ticket)))

/-- Tickets of the buffer accesses of a sequencer that have not completed (R134). -/
def bufTickets (s : State) (g : Nat) (q : SeqId) : List Nat :=
  ((easelOf s (easelNo g)).rc.filter (fun r => r.hand == g && r.sq == q)).map (·.ticket)

/-- Whether a store performed in the die cache still has dirty bytes there (R160). -/
def dirtyLeft (s : State) (g : Nat) (x : Dirtied) : Bool := dirtyIn s (dieNo g) x.pa x.len != []

/-- Whether a fence still holds a later entry back: an entry of its earlier side is in the buffer, a store of it is not
performed at the fence's scope, or an engine command of it has not completed (R165). el and es say which kinds of
earlier entry matter, uoL whether the later entry lies on UO pages only. -/
def fenceHolds (s : State) (g : Nat) (q : SeqId) (before : List ObEntry) (f : ObEntry) (ll_ ls_ uoL : Bool) : Bool :=
  let earlier := before.filter (fun e => e.ticket < f.ticket)
  let pass := !fenceUo f.op
  !(pass && uoL) &&
    (earlier.any (fun e => !isFence e.op && takesPart pass e && fencePair f.op (countsLoad e.op) (countsStore e.op) ll_ ls_) ||
     (wide (fenceScope f.op) && fencePair f.op false true ll_ ls_ &&
       (sqOf s g q).dirtied.any (fun x => decide (x.ticket < f.ticket) && !(pass && x.uo) && dirtyLeft s g x)) ||
     (fenceEng f.op && fencePair f.op true true ll_ ls_ && (cmdTickets s g q).any (fun t => decide (t < f.ticket))))

/-- Whether a CCNT, an acquire at system scope (R293), that a sequencer issued before a ticket is not yet performed. -/
def ccntPending (s : State) (g : Nat) (q : SeqId) (ticket : Nat) : Bool :=
  (easelOf s (easelNo g)).collQ.any (fun c => c.hand == g && c.sq == q && decide (c.ticket < ticket) &&
    (match c.fn with
     | some f => f == 0x24
     | none => fld (c.words.getD 0 0) 7 0 == 0x24))

/-- Whether nothing keeps piece p of an entry from being performed now, `before` being the earlier entries of the buffer
(R161, R164, R165, R167), and behind which of them page kind and address order it. -/
def mayPerformBehind (s : State) (g : Nat) (q : SeqId) (before : List ObEntry) (e : ObEntry) (p : Piece) (behind : ObEntry → Bool) : Bool :=
  tagEmpty e.tag && !ccntPending s g q e.ticket &&
  !(before.any (fun x => !isFence x.op && isAcquire x.op)) &&
  !(before.any (fun x => !isFence x.op && behind x)) &&
  !(before.any (fun x => !isFence x.op && regionClash s (handPart s g) x e)) && !copiesBefore s g q e &&
  !(before.any (fun f => isFence f.op && fenceHolds s g q before f (countsLoad e.op) (countsStore e.op) (p.kind == .uo))) &&
  (match releaseScope e.op with
   | none => true
   | some sc =>
     !(before.any (fun x => !isFence x.op)) &&
     !((bufTickets s g q ++ cmdTickets s g q).any (fun t => decide (t < e.ticket))) &&
     !(wide sc && anyDirty s (dieNo g)))

/-- Whether nothing keeps piece p of an entry from being performed now. -/
def mayPerform (s : State) (g : Nat) (q : SeqId) (before : List ObEntry) (e : ObEntry) (p : Piece) : Bool :=
  mayPerformBehind s g q before e p (fun x => kindBehind s (handPart s g) x e p)

/-- A load by the issue point itself, at the end of its buffer (R136): whether its order lets it be performed now. -/
def readOrdered (s : State) (g : Nat) (q : SeqId) (pc : Piece) : Bool :=
  mayPerform s g q (sqOf s g q).ob
    { ticket := s.nextId, op := .load false none .none, tag := Tag.empty, va := pc.va, width := 0, pieces := [pc], data := [] } pc

/-- Whether it may be performed now. -/
def mayRead (s : State) (g : Nat) (q : SeqId) (pc : Piece) : Bool := 
  readOrdered s g q pc && canReach s .unit (dieNo g) false pc.kind pc.ptype pc.pa pc.len

/-- Whether several such loads may be performed in one step. -/
def mayReadAll (s : State) (g : Nat) (q : SeqId) (pcs : List Piece) : Bool :=
  pcs.all (mayRead s g q) && linesRoom s (dieNo g) (pcs.flatMap (fun p => linesVia (dieNo g) p.kind p.ptype p.pa p.len))

/-- The sequencer waits for such loads, those that are in order at their channels (R358). -/
def readWaits (s : State) (g : Nat) (q : SeqId) (pcs : List Piece) : State :=
  stalled ((pcs.filter (fun p => readOrdered s g q p && !mayRead s g q p)).foldl (fun s p => knock s p.pa) s) g q 7

/-! ### Performing -/

/-- An access cut into single-copy atomic pieces (R169, R170): whole where it is naturally aligned or lies on a glaze or
sync page, else one piece per aligned 8-byte block; off counts from the access's first byte. -/
def piecesOf (va len : Nat) (ts : List Touch) (ps : List Page) : List Piece :=
  (List.zip ts ps).flatMap (fun (t, p) =>
    let mk := fun (v n : Nat) => pieceAt p v n (v - va)
    if t.len = len ∧ (va % len = 0 ∨ p.ptype = .glaze ∨ p.ptype = .sync) then [mk t.va t.len]
    else
      let cut := 8 - t.va % 8
      if t.len ≤ cut then [mk t.va t.len] else [mk t.va cut, mk (t.va + cut) (t.len - cut)])

/-- The bytes of an access assembled from its performed pieces. -/
def assemble (e : ObEntry) : List Byte :=
  (List.range e.width).map (fun i =>
    match e.pieces.find? (fun p => decide (p.off ≤ i) && decide (i < p.off + p.len)) with
    | some p => p.data.getD (i - p.off) 0
    | none => 0)

/-- A load's result from its bytes (R143). -/
def loadValue (sgn : Bool) (bs : List Byte) : Word :=
  if sgn then BitVec.ofInt 64 (signed (8 * bs.length) (natOfBytes bs)) else BitVec.ofNat 64 (natOfBytes bs)

/-- The tag a load's destination carries from issue (R77). -/
def loadTag (q : Seqr) (ticket : Nat) : Tag :=
  match q.loads.find? (fun r => r.ticket == ticket) with
  | some r => match r.slot with
    | some i => { loc := BitVec.ofNat 16 (2 ^ i), sat := false, frn := 0 }
    | none => { loc := 0, sat := true, frn := 0 }
  | none => Tag.empty

/-- An acquire performed at a scope: at package or system scope the die's clean bytes are discarded (R163). -/
def acquired (s : State) (g : Nat) (sc : Option Scope) : State :=
  match sc with
  | some sc => if wide sc then discardClean s (dieNo g) else s
  | none => s

/-- A load of the leaf on a hand performed. -/
def loadOver (s : State) (g : Nat) (q : SeqId) (ticket : Nat) : State := loadDone s g (handOf s g).bound q ticket

/-- The parts of an entry that the store with this ticket has satisfied, performed with it (R157). -/
def partsDone (ticket : Nat) (e : ObEntry) : ObEntry :=
  { e with pieces := e.pieces.map (fun p => if p.fwd = some ticket then { p with done := true } else p) }

/-- Whether every part of an entry is performed, and whether every part is satisfied (R157, R170). -/
def allDone (e : ObEntry) : Bool := e.pieces.all (·.done)
def satisfied (e : ObEntry) : Bool := e.pieces.all (fun p => p.done || p.fwd.isSome)

/-- An entry leaves its buffer performed; what it has satisfied by forwarding is performed with it (R157, R162). -/
def entryDone (s : State) (g : Nat) (q : SeqId) (ticket : Nat) : State :=
  let fed := fun (e : ObEntry) => e.pieces.any (fun p => p.fwd == some ticket && !p.done)
  let gone := (sqOf s g q).ob.filter (fun e => fed e && allDone (partsDone ticket e))
  let s := modSq s g q (fun x => { x with ob := (x.ob.filter (fun e => e.ticket != ticket && !gone.any (fun y => y.ticket == e.ticket))).map (partsDone ticket) })
  gone.foldl (fun s e => acquired (loadOver s g q e.ticket) g (acquireScope e.op)) s

/-- An entry of a buffer replaced. -/
def setEntry (s : State) (g : Nat) (q : SeqId) (e : ObEntry) : State :=
  modSq s g q (fun x => { x with ob := x.ob.map (fun y => if y.ticket = e.ticket then e else y) })

/-- Piece i of an entry marked performed with the bytes it bound. -/
def pieceDone (e : ObEntry) (i : Nat) (bs : List Byte) : ObEntry :=
  { e with pieces := lmod e.pieces i (fun p => { p with done := true, data := bs }) }

/-- A load with one more of its parts satisfied or performed: once the last is satisfied its value arrives; once the last is performed
its slot clears, and an acquire takes effect (R157, R77, R170). -/
def loadAdvanced (s : State) (g : Nat) (q : SeqId) (e : ObEntry) (sgn : Bool) (acq : Option Scope) (dst : DstRef) : State :=
  let s := setEntry s g q e
  let s := if satisfied e then arrive s g q e.ticket dst (loadValue sgn (assemble e)) (loadTag (sqOf s g q) e.ticket) else s
  if allDone e then acquired (entryDone (loadOver s g q e.ticket) g q e.ticket) g acq else s

/-- The pieces of an access that are one part of it with the piece p: those on its 4 KiB page (R170). -/
def partOfPiece (e : ObEntry) (p : Piece) : List Piece := e.pieces.filter (fun x => x.va / 4096 == p.va / 4096)

/-- The stores that a part of a load could be satisfied from: earlier, not yet performed, sharing a byte with it; the youngest
last. -/
def fwdSources (before : List ObEntry) (ps : List Piece) : List ObEntry :=
  before.filter (fun x => (match x.op with
    | .store _ => true
    | _ => false) && x.pieces.any (fun p => ps.any (overlap p)))

/-- Whether every byte of a piece lies in a store's pieces on SO or RC pages of normal or code type, none of them performed
(R162). -/
def coveredBy (st : ObEntry) (p : Piece) : Bool :=
  let plain := fun (x : Piece) => x.kind != .uo && (x.ptype == .normal || x.ptype == .code)
  plain p && (List.range p.len).all (fun i => st.pieces.any (fun x =>
    plain x && !x.done && decide (x.pa ≤ p.pa + i) && decide (p.pa + i < x.pa + x.len)))

/-- The byte that a store writes at a physical address. -/
def storedAt (st : ObEntry) (a : Nat) : Byte :=
  match st.pieces.find? (fun x => decide (x.pa ≤ a) && decide (a < x.pa + x.len)) with
  | some x => st.data.getD (x.off + (a - x.pa)) 0
  | none => 0

/-- Forwarding (R162): the youngest earlier store that shares a byte with a part of a load, if it covers every byte of it. -/
def fwdStore (before : List ObEntry) (ps : List Piece) : Option ObEntry :=
  match (fwdSources before ps).getLast? with
  | none => none
  | some st => if ps.all (fun p => !p.done && p.fwd.isNone && coveredBy st p) then some st else none

/-- The part of a load that holds the piece p satisfied from a store: it stays until that store is performed (R157). -/
def forwarded (e : ObEntry) (st : ObEntry) (p : Piece) : ObEntry :=
  { e with pieces := e.pieces.map (fun x => if x.va / 4096 = p.va / 4096 then
      { x with fwd := some st.ticket, data := (List.range x.len).map (fun i => storedAt st (x.pa + i)) } else x) }

/-- FENCE_TOKEN_RELEASE (R165): the oldest fence of a sequencer among those whose earlier side is performed at their scope
releases its held signals and leaves the buffer. -/
def execFenceTokenRelease (g : Nat) (q : SeqId) (s : State) : Res :=
  match (sqOf s g q).ob.find? (fun f => isFence f.op && !fenceHolds s g q (sqOf s g q).ob f true true false &&
      !(fenceEng f.op && (cmdTickets s g q).any (fun t => decide (t < f.ticket)))) with
  | none => .next s
  | some f =>
    .next (modSq s g q (fun x => fenceReleased { x with ob := x.ob.filter (fun e => e.ticket != f.ticket) } f.ticket))

end Sys2Proof.Machine
end

