-- ==== Sys2Proof/Machine/Buffers.lean ====
section
/-! DEFINITION. The typed buffers (R132, R133), the range checker (R134, R135) and the scalar buffer accesses (R147). -/

namespace Sys2Proof.Machine

def bufNo : Buf → Nat
  | .ab => 0
  | .wb => 1
  | .cb => 2

def bufOfNo : Nat → Buf
  | 0 => .ab
  | 1 => .wb
  | _ => .cb

def bufMem (e : Easel) (u : Buf) : Memory :=
  match u with
  | .ab => e.ab
  | .wb => e.wb
  | .cb => e.cb

def setBufMem (e : Easel) (u : Buf) (m : Memory) : Easel :=
  match u with
  | .ab => { e with ab := m }
  | .wb => { e with wb := m }
  | .cb => { e with cb := m }

/-- Bytes of a buffer at an absolute address. -/
def bufRead (e : Easel) (u : Buf) (a len : Nat) : List Byte := memRead (bufMem e u) a len

def bufWrite (e : Easel) (u : Buf) (a : Nat) (bs : List Byte) : Easel := setBufMem e u (memWrite (bufMem e u) a bs)

/-- Base and size in bytes of a hand's window of a buffer (R132); a hand with no leaf has none. -/
def windowOf (h : Hand) (u : Buf) : Nat × Nat :=
  match h.bound with
  | none => (0, 0)
  | some b => match b.windows[bufNo u]? with
    | some w => (65536 * w.1, 65536 * w.2)
    | none => (0, 0)

/-- The lowest relative address of a range lo ≤ x < hi outside the hand's window. -/
def windowFault (h : Hand) (u : Buf) (lo hi : Nat) : Option Nat :=
  let size := (windowOf h u).2
  if hi ≤ size ∨ hi ≤ lo then none else some (max lo size)

/-- The TINFO word of the buffer-bounds trap (R132). -/
def boundsInfo (u : Buf) (x : Nat) : Word := BitVec.ofNat 64 (at' (x % 2 ^ 32) 32 + bufNo u)

def boundsTrap (s : State) (g : Nat) (q : SeqId) (u : Buf) (x : Nat) : State := takeTrap s g q 4 (boundsInfo u x)

/-- The protection trap with reason 6, which names no page (R128, R133). -/
def engineListTrap (s : State) (g : Nat) (q : SeqId) (wr : Bool) : State :=
  takeTrap s g q 6 (BitVec.ofNat 64 (at' wr.toNat 11 + at' 7 8 + 6))

/-- A byte range rounded outward to 32-byte boundaries (R134), at absolute addresses. -/
def rangeOf (h : Hand) (u : Buf) (lo hi : Nat) (wr : Bool) : BufRange :=
  let b := (windowOf h u).1
  { buf := u, lo := (b + lo) / 32 * 32, hi := (b + hi + 31) / 32 * 32, wr := wr }

/-- Whether two ranges are ordered (R135): they overlap in one buffer and one of them writes. -/
def rangesMeet (a b : BufRange) : Bool :=
  a.buf == b.buf && decide (a.lo < b.hi) && decide (b.lo < a.hi) && (a.wr || b.wr)

/-- Whether earlier entries of the checker hold a set of ranges back. -/
def rcBlocked (before : List RcEntry) (rs : List BufRange) : Bool :=
  before.any (fun f => f.ranges.any (fun a => rs.any (rangesMeet a)))

/-- The entries accepted before the one with this ticket. -/
def rcBefore (l : List RcEntry) (ticket : Nat) : List RcEntry := l.takeWhile (fun r => r.ticket != ticket)

/-- Whether the checker has a free entry. -/
def rcRoom (s : State) (g : Nat) : Bool := decide ((easelOf s (easelNo g)).rc.length < 128)

/-- An entry accepted. -/
def rcEnter (s : State) (g : Nat) (r : RcEntry) : State := modEasel s (easelNo g) (fun e => { e with rc := e.rc ++ [r] })

/-- An entry that has left. -/
def rcLeave (s : State) (e ticket : Nat) : State := modEasel s e (fun x => { x with rc := x.rc.filter (fun r => r.ticket != ticket) })

/-- Whether an acquire that the sequencer issued before this ticket is unperformed (R163, R166). -/
def acquirePending (s : State) (g : Nat) (q : SeqId) (ticket : Nat) : Bool :=
  (sqOf s g q).ob.any (fun e => decide (e.ticket < ticket) && isAcquire e.op) || ccntPending s g q ticket

/-- What a read by the issue point itself waits for: 12 a free entry, 13 the order of the checker or an acquire. -/
def inlineWait (s : State) (g : Nat) (q : SeqId) (ticket : Nat) (rs : List BufRange) : Option Nat :=
  if ¬rcRoom s g then some 12
  else if rcBlocked (easelOf s (easelNo g)).rc rs ∨ acquirePending s g q ticket then some 13
  else none

/-- The number of a buffer's vector port (R133). -/
def vectorPort (u : Buf) : Nat := 3 * bufNo u + 1

/-- The buffer of an entry that the vector port carries. -/
def portOf (r : RcEntry) : Option Nat :=
  match r.what, r.ranges with
  | .cmd, _ => none
  | _, [] => none
  | _, a :: _ => some (vectorPort a.buf)

/-- Whether an entry of the vector port could be performed but for the port: its tags are empty where it writes, nothing
earlier is in its way. -/
def rcReady (s : State) (e : Nat) (r : RcEntry) : Bool :=
  let l := (easelOf s e).rc
  (match r.what with
   | .ldb _ _ _ => true
   | .stb _ _ => tagEmpty r.tag
   | .vst _ => tagEmpty r.tag
   | .cmd => false) &&
  !rcBlocked (rcBefore l r.ticket) r.ranges && !acquirePending s r.hand r.sq r.ticket

/-- Whether a hand's C sequencer waits for a vector port with a read that nothing else holds back (VLD, VLDR, PALBASE). -/
def portAsked (s : State) (e h4 port : Nat) : Bool :=
  let g := 4 * e + h4
  match (handOf s g).portAsk with
  | none => false
  | some (p, rs) => p == port && canIssue s g .c && !rcBlocked (easelOf s e).rc rs && !acquirePending s g .c s.nextId

/-- The first of the four hands after the one that the port granted last (hand 3 after reset) that waits for it (R133). -/
def nextHand (s : State) (e port : Nat) (waiting : Nat → Bool) : Option Nat :=
  let last := tget 3 (easelOf s e).portLast port
  ((List.range 4).map (fun i => (last + 1 + i) % 4)).find? waiting

/-- Whether a hand waits for a vector port. -/
def portWaiting (s : State) (e port h4 : Nat) : Bool :=
  (easelOf s e).rc.any (fun r => r.hand % 4 == h4 && portOf r == some port && rcReady s e r) || portAsked s e h4 port

/-- The hand that a vector port grants next. -/
def portTurn (s : State) (e port : Nat) : Option Nat := nextHand s e port (portWaiting s e port)

/-- Whether it grants hand g a read of C now. -/
def portGrants (s : State) (g port : Nat) : Bool :=
  let e := easelNo g
  nextHand s e port (fun h4 => h4 == g % 4 || portWaiting s e port h4) == some (g % 4)

/-- What a read of C through a vector port waits for, as the state it leaves: a free entry, the order of the checker or an
acquire, or the port, for which it then asks. -/
def portWait (s : State) (g : Nat) (q : SeqId) (ticket port : Nat) (rs : List BufRange) : Option State :=
  match inlineWait s g q ticket rs with
  | some w => some (stalled s g q w)
  | none =>
    if portGrants s g port then none
    else some (modHand (stalled s g q 13) g (fun h => { h with portAsk := some (port, rs) }))

/-! ### Banks and their conflicts (R16, R354) -/

/-- The column of the conflict matrix for the bank of a buffer address: AB banks first, then WB banks, then CB banks. -/
def bankColumn (u : Buf) (a : Nat) : Nat :=
  match u with
  | .ab => a / 2 ^ 8 % 32
  | .wb => 32 + a / 2 ^ 8 % 32
  | .cb => 64 + a / 2 ^ 10 % 16

/-- The columns of the banks that a range lies in. -/
def rangeColumns (r : BufRange) : List Nat :=
  let unit := if r.buf = .cb then 1024 else 256
  let n := (r.hi - 1) / unit + 1 - r.lo / unit
  if r.hi ≤ r.lo then [] else (List.range (min n 32)).map (fun i => bankColumn r.buf (r.lo / unit * unit + unit * i))

/-- A conflict counted for a requester at a bank: the count saturates. -/
def conflictOne (x : Easel) (row col : Nat) : Easel :=
  { x with conflict := tmod 0 x.conflict (80 * row + col) (fun v => if v = BitVec.allOnes 32 then v else v + 1) }

/-- A requester that is ready waits while another port holds banks: each bank that both want counts once. -/
def conflictRow (x : Easel) (held : List Nat) (row : Nat) (wants : List BufRange) : Easel :=
  ((wants.flatMap rangeColumns).eraseDups.filter (fun c => held.contains c)).foldl (fun x c => conflictOne x row c) x

/-- The copy port of a buffer, and the mural's (R133). -/
def copyPort (u : Buf) : Nat := 3 * bufNo u
def muralPort (u : Buf) : Nat := 3 * bufNo u + 2

/-- Whether a copy moves data through a buffer. -/
def usesBuffer (c : CopyCmd) : Bool := copyIn? c.kind || copyOut? c.kind

/-- The window base of the buffer that a command names: its leaf's, which may have left the hand (R337). -/
def copyWindow (c : CopyCmd) : Nat := (windowOf { Hand.reset with bound := c.leaf } c.buf).1

/-- The buffer bytes of a copy's next access. -/
def copyRanges (c : CopyCmd) : List BufRange :=
  ((accessRuns c).filter (fun r => r.inside || copyIn? c.kind)).map (fun r =>
    let h := 2 * copyWindow c + r.buf
    { buf := c.buf, lo := h / 2, hi := h / 2 + byteSpan h r.n, wr := copyIn? c.kind })

/-- The requesters that are ready and want banks of a buffer (R354): row, port and ranges. The copy engine is at its first started
copy; the vector ports have what nothing else holds back, and a read that waits for its port; the mural reads for its running
command. -/
def bankRequests (s : State) (e : Nat) : List (Nat × Nat × List BufRange) :=
  let x := easelOf s e
  let copy := ((x.copyQ.filter (fun c => usesBuffer c && c.started && decide (c.pos < c.total) &&
      !rcBlocked (rcBefore x.rc c.ticket) (copyRanges c))).take 1).map (fun c => (0, copyPort c.buf, copyRanges c))
  let vector := [0, 1, 2, 3].flatMap (fun h4 =>
    ((x.rc.filter (fun r => r.hand % 4 == h4 && rcReady s e r)).filterMap (fun r => (portOf r).map (fun p => (h4 + 1, p, r.ranges)))) ++
    (match (handOf s (4 * e + h4)).portAsk with
     | some (p, rs) => if portAsked s e h4 p then [(h4 + 1, p, rs)] else []
     | none => []))
  let mural := match x.mural.running with
    | none => []
    | some c => match x.rc.find? (fun r => r.ticket == c.ticket) with
      | none => []
      | some r => r.ranges.map (fun a => (5, muralPort a.buf, [a]))
  copy ++ vector ++ mural

/-- An access to ranges through a port: every bank that it holds and that a ready requester of another port wants costs that
requester a cycle. -/
def bankConflicts (s : State) (e port : Nat) (rs : List BufRange) : State :=
  let held := rs.flatMap rangeColumns
  let rows := (bankRequests s e).filter (fun r => r.2.1 != port && r.2.2.any (fun a => (rangeColumns a).any held.contains))
  if rows = [] then s else modEasel s e (fun x => rows.foldl (fun x r => conflictRow x held r.1 r.2.2) x)

/-- A port's grant for an access to ranges of its buffer: kept, with the conflicts of its banks. -/
def portTaken (s : State) (g port : Nat) (rs : List BufRange) : State :=
  modEasel (bankConflicts s (easelNo g) port rs) (easelNo g) (fun x => { x with portLast := tput x.portLast port (g % 4) })

/-- BUFFER_ACCESS_PERFORM (R135): the entry at a position performs its access once nothing holds it back and the port
grants its hand. -/
def execBufferAccessPerform (e ix : Nat) (s : State) : Res :=
  match (easelOf s e).rc[ix]? with
  | none => .next s
  | some r =>
    match portOf r with
    | none => .next s
    | some p =>
      if ¬rcReady s e r ∨ portTurn s e p ≠ some (r.hand % 4) then .next s
      else
        let s := portTaken (rcLeave s e r.ticket) r.hand p r.ranges
        match r.what with
        | .ldb a w d =>
          let u := (r.ranges.map (·.buf)).headD .ab
          .next (arrive s r.hand r.sq r.ticket d (BitVec.ofNat 64 (natOfBytes (bufRead (easelOf s e) u a w))) Tag.empty)
        | .stb a bs =>
          let u := (r.ranges.map (·.buf)).headD .ab
          .next (modEasel s e (fun x => bufWrite x u a bs))
        | .vst cells =>
          let u := (r.ranges.map (·.buf)).headD .ab
          .next (modEasel s e (fun x => cells.foldl (fun x c => bufWrite x u c.1 (bytesOfNat 4 c.2.toNat)) x))
        | .cmd => .next s

/-! ### LDB and STB (R147) -/

def widthBytes : Width → Nat
  | .b => 1
  | .h => 2
  | .w => 4
  | .d => 8

/-- A base plus an offset counted in units of a width. -/
def scaled (a : Word) (o : Int) (z : Width) : Word := a + BitVec.ofInt 64 (o * widthBytes z)

/-- The buffer-bounds check of a scalar access (R132, R147): the address that its TINFO names. -/
def scalarBounds (h : Hand) (u : Buf) (x w : Nat) : Option Nat :=
  if 2 ^ 32 ≤ x ∨ x % w ≠ 0 then some x else windowFault h u x (x + w)

/-- LDB (R147). -/
def execLdb (k : Tok) (d : Dst) (a : Src) (z : Width) (u : Buf) (o : BitVec 5) (s : State) : Res :=
  issue s k { reqRR (some d) [a] with allowed := xls } fun t vals id =>
    let g := s.focus
    let q := s.focusSq
    let w := widthBytes z
    let x := (scaled (valOf vals 0).1 o.toInt z).toNat
    match scalarBounds (handOf s g) u x w with
    | some y => .next (boundsTrap s g q u y)
    | none =>
      if ¬rcRoom s g then .next (stalled s g q 12)
      else
        let t := awaitDst t g q id (dstRef d) Tag.empty
        let t := rcEnter t g
          { ticket := id, hand := g, sq := q, tag := Tag.empty, ranges := [rangeOf (handOf s g) u x (x + w) false],
            what := .ldb ((windowOf (handOf s g) u).1 + x) w (dstRef d) }
        .next (finish t g q k (fun y => advance y 1))

/-- STB (R147): held until the tags of A and B are empty; WB admits no scalar write (R133). -/
def execStb (k : Tok) (u : Buf) (o : BitVec 4) (a b : Src) (z : Width) (s : State) : Res :=
  issue s k { reqRR none [a, b] with allowed := xls } fun t vals id =>
    let g := s.focus
    let q := s.focusSq
    let w := widthBytes z
    let x := (scaled (valOf vals 0).1 o.toInt z).toNat
    match scalarBounds (handOf s g) u x w with
    | some y => .next (boundsTrap s g q u y)
    | none =>
      if u = .wb then .next (engineListTrap s g q true)
      else if ¬rcRoom s g then .next (stalled s g q 12)
      else
        let t := rcEnter t g
          { ticket := id, hand := g, sq := q, tag := tagJoin (valOf vals 0).2 (valOf vals 1).2,
            ranges := [rangeOf (handOf s g) u x (x + w) true],
            what := .stb ((windowOf (handOf s g) u).1 + x) (bytesOfNat w (valOf vals 1).1.toNat) }
        .next (finish t g q k (fun y => advance y 1))

end Sys2Proof.Machine
end

