-- ==== Sys2Proof/Machine/Float.lean ====
section
/-! DEFINITION. Number formats and exact arithmetic (R174-R184): what a pattern means, rounding to a grid, Convert, and
the binary32 operations of the vector lanes with the FSTAT bits they set. -/

namespace Sys2Proof.Machine

/-! ### Formats -/

/-- A format that a code names (R174-R178). -/
inductive Fmt where
  | flt (sgn : Bool) (ew mw spec : Nat) (bias : Int)
  | int (sgn : Bool) (mw : Nat) (bias : Int)
  | e8m0
  | sct16
  deriving DecidableEq, Repr

def fp32 : Fmt := .flt true 8 23 2 127
def bf16 : Fmt := .flt true 8 7 2 127
def fp16 : Fmt := .flt true 5 10 2 15
def int32 : Fmt := .int true 31 0

/-- The format that a 24-bit code names, or none (R175). -/
def fmtOf (c : BitVec 24) : Option Fmt :=
  let bias := signed 8 (fld c 23 16)
  let spec := fld c 13 12
  let ew := fld c 10 8
  let mw := fld c 6 4
  let sel := fld c 3 1
  let sgn := bit c 0
  if bit c 14 ∨ bit c 11 ∨ bit c 7 then none
  else if bit c 15 then
    if fld c 23 16 ≠ 0 ∨ fld c 13 4 ≠ 0 ∨ sgn then none
    else match sel with
      | 0 => some fp32
      | 1 => some bf16
      | 2 => some fp16
      | 3 => some int32
      | 4 => some .e8m0
      | 5 => some .sct16
      | _ => none
  else if sel ≠ 0 ∨ sgn.toNat + ew + mw < 1 ∨ 8 < sgn.toNat + ew + mw then none
  else if ew = 0 then (if spec = 0 then some (.int sgn mw bias) else none)
  else if spec = 3 ∨ (spec = 1 ∧ ew < 2) ∨ (spec = 2 ∧ (ew < 2 ∨ mw < 1)) then none
  else some (.flt sgn ew mw spec bias)

/-- Whether a code is a narrow one (WIDE = 0). -/
def narrowCode (c : BitVec 24) : Bool := !bit c 15

/-- The width of a pattern. -/
def Fmt.width : Fmt → Nat
  | .flt sgn ew mw _ _ => sgn.toNat + ew + mw
  | .int sgn mw _ => sgn.toNat + mw
  | .e8m0 => 8
  | .sct16 => 16

/-- The container's width (R137). -/
def Fmt.cbits (f : Fmt) : Nat := if f.width ≤ 4 then 4 else if f.width ≤ 8 then 8 else if f.width ≤ 16 then 16 else 32

/-- The presets by index (R179, R186). -/
def preset : Nat → Option Fmt
  | 0 => some (.flt true 4 3 1 7)
  | 1 => some (.flt true 5 2 2 15)
  | 2 => some (.flt true 3 2 0 3)
  | 3 => some (.flt true 2 3 0 1)
  | 4 => some (.flt true 2 1 0 1)
  | 5 => some (.int true 7 0)
  | 6 => some (.int true 3 0)
  | _ => none

/-! ### Values -/

/-- A value: a NaN, an infinity, or (-1)^neg · m · 2^e with a signed zero for m = 0. -/
inductive FVal where
  | nan
  | inf (neg : Bool)
  | fin (neg : Bool) (m : Nat) (e : Int)
  deriving DecidableEq, Repr

/-- The value of a pattern (R176-R178). -/
def Fmt.value (f : Fmt) (x : Nat) : FVal :=
  match f with
  | .flt sgn ew mw spec bias =>
    let m := x % 2 ^ mw
    let e := x / 2 ^ mw % 2 ^ ew
    let neg := sgn && x / 2 ^ (mw + ew) % 2 == 1
    let top := e == 2 ^ ew - 1
    if spec = 2 ∧ top then (if m = 0 then .inf neg else .nan)
    else if spec = 1 ∧ top ∧ m = 2 ^ mw - 1 then .nan
    else if e = 0 then .fin neg m (1 - bias - mw)
    else .fin neg (2 ^ mw + m) ((e : Int) - bias - mw)
  | .int sgn mw bias =>
    let v := if sgn then signed (mw + 1) x else ((x % 2 ^ mw : Nat) : Int)
    .fin (decide (v < 0)) v.natAbs (-bias)
  | .e8m0 => if x % 256 = 255 then .nan else .fin false 1 ((x % 256 : Nat) - 127)
  | .sct16 => .fin false 0 0

/-- The canonical NaN of a format that has one (R180). -/
def Fmt.nan (f : Fmt) : Option Nat :=
  match f with
  | .flt _ ew mw 1 _ => some (2 ^ (ew + mw) - 1)
  | .flt _ ew mw 2 _ => some ((2 ^ ew - 1) * 2 ^ mw + 2 ^ (mw - 1))
  | .flt _ _ _ _ _ => none
  | .int _ _ _ => none
  | .e8m0 => some 255
  | .sct16 => none

/-- The pattern of an infinity of a format that has them. -/
def Fmt.inf (f : Fmt) (neg : Bool) : Option Nat :=
  match f with
  | .flt sgn ew mw 2 _ => some ((if sgn && neg then 2 ^ (ew + mw) else 0) + (2 ^ ew - 1) * 2 ^ mw)
  | _ => none

/-- The pattern of the largest finite magnitude of a float format (R176). -/
def maxMag (ew mw spec : Nat) : Nat :=
  if spec = 0 then 2 ^ (ew + mw) - 1
  else if spec = 1 ∧ mw ≠ 0 then 2 ^ (ew + mw) - 2
  else (2 ^ ew - 1) * 2 ^ mw - 1

/-- Comparison of the magnitudes m · 2^e: less, equal, greater. -/
def cmpMag (m : Nat) (e : Int) (m' : Nat) (e' : Int) : Ordering :=
  let q := min e e'
  compare (m * 2 ^ (e - q).toNat) (m' * 2 ^ (e' - q).toNat)

/-! ### Rounding -/

/-- Rounding modes (R181). -/
inductive Rm where
  | rne | rtz | rdn | rup | rna
  deriving DecidableEq, Repr

def rmOf (x : BitVec 3) : Rm :=
  match x.toNat with
  | 0 => .rne
  | 1 => .rtz
  | 2 => .rdn
  | 3 => .rup
  | 4 => .rna
  | _ => .rne

/-- Whether a magnitude of n units and a remainder rounds up: rest compares the remainder with half a unit, inexact says
that it is not zero. -/
def roundsUp (rm : Rm) (neg odd inexact : Bool) (rest : Ordering) : Bool :=
  match rm with
  | .rne => rest == .gt || (rest == .eq && odd)
  | .rtz => false
  | .rdn => inexact && neg
  | .rup => inexact && !neg
  | .rna => rest == .gt || rest == .eq

/-- The magnitude m · 2^e, and a little more where sticky, rounded to the grid of p significant bits (or none) and no
finer than 2^qmin: a count of units and the unit's exponent (R183, RoundToGrid). -/
def roundMag (rm : Rm) (neg : Bool) (p : Option Nat) (qmin : Int) (m : Nat) (e : Int) (sticky : Bool) : Nat × Int :=
  let q := match p with
    | some p => if m = 0 then qmin else max qmin ((Nat.log2 m : Int) + e - ((p : Int) - 1))
    | none => qmin
  if q ≤ e then (m * 2 ^ (e - q).toNat, q)
  else
    let sh := (q - e).toNat
    let n := m / 2 ^ sh
    let r := m % 2 ^ sh
    let h := 2 ^ (sh - 1)
    let rest := if r = h ∧ sticky then Ordering.gt else compare r h
    (n + (roundsUp rm neg (n % 2 == 1) (r != 0 || sticky) rest).toNat, q)

/-- The pattern of a float magnitude of n units of 2^q, which the grid holds and the range admits. -/
def packMag (mw : Nat) (bias : Int) (n : Nat) (q : Int) : Nat :=
  if n = 0 then 0
  else
    let (n, q) := if n = 2 ^ (mw + 1) then (2 ^ mw, q + 1) else (n, q)
    if n < 2 ^ mw then n else (q + mw + bias).toNat * 2 ^ mw + (n - 2 ^ mw)

/-- Whether an overflowing result becomes infinite (R183, IeeeOverflow). -/
def overflowsToInf (rm : Rm) (neg : Bool) : Bool :=
  match rm with
  | .rne => true
  | .rna => true
  | .rtz => false
  | .rdn => neg
  | .rup => !neg

/-- FSTAT bits (R182). -/
def statInv : BitVec 3 := 1
def statOvf : BitVec 3 := 2
def statNan : BitVec 3 := 4

/-- A float pattern from sign and magnitude. -/
def signPut (sgn : Bool) (ew mw : Nat) (neg : Bool) (mag : Nat) : Nat := (if sgn && neg then 2 ^ (ew + mw) else 0) + mag

/-- Convert (R183): the pattern of F and the FSTAT bits. E8M0 and SCT16 are no destinations of it. -/
def convert (x : FVal) (f : Fmt) (rm : Rm) (sat : Bool) : Nat × BitVec 3 :=
  match f with
  | .flt sgn ew mw spec bias =>
    let big := maxMag ew mw spec
    match x with
    | .nan => match f.nan with
      | some p => (p, statNan)
      | none => (0, statInv)
    | .inf neg =>
      if neg ∧ ¬sgn then (0, statOvf)
      else if ¬sat ∧ spec = 2 then (signPut sgn ew mw neg ((2 ^ ew - 1) * 2 ^ mw), 0)
      else if ¬sat ∧ spec = 1 then (f.nan.getD 0, statOvf ||| statNan)
      else (signPut sgn ew mw neg big, statOvf)
    | .fin neg m e =>
      let (n, q) := roundMag rm neg (some (mw + 1)) (1 - bias - mw) m e false
      let tooBig : Bool := match f.value big with
        | .fin _ bm be => cmpMag n q bm be == .gt
        | _ => false
      if neg ∧ ¬sgn then (0, if n = 0 then 0 else statOvf)
      else if tooBig then
        if ¬sgn ∨ sat ∨ spec = 0 then (signPut sgn ew mw neg big, statOvf)
        else if spec = 1 then (f.nan.getD 0, statOvf ||| statNan)
        else (signPut sgn ew mw neg (if overflowsToInf rm neg then (2 ^ ew - 1) * 2 ^ mw else big), statOvf)
      else (signPut sgn ew mw neg (packMag mw bias n q), 0)
  | .int sgn mw bias =>
    let lo : Int := if sgn then -(2 ^ mw : Int) else 0
    let hi : Int := 2 ^ mw - 1
    let put := fun (v : Int) => (v % 2 ^ (mw + sgn.toNat)).toNat
    match x with
    | .nan => (0, statInv)
    | .inf neg => (put (if neg then lo else hi), statInv)
    | .fin neg m e =>
      let (n, q) := roundMag rm neg none (-bias) m e false
      let n := n * 2 ^ (q + bias).toNat
      let v : Int := if neg then -(n : Int) else n
      if v < lo then (put lo, statOvf) else if hi < v then (put hi, statOvf) else (put v, 0)
  | .e8m0 => (0, 0)
  | .sct16 => (0, 0)

/-! ### Binary32 arithmetic (R184) -/

/-- A 32-bit pattern and the FSTAT bits it sets. -/
abbrev FRes := BitVec 32 × BitVec 3

def canonNan : BitVec 32 := 0x7FC00000

/-- The value of an FP32 pattern. -/
def fval (x : BitVec 32) : FVal := fp32.value x.toNat

def infPat (neg : Bool) : BitVec 32 := if neg then 0xFF800000 else 0x7F800000
def zeroPat (neg : Bool) : BitVec 32 := if neg then 0x80000000 else 0

/-- A NaN result: NANP, with INV where the operation was invalid. -/
def nanRes (invalid : Bool) : FRes := (canonNan, if invalid then statNan ||| statInv else statNan)

/-- The finite result of an operation, m · 2^e and a little more where sticky, rounded once; SATOVF is ignored. -/
def round32 (rm : Rm) (neg : Bool) (m : Nat) (e : Int) (sticky : Bool) : FRes :=
  let (n, q) := roundMag rm neg (some 24) (-149) m e sticky
  if cmpMag n q (2 ^ 24 - 1) 104 == .gt then
    (if overflowsToInf rm neg then infPat neg else zeroPat neg ||| 0x7F7FFFFF, statOvf)
  else (zeroPat neg ||| BitVec.ofNat 32 (packMag 23 127 n q), 0)

/-- The signed integer of a magnitude. -/
def sgnInt (neg : Bool) (m : Nat) : Int := if neg then -(m : Int) else m

/-- The exact sum of two finite values, rounded once; the sign of an exact zero as IEEE 754 has it. -/
def addFin (rm : Rm) (na : Bool) (ma : Nat) (ea : Int) (nb : Bool) (mb : Nat) (eb : Int) : FRes :=
  let q := min ea eb
  let s := sgnInt na (ma * 2 ^ (ea - q).toNat) + sgnInt nb (mb * 2 ^ (eb - q).toNat)
  if s = 0 then
    let neg := if ma = 0 ∧ mb = 0 ∧ na = nb then na else rm == .rdn
    (zeroPat neg, 0)
  else round32 rm (decide (s < 0)) s.natAbs q false

def addVal (rm : Rm) (a b : FVal) : FRes :=
  match a, b with
  | .nan, _ => nanRes false
  | _, .nan => nanRes false
  | .inf x, .inf y => if x = y then (infPat x, 0) else nanRes true
  | .inf x, _ => (infPat x, 0)
  | _, .inf y => (infPat y, 0)
  | .fin na ma ea, .fin nb mb eb => addFin rm na ma ea nb mb eb

def negVal : FVal → FVal
  | .nan => .nan
  | .inf n => .inf (!n)
  | .fin n m e => .fin (!n) m e

def fadd (rm : Rm) (a b : BitVec 32) : FRes := addVal rm (fval a) (fval b)
def fsub (rm : Rm) (a b : BitVec 32) : FRes := addVal rm (fval a) (negVal (fval b))

/-- The exact product of two values: its value, and whether it is 0 × ∞. -/
def mulVal (a b : FVal) : FVal × Bool :=
  match a, b with
  | .nan, _ => (.nan, false)
  | _, .nan => (.nan, false)
  | .inf x, .inf y => (.inf (x != y), false)
  | .inf x, .fin y m _ => if m = 0 then (.nan, true) else (.inf (x != y), false)
  | .fin x m _, .inf y => if m = 0 then (.nan, true) else (.inf (x != y), false)
  | .fin x m e, .fin y n f => (.fin (x != y) (m * n) (e + f), false)

def fmul (rm : Rm) (a b : BitVec 32) : FRes :=
  match mulVal (fval a) (fval b) with
  | (.nan, inv) => nanRes inv
  | (.inf n, _) => (infPat n, 0)
  | (.fin n m e, _) => if m = 0 then (zeroPat n, 0) else round32 rm n m e false

/-- a × b + c rounded once. -/
def fmaVal (rm : Rm) (a b c : FVal) : FRes :=
  match mulVal a b with
  | (.nan, inv) => nanRes inv
  | (p, _) => addVal rm p c

def ffma (rm : Rm) (a b c : BitVec 32) : FRes := fmaVal rm (fval a) (fval b) (fval c)

/-- c - a × b rounded once. -/
def ffms (rm : Rm) (a b c : BitVec 32) : FRes := fmaVal rm (negVal (fval a)) (fval b) (fval c)

/-- The quotient of two finite magnitudes to 64 bits and more, and whether something is left. -/
def quot (ma : Nat) (ea : Int) (mb : Nat) (eb : Int) : Nat × Int × Bool :=
  let sh := 64 + Nat.log2 mb
  (ma * 2 ^ sh / mb, ea - eb - sh, ma * 2 ^ sh % mb != 0)

def fdiv (rm : Rm) (a b : BitVec 32) : FRes :=
  match fval a, fval b with
  | .nan, _ => nanRes false
  | _, .nan => nanRes false
  | .inf _, .inf _ => nanRes true
  | .inf x, .fin y _ _ => (infPat (x != y), 0)
  | .fin x _ _, .inf y => (zeroPat (x != y), 0)
  | .fin x ma ea, .fin y mb eb =>
    if mb = 0 then (if ma = 0 then nanRes true else (infPat (x != y), 0))
    else if ma = 0 then (zeroPat (x != y), 0)
    else
      let (m, e, st) := quot ma ea mb eb
      round32 rm (x != y) m e st

/-- The integer square root, a bit at a time. -/
def isqrtGo (n : Nat) : Nat → Nat → Nat
  | 0, r => r
  | b + 1, r => if (r + 2 ^ b) * (r + 2 ^ b) ≤ n then isqrtGo n b (r + 2 ^ b) else isqrtGo n b r

def isqrt (n : Nat) : Nat := isqrtGo n (Nat.log2 n / 2 + 1) 0

/-- The square root of m · 2^e to 64 bits and more. -/
def rootOf (m : Nat) (e : Int) : Nat × Int × Bool :=
  let sh : Nat := 128 + (e % 2).toNat
  let x := m * 2 ^ sh
  (isqrt x, (e - sh) / 2, isqrt x * isqrt x != x)

def fsqrt (rm : Rm) (a : BitVec 32) : FRes :=
  match fval a with
  | .nan => nanRes false
  | .inf n => if n then nanRes true else (infPat false, 0)
  | .fin n m e =>
    if m = 0 then (zeroPat n, 0)
    else if n then nanRes true
    else
      let (r, q, st) := rootOf m e
      round32 rm false r q st

/-- Order of two values that are no NaN, -0 below +0 where signed says so. -/
def fcmp (signedZero : Bool) (a b : FVal) : Ordering :=
  let key := fun (v : FVal) => match v with
    | .nan => (0, 0, 0)
    | .inf n => (if n then -2 else 2, 0, 0)
    | .fin n m e => (if m = 0 then 0 else if n then -1 else 1, m, e)
  let (ra, ma, ea) := key a
  let (rb, mb, eb) := key b
  if (ra : Int) < rb then .lt
  else if (rb : Int) < ra then .gt
  else if ra = 1 then cmpMag ma ea mb eb
  else if ra = -1 then cmpMag mb eb ma ea
  else if ra = 0 ∧ signedZero then
    (match a, b with
     | .fin true _ _, .fin false _ _ => .lt
     | .fin false _ _, .fin true _ _ => .gt
     | _, _ => .eq)
  else .eq

/-- The smaller and the greater of two FP32 patterns, -0 below +0; any NaN gives the canonical NaN (R184). -/
def fmin (a b : BitVec 32) : FRes :=
  if fval a = .nan ∨ fval b = .nan then nanRes false else (if fcmp true (fval b) (fval a) = .lt then b else a, 0)
def fmax (a b : BitVec 32) : FRes :=
  if fval a = .nan ∨ fval b = .nan then nanRes false else (if fcmp true (fval a) (fval b) = .lt then b else a, 0)

/-- Rounded to an integral value (R212, VRND). -/
def fround (rm : Rm) (a : BitVec 32) : FRes :=
  match fval a with
  | .nan => nanRes false
  | .inf _ => (a, 0)
  | .fin n m e =>
    if m = 0 ∨ 0 ≤ e then (a, 0)
    else
      let (k, _) := roundMag rm n none 0 m e false
      if k = 0 then (zeroPat n, 0) else round32 .rne n k 0 false

/-! ### Approximated functions (R184, R203) -/

/-- Fraction bits of the fixed-point work below; its errors are far under 2^-60 of a result. -/
def fxw : Nat := 192

/-- 2^f for a fraction f of fxw bits: for each of its first bits the matching root of 2 multiplies in. -/
def exp2Go (f : Nat) : Nat → Nat → Nat → Nat
  | 0, _, acc => acc
  | n + 1, root, acc =>
    let root := isqrt (root * 2 ^ fxw)
    exp2Go f n root (if f / 2 ^ (fxw + n - 80) % 2 = 1 then acc * root / 2 ^ fxw else acc)

def exp2Frac (f : Nat) : Nat := exp2Go f 80 (2 * 2 ^ fxw) (2 ^ fxw)

/-- floor(x · 2^fxw) of a signed dyadic number. -/
def toFix (neg : Bool) (m : Nat) (e : Int) : Int :=
  let s := sgnInt neg m
  if 0 ≤ e + fxw then s * 2 ^ (e + fxw).toNat else s / 2 ^ (-(e + fxw)).toNat

/-- The first bits of log2 x for 1 ≤ x < 2, x of fxw fraction bits. -/
def log2Go : Nat → Nat → Nat → Nat
  | 0, _, acc => acc
  | n + 1, x, acc =>
    let y := x * x / 2 ^ fxw
    if 2 ^ (fxw + 1) ≤ y then log2Go n (y / 2) (2 * acc + 1) else log2Go n y (2 * acc)

/-- log2 e with fxw fraction bits. -/
def log2e : Nat := 14426950408889634073599246810018921374266459541529859341354494069 * 2 ^ fxw / 10 ^ 64

/-- tanh of a positive magnitude: a magnitude m · 2^e. -/
def tanhMag (m : Nat) (e : Int) : Nat × Int :=
  if cmpMag m e 1 (-10) = .lt then
    let y := (toFix false (m * m) (e + e)).toNat
    (m * ((15 * 2 ^ fxw - 5 * y + 2 * (y * y) / 2 ^ fxw) / 15), e - fxw)
  else if cmpMag m e 32 0 = .gt then (2 ^ fxw - 1, -fxw)
  else
    let x := (toFix false m (e + 1)).toNat * log2e / 2 ^ fxw
    let t := exp2Frac (x % 2 ^ fxw) * 2 ^ (x / 2 ^ fxw)
    ((t - 2 ^ fxw) * 2 ^ fxw / (t + 2 ^ fxw), -fxw)

/-- A value limited to lo..hi. -/
def clampI (lo hi x : Int) : Int := max lo (min hi x)

/-- Whether the FP32 magnitude p lies within 2 units in the last place of m · 2^e. -/
def within2 (p : Nat) (m : Nat) (e : Int) : Bool :=
  match fp32.value p with
  | .fin _ pm pe =>
    let u := max (-149 : Int) ((Nat.log2 m : Int) + e - 23)
    let q := min e (min pe u)
    let d := ((pm * 2 ^ (pe - q).toNat : Nat) : Int) - (m * 2 ^ (e - q).toNat : Nat)
    decide (d.natAbs ≤ 2 * 2 ^ (u - q).toNat)
  | _ => false

/-- The result of approximated function number fn at input x whose exact value is m · 2^e: the nearest FP32 value moved
by the error that this part makes (log entry 3), where that stays within 2 units in the last place. -/
def approxRes (fn : Nat) (x : BitVec 32) (neg : Bool) (m : Nat) (e : Int) : FRes :=
  let r := round32 .rne neg m e true
  if r.2 ≠ 0 then r
  else
    let p := (r.1 &&& 0x7FFFFFFF).toNat
    let c := (clampI 0 0x7F7FFFFF ((p : Int) + clampI (-4) 4 (Config.approxError fn x))).toNat
    (zeroPat neg ||| BitVec.ofNat 32 (if within2 c m e then c else p), 0)

/-- Whether a positive magnitude is a power of two, and its exponent. -/
def powerOf (m : Nat) (e : Int) : Option Int := if m = 2 ^ Nat.log2 m ∧ m ≠ 0 then some (e + Nat.log2 m) else none

/-- VRCP (R203). -/
def frcp (a : BitVec 32) : FRes :=
  match fval a with
  | .nan => nanRes false
  | .inf n => (zeroPat n, 0)
  | .fin n m e =>
    if m = 0 then (infPat n, 0)
    else
      let (r, q, _) := quot 1 0 m e
      match powerOf m e with
      | some k => if -126 ≤ -k ∧ -k ≤ 127 then round32 .rne n 1 (-k) false else approxRes 0 a n r q
      | none => approxRes 0 a n r q

/-- VRSQ (R203). -/
def frsq (a : BitVec 32) : FRes :=
  match fval a with
  | .nan => nanRes false
  | .inf n => if n then nanRes true else (0, 0)
  | .fin n m e =>
    if m = 0 then (infPat n, 0)
    else if n then nanRes true
    else
      let (r, q, _) := quot 1 0 m e
      let (t, u, _) := rootOf r q
      match powerOf m e with
      | some k => if k % 2 = 0 then round32 .rne false 1 (-(k / 2)) false else approxRes 1 a false t u
      | none => approxRes 1 a false t u

/-- VEXP2 (R203). -/
def fexp2 (a : BitVec 32) : FRes :=
  match fval a with
  | .nan => nanRes false
  | .inf n => (if n then 0 else infPat false, 0)
  | .fin n m e =>
    if m = 0 then (0x3F800000, 0)
    else if cmpMag m e 1024 0 = .gt then (if n then (0, 0) else (infPat false, statOvf))
    else
      let x := toFix n m e
      let i := x / 2 ^ fxw
      let f := (x % 2 ^ fxw).toNat
      if f = 0 ∧ 0 ≤ e + fxw ∧ -149 ≤ i ∧ i ≤ 127 then round32 .rne false 1 i false
      else approxRes 2 a false (exp2Frac f) (i - fxw)

/-- VLOG2 (R203). -/
def flog2 (a : BitVec 32) : FRes :=
  match fval a with
  | .nan => nanRes false
  | .inf n => if n then nanRes true else (infPat false, 0)
  | .fin n m e =>
    if m = 0 then (infPat true, 0)
    else if n then nanRes true
    else match powerOf m e with
      | some k => if k = 0 then (0, 0) else round32 .rne (decide (k < 0)) k.natAbs 0 false
      | none =>
        let l := Nat.log2 m
        let v : Int := (e + l) * 2 ^ 96 + log2Go 96 (m * 2 ^ fxw / 2 ^ l) 0
        approxRes 3 a (decide (v < 0)) v.natAbs (-96)

/-- VTANH (R203). -/
def ftanh (a : BitVec 32) : FRes :=
  match fval a with
  | .nan => nanRes false
  | .inf n => (zeroPat n ||| 0x3F800000, 0)
  | .fin n m e =>
    if m = 0 then (zeroPat n, 0)
    else
      let (r, q) := tanhMag m e
      approxRes 4 a n r q

end Sys2Proof.Machine
end

