-- ==== Sys2Proof/Machine/Flags.lean ====
section
/-! DEFINITION. The status flags FSTAT (R182), the rounding mode FRM (R181), and the combining operations that change
neither: those of atomics (R274) and of the out-operations of copies (R148). -/

namespace Sys2Proof.Machine

/-- The rounding mode of a hand (R181). -/
def rmHand (h : Hand) : Rm := rmOf h.rm

/-- FSTAT bits set at a landing: they stay set (R182). -/
def setStat (h : Hand) (st : BitVec 3) : Hand := { h with fstat := h.fstat ||| st, landStat := h.landStat ||| st }

/-- A CSRW to FSTAT: the written value, ORed with the bits of the landings of this virtual cycle (R182). -/
def writeStat (h : Hand) (v : Word) : Hand := { h with fstat := v.extractLsb' 0 3 ||| h.landStat }

/-- A CSRW to FRM: 5 to 7 write 0 to RM (R181). -/
def writeFrm (h : Hand) (v : Word) : Hand :=
  { h with rm := if 4 < fld v 2 0 then 0 else v.extractLsb' 0 3, satovf := bit v 3 }

/-- A CSRW to SHAPE: LOGC above 10 writes 10, BSZ 3 writes 0 (R196). -/
def writeShape (h : Hand) (v : Word) : Hand :=
  { h with logc := if 10 < fld v 3 0 then 10 else v.extractLsb' 0 4, cfmt := v.extractLsb' 8 24,
           bsz := if fld v 33 32 = 3 then 0 else v.extractLsb' 32 2 }

def shapeWord (h : Hand) : Word :=
  BitVec.ofNat 64 (at' h.bsz.toNat 32 + at' h.cfmt.toNat 8 + h.logc.toNat)

def frmWord (h : Hand) : Word := BitVec.ofNat 64 (at' h.satovf.toNat 3 + h.rm.toNat)

/-- The exact sum of two values, as a value; the sign of an exact zero as IEEE 754 has it under RNE. -/
def sumVal (a b : FVal) : FVal :=
  match a, b with
  | .nan, _ => .nan
  | _, .nan => .nan
  | .inf x, .inf y => if x = y then .inf x else .nan
  | .inf x, _ => .inf x
  | _, .inf y => .inf y
  | .fin na ma ea, .fin nb mb eb =>
    let q := min ea eb
    let s := sgnInt na (ma * 2 ^ (ea - q).toNat) + sgnInt nb (mb * 2 ^ (eb - q).toNat)
    if s = 0 then .fin (decide (ma = 0 ∧ mb = 0) && na && nb) 0 q else .fin (decide (s < 0)) s.natAbs q

/-- The greater of two patterns of FP32, BF16 or FP16, -0 below +0; any NaN gives the format's canonical NaN. -/
def maxPat (f : Fmt) (a b : Nat) : Nat :=
  if f.value a = .nan ∨ f.value b = .nan then f.nan.getD 0 else if fcmp true (f.value a) (f.value b) = .lt then b else a

/-- Memory combined with a buffer value by an out-operation, for a component of n bytes (R148). -/
def outCombine (op : OutOp) (f : Fmt) (old new : Nat) : Nat :=
  match op with
  | .copy => new
  | .addF32 => (fadd .rne (BitVec.ofNat 32 old) (BitVec.ofNat 32 new)).1.toNat
  | .addBf16 => (convert (sumVal (bf16.value old) (bf16.value new)) bf16 .rne false).1
  | .max => match f with
    | .int _ _ _ => if signed 32 old < signed 32 new then new else old
    | f => maxPat f old new

/-- The new value of an atomic's word of n bits (R274): operations 0 ADD, 1 AND, 2 OR, 3 XOR, 4 MIN, 5 MAX, 6 MINU,
7 MAXU, 8 SWAP, 9 CAS, 10 FADD, 11 FMAX; c is the new value of CAS. -/
def amoNew (op n old b c : Nat) : Nat :=
  let b := b % 2 ^ n
  match op with
  | 0 => (old + b) % 2 ^ n
  | 1 => old &&& b
  | 2 => old ||| b
  | 3 => old ^^^ b
  | 4 => if signed n old < signed n b then old else b
  | 5 => if signed n old < signed n b then b else old
  | 6 => min old b
  | 7 => max old b
  | 8 => b
  | 9 => if old = b then c % 2 ^ n else old
  | 10 => (fadd .rne (BitVec.ofNat 32 old) (BitVec.ofNat 32 b)).1.toNat
  | 11 => (fmax (BitVec.ofNat 32 old) (BitVec.ofNat 32 b)).1.toNat
  | _ => old

end Sys2Proof.Machine
end

