-- ==== Sys2Proof/Machine/Loads.lean ====
section
/-! DEFINITION. Scalar loads and stores of global memory (R143-R146) and atomics (R274) at the issue point. -/

namespace Sys2Proof.Machine

/-- The page types that a scalar load or store touches (R127). -/
def scalarTypes : List PageType := [.normal, .glaze, .sync, .code]

/-- A trap that the type of a page raises, in element order (R127, R249): on a sync page an access that is not naturally
aligned, on a glaze page one that R249 does not permit. -/
def typedTrap (s : State) (g : Nat) (q : SeqId) (store : Bool) (w : Nat) : List (Touch × Page) → Option State
  | [] => none
  | (t, p) :: r =>
    if p.ptype = .sync ∧ (t.va % w ≠ 0 ∨ t.len ≠ w) then
      some (xlTrap s g q t.va store { cause := 6, reason := 5, level := levelOf p.size })
    else if p.ptype = .glaze then
      match (if store then sampleFault s (handPart s g) t.va (physOf p t.va) t.len else tapFault s (handPart s g) t.va (physOf p t.va) t.len) with
      | some reason => some (takeTrap (dropWalks s g q) g q 10 (glazeInfo reason 0 t.va))
      | none => typedTrap s g q store w r
    else typedTrap s g q store w r

/-- The first page in element order whose type forbids the access, where no page before it fails or is missing (R128). -/
def typedFirst (s : State) (g : Nat) (q : SeqId) (store : Bool) (w : Nat) : List Touch → Option State
  | [] => none
  | t :: r =>
    match lookup s g q t.va with
    | .page p =>
      if (pageFault p (handPart s g) (handOf s g).sup (!store) store scalarTypes t.va t.len).isSome ∨
         (p.ptype = .glaze ∧ cfgStalls s (handPart s g) t.va) then none
      else match typedTrap s g q store w [(t, p)] with
      | some x => some x
      | none => typedFirst s g q store w r
    | _ => none

/-- Whether a GCFG that waits holds some glaze access back (R259). -/
def glazeStalls (s : State) (g : Nat) (l : List (Touch × Page)) : Bool :=
  l.any (fun x => x.2.ptype == .glaze && cfgStalls s (handPart s g) x.1.va)

/-- Whether the ordering buffer of a sequencer has a free entry (R155). -/
def obRoom (s : State) (g : Nat) (q : SeqId) : Bool := decide ((sqOf s g q).ob.length < 32)

/-- An entry put at the end of a sequencer's ordering buffer. -/
def obAdd (s : State) (g : Nat) (q : SeqId) (e : ObEntry) : State := modSq s g q (fun x => { x with ob := x.ob ++ [e] })

/-- A load at issue (R143): translated, given a load slot, its destination pending, entered in the ordering buffer. -/
def loadIssue (k : Tok) (d : Dst) (a : Src) (z : Width) (o : Int) (sgn : Bool) (acq : Option Scope) (s : State) : Res :=
  issue s k { reqRR (some d) [a] with allowed := xls } fun t vals id =>
    let g := s.focus
    let q := s.focusSq
    let w := widthBytes z
    let va := (scaled (valOf vals 0).1 o z).toNat
    let ts := splitPages va w
    match typedFirst s g q false w ts with
    | some x => .next x
    | none =>
      withPages s g q true false scalarTypes ts fun ps =>
        if glazeStalls s g (List.zip ts ps) then .next (stalled s g q 15)
        else if ¬obRoom s g q then .next (stalled s g q 12)
        else
          let (sq, tag) := takeLoad (sqOf t g q) id
          let t := awaitDst (modSq t g q (fun _ => sq)) g q id (dstRef d) tag
          let t := obAdd t g q { ticket := id, op := .load sgn acq (dstRef d), tag := (valOf vals 0).2, va := va, width := w,
                                 pieces := piecesOf va w ts ps, data := [] }
          .next (finish (dropWalks t g q) g q k (fun y => advance y 1))

/-- LD (R143). -/
def execLd (k : Tok) (d : Dst) (a : Src) (z : Width) (o : BitVec 7) (s : State) : Res := loadIssue k d a z o.toInt false none s

/-- LDS (R143): sign-extending. -/
def execLds (k : Tok) (d : Dst) (a : Src) (z : Width) (o : BitVec 7) (s : State) : Res := loadIssue k d a z o.toInt true none s

/-- LDA (R144): an acquire at its scope. -/
def execLda (k : Tok) (d : Dst) (a : Src) (z : Width) (sc : Scope) (o : BitVec 4) (s : State) : Res :=
  loadIssue k d a z o.toInt false (some sc) s

/-- A store at issue (R145): translated and entered in the ordering buffer with the tags of its address and data. -/
def storeIssue (k : Tok) (a b : Src) (z : Width) (o : Int) (rel : Option Scope) (s : State) : Res :=
  issue s k { reqRR none [a, b] with allowed := xls } fun t vals id =>
    let g := s.focus
    let q := s.focusSq
    let w := widthBytes z
    let va := (scaled (valOf vals 0).1 o z).toNat
    let ts := splitPages va w
    match typedFirst s g q true w ts with
    | some x => .next x
    | none =>
      withPages s g q false true scalarTypes ts fun ps =>
        if glazeStalls s g (List.zip ts ps) then .next (stalled s g q 15)
        else if ¬obRoom s g q then .next (stalled s g q 12)
        else
          let t := obAdd t g q { ticket := id, op := .store rel, tag := tagJoin (valOf vals 0).2 (valOf vals 1).2, va := va,
                                 width := w, pieces := piecesOf va w ts ps, data := bytesOfNat w (valOf vals 1).1.toNat }
          .next (finish (dropWalks t g q) g q k (fun y => advance y 1))

/-- ST (R145). -/
def execSt (k : Tok) (o : BitVec 6) (a b : Src) (z : Width) (s : State) : Res := storeIssue k a b z o.toInt none s

/-- STR (R146): a release at its scope. -/
def execStr (k : Tok) (sc : Scope) (o : BitVec 3) (a b : Src) (z : Width) (s : State) : Res :=
  storeIssue k a b z o.toInt (some sc) s

end Sys2Proof.Machine
end

