-- ==== Sys2Proof/Machine/Engines.lean ====
section
/-! DEFINITION. Engine queues and replies common to every engine: what holds a command back (R165-R167), replies to
pending registers, waiting entries for ch8 to ch11 (R71), and PUSHC (R91, R151). -/

namespace Sys2Proof.Machine

/-- The hand of a leaf passed through f: on the hand itself, or in the context saved for it; nothing once the leaf has
retired (R337, R342). -/
def modLeaf (s : State) (g : Nat) (leaf : Option Bound) (f : Hand → Hand) : State :=
  if leafBound s g leaf then modHand s g f
  else modSaved s (fun g' => leaf.isSome && g' == g) (fun p => if p.leaf = leaf then { p with image := f p.image } else p)

/-- A reply that arrives for a command's register (R71, R150): written with an empty tag, the register no longer pending. -/
def replyReg (s : State) (g : Nat) (leaf : Option Bound) (q : SeqId) (ticket : Nat) (d : DstRef) (v : Word) : State :=
  match d with
  | .reg n => modLeaf s g leaf (fun h => modSeq h q (fun x =>
      { regPut x (BitVec.ofNat 5 n) v Tag.empty with pend := x.pend.filter (fun p => p.ticket != ticket || p.reg != n) }))
  | _ => s

/-- The TINFO word of a machine check (R335). -/
def mcInfo (pfn source : Nat) : Word := BitVec.ofNat 64 (at' (pfn % 2 ^ 40) 12 + source)

/-- A machine check reported for a leaf (R335): the management controller logs it; the hand holds the first report; it is
discarded once the leaf has retired. -/
def reportMc (s : State) (g : Nat) (leaf : Option Bound) (pfn source : Nat) : State :=
  modLeaf (emit s (.log 13 (mcInfo pfn source).toNat)) g leaf (fun h => { h with heldMc := some (h.heldMc.getD (mcInfo pfn source)) })

/-- Whether a fence holds an engine command back (R165, R166): an earlier access that it orders before anything is not
performed at its scope, or an earlier command of the sequencer has not completed, with ENG set. -/
def fenceHoldsCmd (s : State) (g : Nat) (q : SeqId) (f : ObEntry) : Bool :=
  fenceEng f.op &&
  (((sqOf s g q).ob.any (fun e => decide (e.ticket < f.ticket) && !isFence e.op && takesPart (!fenceUo f.op) e &&
      fencePair f.op (countsLoad e.op) (countsStore e.op) true true)) ||
   (wide (fenceScope f.op) && fencePair f.op false true true true &&
      (sqOf s g q).dirtied.any (fun x => decide (x.ticket < f.ticket) && !(!fenceUo f.op && x.uo) && dirtyLeft s g x)) ||
   (cmdTickets s g q).any (fun t => decide (t < f.ticket)))

/-- Whether an engine may make the first access of a command (R166): its tag is empty, the acquires issued before it are
performed, the fences before it are satisfied. -/
def cmdReady (s : State) (g : Nat) (q : SeqId) (ticket : Nat) (tag : Tag) : Bool :=
  tagEmpty tag && !acquirePending s g q ticket &&
  !((sqOf s g q).ob.any (fun f => isFence f.op && decide (f.ticket < ticket) && fenceHoldsCmd s g q f))

/-- Room in an engine queue of 16 (R151). -/
def room16 (l : List EngCmd) : Bool := decide (l.length < 16)

/-- A command that an instruction hands to an engine. -/
def mkCmd (s : State) (g : Nat) (q : SeqId) (ticket : Nat) (tag : Tag) (fn : Option Nat) (ws : List Word) (d : DstRef) : EngCmd :=
  { ticket := ticket, hand := g, sq := q, part := handPart s g, leaf := (handOf s g).bound, tag := tag, fn := fn, words := ws,
    dst := d, extra := [], pages := [], phase := 0 }

/-- A copy-engine command of PUSHC queue 4 before its check (R153). -/
def mkGlobal (s : State) (g : Nat) (q : SeqId) (ticket : Nat) (tag : Tag) (ws : List Word) : CopyCmd :=
  { ticket := ticket, hand := g, sq := q, leaf := (handOf s g).bound, part := handPart s g, kind := .command, tag := tag, words := ws, acq := false,
    rel := false, scope := .hand, outOp := .copy, clip := .none, buf := .ab, baddr := 0, rowStep := none, src := 0, dst := 0,
    dims := [], origin := [], cbits := 0, comps := 0, fmt := 0, fill := 0, pages := [], srcPages := [], token := none,
    done := none, started := false, pos := 0, bytes := 0, held := [], status := 0, reason := 0 }

/-- Whether an engine queue has room. -/
def queueRoom (e : Easel) (u : EngQueue) : Bool :=
  match u with
  | .fresco => room16 e.frescoQ
  | .collective => room16 e.collQ
  | .glaze => room16 e.glazeQ
  | .sync => room16 e.syncQ
  | .copy => decide (e.copyQ.length < 64)

/-- A PUSHC command put into its queue. -/
def enqueue (s : State) (g : Nat) (u : EngQueue) (c : EngCmd) : State :=
  modEasel s (easelNo g) (fun e => match u with
    | .fresco => { e with frescoQ := e.frescoQ ++ [c] }
    | .collective => { e with collQ := e.collQ ++ [c] }
    | .glaze => { e with glazeQ := e.glazeQ ++ [c] }
    | .sync => { e with syncQ := e.syncQ ++ [c] }
    | .copy => { e with copyQ := e.copyQ ++ [mkGlobal s g c.sq c.ticket c.tag c.words] })

/-- The eight registers of a group. -/
def groupRegs (a : BitVec 5) : List (BitVec 5) := (List.range 8).map (fun i => a + BitVec.ofNat 5 i)

/-- The union of tags. -/
def tagUnion (l : List Tag) : Tag := l.foldl tagJoin Tag.empty

/-- The request of an instruction of 5-bit registers that writes d at issue. -/
def reqCPw (allowed : List SeqId) (d : BitVec 5) (regs : List (BitVec 5)) : Req :=
  { reqCP allowed (d :: regs) with lands := if d = 0 then 0 else 1 }

/-- PUSHC (R151): the flag is 1 when the queue is full, and then nothing is enqueued. -/
def execPushc (k : Tok) (d a : BitVec 5) (qu : EngQueue) (s : State) : Res :=
  issue s k { reqCPw everywhere d (groupRegs a) with limit := limitBroken (.pushc k d a qu) } fun t _ id =>
    let g := s.focus
    let q := s.focusSq
    let x := sqOf t g q
    let full := !queueRoom (easelOf t (easelNo g)) qu
    let c := mkCmd t g q id (tagUnion ((groupRegs a).map (tagGet x))) none ((groupRegs a).map (regGet x)) .none
    let t := if full then t else enqueue t g qu c
    .next (finish (putReg t g q 1 d (if full then 1 else 0) Tag.empty) g q k (fun y => advance y 1))

end Sys2Proof.Machine
end

