-- ==== Sys2Proof/Machine/Filter.lean ====
section
/-! DEFINITION. The filter engines of glaze memory (R242-R247, R251-R253): a word's state, samples, resets, ticks and tap
reads, and the walk over the words of a region. -/

namespace Sys2Proof.Machine

/-! ### Words (R242, R245) -/

/-- The state of a word: the slots of taps 0-3, the residues, COUNT, TICKNO and FLAGS. -/
structure FWord where
  y     : Nat
  s1    : Nat
  s2    : Nat
  xacc  : Nat
  r0    : Nat
  r1    : Nat
  r2    : Nat
  count : Nat
  tick  : Nat
  flags : Nat
  deriving DecidableEq, Repr

/-- A word as memory lays it out (R242). -/
def readFWord (m : Memory) (d : BitVec 512) (pa : Nat) : FWord :=
  let f := fun o n => memNat m (pa + o) n
  let g := rgG32 d
  { y := f 0 4, s1 := f 4 4, s2 := f 8 4, xacc := f 12 4, r0 := if g then f 16 2 else 0, r1 := if g then f 18 2 else 0,
    r2 := if g then f 20 2 else 0, count := if g then f 22 2 else 0, tick := if g then f 24 4 else 0,
    flags := if g then f 28 4 else 0 }

def fwordBytes (d : BitVec 512) (w : FWord) : List Byte :=
  bytesOfNat 4 w.y ++ bytesOfNat 4 w.s1 ++ bytesOfNat 4 w.s2 ++ bytesOfNat 4 w.xacc ++
  (if rgG32 d then bytesOfNat 2 w.r0 ++ bytesOfNat 2 w.r1 ++ bytesOfNat 2 w.r2 ++ bytesOfNat 2 w.count ++
    bytesOfNat 4 w.tick ++ bytesOfNat 4 w.flags else [])

/-- The coefficients (R241). -/
def rgB0 (d : BitVec 512) : FVal := fp32.value (fld d 351 320)
def rgB1 (d : BitVec 512) : FVal := fp32.value (fld d 383 352)
def rgB2 (d : BitVec 512) : FVal := fp32.value (fld d 415 384)
def rgA1 (d : BitVec 512) : FVal := fp32.value (fld d 447 416)
def rgA2 (d : BitVec 512) : FVal := fp32.value (fld d 479 448)

/-- Q15 (R241). -/
def q15 : Fmt := .int true 15 15

/-- The exact value of a tap with its residue (R245). -/
def stateVal (d : BitVec 512) (tap res : Nat) : FVal :=
  match rgFmt d with
  | 1 => bf16.value (tap % 65536)
  | 2 => q15.value (tap % 65536)
  | _ => if rgG32 d then (match fp32.value tap with
      | .fin n m e => .fin n (m * 65536 + res) (e - 16)
      | v => v) else fp32.value tap

/-- A state after rounding: slot, residue, and whether SAT and NAN are set. -/
structure Rounded where
  tap : Nat
  res : Nat
  sat : Bool
  nan : Bool
  deriving DecidableEq, Repr

/-- RoundState of a finite value for G32 (R245): 40 significant bits, the tap their rounding toward zero. -/
def roundG32 (rm : Rm) (neg : Bool) (m : Nat) (e : Int) : Rounded :=
  let (u, q) := roundMag rm neg (some 40) (-165) m e false
  let sgn := if neg then 2 ^ 31 else 0
  if cmpMag u q (2 ^ 40 - 1) 88 = .gt then
    if overflowsToInf rm neg then { tap := sgn + 0x7F800000, res := 0, sat := true, nan := false }
    else { tap := sgn + 0x7F7FFFFF, res := 65535, sat := true, nan := false }
  else
    let (t, p) := roundMag .rtz neg (some 24) (-149) u q false
    { tap := sgn + packMag 23 127 t p, res := u / 2 ^ (p - 16 - q).toNat - t * 65536, sat := false, nan := false }

/-- RoundState (R244). -/
def roundState (d : BitVec 512) (v : FVal) : Rounded :=
  let rm := if rgRtz d then Rm.rtz else Rm.rne
  let isNan := v == .nan
  match rgFmt d with
  | 1 =>
    let (p, st) := convert v bf16 rm false
    { tap := p, res := 0, sat := st == statOvf, nan := isNan }
  | 2 =>
    let (p, st) := convert v q15 rm false
    { tap := (signed 16 p % 2 ^ 32).toNat, res := 0, sat := !isNan && st != 0, nan := isNan }
  | _ =>
    match (if rgG32 d then v else .nan) with
    | .fin n m e => roundG32 rm n m e
    | _ =>
      let (p, st) := convert v fp32 rm false
      { tap := p, res := 0, sat := st == statOvf, nan := isNan }

/-! ### Steps (R244, R246, R251) -/

/-- Step: direct form II transposed. SAT and NAN of the three roundings are joined. -/
def stepWord (d : BitVec 512) (w : FWord) (x : FVal) : FWord × Bool × Bool :=
  let mul := fun a b => (mulVal a b).1
  let ry := roundState d (sumVal (mul (rgB0 d) x) (stateVal d w.s1 w.r1))
  let y := stateVal d ry.tap ry.res
  let r1 := roundState d (sumVal (sumVal (mul (rgB1 d) x) (negVal (mul (rgA1 d) y))) (stateVal d w.s2 w.r2))
  let r2 := roundState d (sumVal (mul (rgB2 d) x) (negVal (mul (rgA2 d) y)))
  let sat := ry.sat || r1.sat || r2.sat
  let nan := ry.nan || r1.nan || r2.nan
  let fl := w.flags ||| (if rgG32 d then sat.toNat + 2 * nan.toNat else 0)
  ({ w with y := ry.tap, s1 := r1.tap, s2 := r2.tap, r0 := ry.res, r1 := r1.res, r2 := r2.res, flags := fl }, sat, nan)

/-- The pre-operation of a sample. -/
def preOp (d : BitVec 512) (v : FVal) : FVal :=
  match rgPre d with
  | 0 => v
  | 1 => (mulVal v v).1
  | 2 => match v with
    | .fin _ m e => .fin false m e
    | .inf _ => .inf false
    | .nan => .nan
  | _ => negVal v

/-- Sample. -/
def sampleWord (d : BitVec 512) (v : FVal) (w : FWord) : FWord × Bool × Bool :=
  let x := preOp d v
  if ¬rgPerTick d then stepWord d w x
  else ({ w with xacc := (convert (sumVal (fp32.value w.xacc) x) fp32 .rne false).1,
                 count := if rgG32 d then min (w.count + 1) 65535 else 0 }, false, false)

/-- A reset sample. -/
def resetWord (d : BitVec 512) (v : FVal) (w : FWord) : FWord × Bool × Bool :=
  sampleWord d v { w with y := 0, s1 := 0, s2 := 0, xacc := 0, r0 := 0, r1 := 0, r2 := 0, count := 0,
                          flags := if rgG32 d then 4 else 0 }

/-- TickWord: the advance that completes tick number t. -/
def tickWord (d : BitVec 512) (t : Nat) (w : FWord) : FWord × Bool × Bool :=
  let (w, sat, nan) := stepWord d w (fp32.value w.xacc)
  ({ w with xacc := 0, count := 0, flags := w.flags - (if rgG32 d ∧ bits w.flags 2 2 = 1 then 4 else 0),
            tick := if rgG32 d then t % 2 ^ 32 else 0 }, sat, nan)

/-- A region of a partition passed through f. -/
def modRegion (s : State) (part r : Nat) (f : Region → Region) : State :=
  modPart s part (fun p => { p with regions := tput p.regions r (f (regionOf p r)) })

/-- One step of the engine on the word at a physical address, with the region's sticky flags. -/
def onWord (s : State) (part r pa : Nat) (f : BitVec 512 → FWord → FWord × Bool × Bool) : State :=
  let d := (regionOf (partOf s part) r).desc
  let (w, sat, nan) := f d (readFWord s.mem d pa)
  let s := { s with mem := memWrite s.mem pa (fwordBytes d w) }
  if sat ∨ nan then modRegion s part r (fun x => { x with sat := x.sat || sat, nan := x.nan || nan }) else s

/-- A tick's next advance of a word that has still to make so many (R253). -/
def advanceWord (s : State) (ch : Nat) (j : TickJob) (pa left : Nat) : State :=
  let s := count (touchChan (onWord s j.part j.region pa (fun d => tickWord d (j.tick0 + (j.n - left) + 1))) pa) 2 ch 3 1
  modChan s ch (fun c => { c with ticks := c.ticks.map (fun k => if k.ticket ≠ j.ticket then k else { k with
    words := if left ≤ 1 then k.words.filter (fun x => x.1 != pa) else k.words.map (fun x => if x.1 = pa then (pa, left - 1) else x) }) })

/-- The start of the word that an address of a region lies in. -/
def wordStart (d : BitVec 512) (va pa : Nat) : Nat := pa - (va - rgBase d) % rgWord d

/-- The oldest tick of a channel that still owes advances to the word of an address, with their number. -/
def owing (s : State) (part va pa : Nat) : Option (TickJob × Nat × Nat) :=
  match regionAt s part va with
  | none => none
  | some (_, d) => (chanOf s (chanNo pa)).ticks.findSome? (fun j =>
      (j.words.find? (fun x => x.1 == wordStart d va pa)).map (fun x => (j, x.1, x.2)))

/-- A word as its layout allows it (R242): zero bits zero, and xacc and COUNT zero in per-sample mode. -/
def cleanWord (d : BitVec 512) (w : FWord) : FWord :=
  let slot := fun (x : Nat) => match rgFmt d with
    | 1 => x % 65536
    | 2 => (BitVec.ofInt 32 (signed 16 x)).toNat
    | _ => x
  { w with y := slot w.y, s1 := slot w.s1, s2 := slot w.s2, flags := w.flags % 8,
           xacc := if rgPerTick d then w.xacc else 0, count := if rgPerTick d then w.count else 0 }

/-- The bytes of a word as loads see it. -/
def wordSeen (d : BitVec 512) (m : Memory) (pa : Nat) : List Byte := fwordBytes d (cleanWord d (readFWord m d pa))

/-- Whether an export or import holds a region at the channel of an address: samples, resets and ticks wait there, and tap
reads as well for an import (R252). -/
def glazeHeld (s : State) (part va pa : Nat) (tap : Bool) : Bool :=
  s.glazeJobs.any (fun j => j.op != 0 && (!tap || j.op == 4) && j.part == part && j.holds.contains (chanNo pa) &&
    ((regionAt s part va).map (·.1)) == some j.region)

/-- Whether the channel takes a glaze access now. -/
def glazeOpen (s : State) (tn : Turn) (part va pa : Nat) (tap : Bool) : Bool :=
  chanOpen s tn pa && !glazeHeld s part va pa tap

/-- Whether it can be performed now: every tick taken before it has advanced its word (R253). -/
def glazeReady (s : State) (tn : Turn) (part va pa : Nat) (tap : Bool) : Bool :=
  glazeOpen s tn part va pa tap && (owing s part va pa).isNone

/-- A glaze access that cannot be performed yet: one advance that its word is owed is made, in the access's place at a held bank, or it
waits at the channel. -/
def glazeWait (s : State) (tn : Turn) (part va pa : Nat) (tap : Bool) : State :=
  if ¬glazeOpen s tn part va pa tap then knockAs s tn pa
  else match owing s part va pa with
  | none => s
  | some (j, w, left) => servedAs (advanceWord s (chanNo pa) j w left) tn pa

/-! ### Samples and tap reads of ordinary accesses (R243, R249, R250) -/

/-- The value that a store of w bytes delivers. -/
def sampleVal (d : BitVec 512) (w pat : Nat) : FVal :=
  if w = 4 then fp32.value pat else if rgFmt d = 2 then q15.value pat else bf16.value pat

/-- A sample of w bytes at a word start. -/
def glazeSample (s : State) (part va pa w pat : Nat) : State :=
  match regionAt s part va with
  | none => s
  | some (r, d) => count (tookAccess (onWord s part r pa (fun d' => sampleWord d' (sampleVal d w pat))) pa) 2 (chanNo pa) 2 1

/-- A reset sample: an INT16 for Q15, FP32 otherwise (R256). -/
def glazeReset (s : State) (part va pa pat : Nat) : State :=
  match regionAt s part va with
  | none => s
  | some (r, d) =>
    let v := if rgFmt d = 2 then q15.value (pat % 65536) else fp32.value (pat % 2 ^ 32)
    count (tookAccess (onWord s part r pa (fun d' => resetWord d' v)) pa) 2 (chanNo pa) 2 1

/-- The bytes of a tap read, bound in one step. -/
def glazeTap (s : State) (part va pa len : Nat) : List Byte × State :=
  match regionAt s part va with
  | none => (memRead s.mem pa len, s)
  | some (_, d) =>
    let w := wordStart d va pa
    (((wordSeen d s.mem w).drop (pa - w)).take len, chanRead s pa)

/-! ### Walking a region -/

/-- The part of a bound page that lies in a region: its first virtual and physical address, and its length. -/
def pagePart (d : BitVec 512) (p : Page) : Nat × Nat × Nat :=
  let lo := max p.vbase (rgBase d)
  let hi := min (p.vbase + 2 ^ p.size) (rgBase d + 4096 * rgSize d)
  (lo, physOf p lo, hi - lo)

/-- The parts of a region in word order. -/
def regionParts (r : Region) : List (Nat × Nat × Nat) := r.pages.map (pagePart r.desc)

/-- An address inserted in an ascending list. -/
def insertAsc (x : Nat × Nat) : List (Nat × Nat) → List (Nat × Nat)
  | [] => [x]
  | y :: r => if x.1 ≤ y.1 then x :: y :: r else y :: insertAsc x r

/-- The physical addresses of a region's words in a channel, ascending, each with n. -/
def wordsIn (r : Region) (ch n : Nat) : List (Nat × Nat) :=
  let ps := ((regionParts r).filter (fun x => chanNo x.2.1 == ch)).map (fun x => (x.2.1, x.2.2))
  (ps.foldl (fun l x => insertAsc x l) []).flatMap (fun x => (List.range (x.2 / rgWord r.desc)).map (fun i => (x.1 + rgWord r.desc * i, n)))

/-- The channels that hold pages of a region. -/
def channelsOf (r : Region) : List Nat := ((regionParts r).map (fun x => chanNo x.2.1)).eraseDups

/-- Every word of a region passed through f. -/
def allWords (s : State) (part r : Nat) (f : FWord → FWord) : State :=
  let g := regionOf (partOf s part) r
  { s with mem := (regionParts g).foldl (fun m x => (List.range (x.2.2 / rgWord g.desc)).foldl (fun m i =>
      let pa := x.2.1 + rgWord g.desc * i
      memWrite m pa (fwordBytes g.desc (f (readFWord m g.desc pa)))) m) s.mem }

/-- Whether a range holds a byte of a save row: those are the last rows of a bank (R305). -/
def rangeSaves (pa len : Nat) : Bool := len != 0 && (decide (pa / 2 ^ 27 ≠ (pa + len - 1) / 2 ^ 27) || saveRow (pa + len - 1))

/-- The table entries that a walk over the pages from a virtual address up to an end reads. -/
def bindTables (s : State) (part hi : Nat) : Nat → Nat → List Nat
  | 0, _ => []
  | n + 1, va =>
    if hi ≤ va then []
    else unitTables s part va ++ match walk s part va with
      | .error _ => []
      | .ok p => bindTables s part hi n (p.vbase + 2 ^ p.size)

/-- The pages from a virtual address up to an end, each once; none where some page of the range fails GCFG's check
(R259 detail 5), or part of it lies in a save row, which no access reaches (R305, log entry 40). -/
def bindPages (s : State) (part hi : Nat) : Nat → Nat → Option (List Page)
  | 0, _ => some []
  | n + 1, va =>
    if hi ≤ va then some []
    else match walk s part va with
    | .error _ => none
    | .ok p =>
      match pageFault p part true true true [.glaze] va 1, rangeSaves (physOf p va) (min hi (p.vbase + 2 ^ p.size) - va) with
      | some _, _ => none
      | none, true => none
      | none, false => (bindPages s part hi n (p.vbase + 2 ^ p.size)).map (fun l => p :: l)

end Sys2Proof.Machine
end

