-- ==== Sys2Proof/Machine/Sync.lean ====
section
/-! DEFINITION. The synchronisation engine (R262-R268, R274-R277): atomics, barrier operations, fences, and the
commands of PUSHC queue 3. -/

namespace Sys2Proof.Machine

/-! ### Atomics (R274) -/

/-- An AMO at issue (R274): op is its operation code, extra whether it reads B5 + 1. -/
def amoIssue (k : Tok) (d a b : BitVec 5) (dbl : Bool) (ord : AmoOrd) (op : Nat) (limit : Bool) (s : State) : Res :=
  let cas := decide (op = 9)
  issue s k { reqCP xls ([d, a, b] ++ (if cas then [b + 1] else [])) with limit := limit } fun t _ id =>
    let g := s.focus
    let q := s.focusSq
    let x := sqOf s g q
    let w := if dbl then 8 else 4
    let va := (regGet x a).toNat
    let ts := splitPages va w
    withPages s g q true true [.normal, .sync, .glaze] ts fun ps =>
      if va % w ≠ 0 then
        .next (xlTrap s g q va true { cause := 6, reason := 5, level := levelOf ((ps.map (·.size)).headD 12) })
      else if ps.any (fun p => p.ptype == .glaze) then .next (takeTrap (dropWalks s g q) g q 10 (glazeInfo 2 0 va))
      else if ¬obRoom s g q then .next (stalled s g q 12)
      else
        let tag := tagJoin (tagJoin (tagGet x a) (tagGet x b)) (if cas then tagGet x (b + 1) else Tag.empty)
        let c := if cas then regGet x (b + 1) else 0
        let (sq, slot) := takeLoad (sqOf t g q) id
        let t := awaitDst (modSq t g q (fun _ => sq)) g q id (dstRef (.reg d)) slot
        let t := obAdd t g q { ticket := id, op := .amo op dbl ord (regGet x b) c (dstRef (.reg d)), tag := tag, va := va,
                               width := w, pieces := piecesOf va w ts ps, data := [] }
        .next (finish (dropWalks t g q) g q k (fun y => advance y 1))

/-- AMO ADD (R274). -/
def execAmoadd (k : Tok) (d a b : BitVec 5) (dbl : Bool) (ord : AmoOrd) (s : State) : Res := amoIssue k d a b dbl ord 0 false s
/-- AMO AND (R274). -/
def execAmoand (k : Tok) (d a b : BitVec 5) (dbl : Bool) (ord : AmoOrd) (s : State) : Res := amoIssue k d a b dbl ord 1 false s
/-- AMO OR (R274). -/
def execAmoor (k : Tok) (d a b : BitVec 5) (dbl : Bool) (ord : AmoOrd) (s : State) : Res := amoIssue k d a b dbl ord 2 false s
/-- AMO XOR (R274). -/
def execAmoxor (k : Tok) (d a b : BitVec 5) (dbl : Bool) (ord : AmoOrd) (s : State) : Res := amoIssue k d a b dbl ord 3 false s
/-- AMO MIN (R274). -/
def execAmomin (k : Tok) (d a b : BitVec 5) (dbl : Bool) (ord : AmoOrd) (s : State) : Res := amoIssue k d a b dbl ord 4 false s
/-- AMO MAX (R274). -/
def execAmomax (k : Tok) (d a b : BitVec 5) (dbl : Bool) (ord : AmoOrd) (s : State) : Res := amoIssue k d a b dbl ord 5 false s
/-- AMO MINU (R274). -/
def execAmominu (k : Tok) (d a b : BitVec 5) (dbl : Bool) (ord : AmoOrd) (s : State) : Res := amoIssue k d a b dbl ord 6 false s
/-- AMO MAXU (R274). -/
def execAmomaxu (k : Tok) (d a b : BitVec 5) (dbl : Bool) (ord : AmoOrd) (s : State) : Res := amoIssue k d a b dbl ord 7 false s
/-- AMO SWAP (R274). -/
def execAmoswap (k : Tok) (d a b : BitVec 5) (dbl : Bool) (ord : AmoOrd) (s : State) : Res := amoIssue k d a b dbl ord 8 false s
/-- AMO CAS (R274): an odd B5 is code 8. -/
def execAmocas (k : Tok) (d a b : BitVec 5) (dbl : Bool) (ord : AmoOrd) (s : State) : Res :=
  amoIssue k d a b dbl ord 9 (limitBroken (.amocas k d a b dbl ord)) s
/-- AMO FADD (R274): width double is code 8. -/
def execAmofadd (k : Tok) (d a b : BitVec 5) (dbl : Bool) (ord : AmoOrd) (s : State) : Res :=
  amoIssue k d a b dbl ord 10 (limitBroken (.amofadd k d a b dbl ord)) s
/-- AMO FMAX (R274): width double is code 8. -/
def execAmofmax (k : Tok) (d a b : BitVec 5) (dbl : Bool) (ord : AmoOrd) (s : State) : Res :=
  amoIssue k d a b dbl ord 11 (limitBroken (.amofmax k d a b dbl ord)) s

/-- A line of die d's cache written back and dropped (R171). -/
def dropLine (s : State) (d pa : Nat) : State :=
  let b := pa - pa % 128
  let s := writeBackLine s d pa
  modDie s d (fun x => { x with cache := x.cache.filter (fun e => decide (e.1 < b) || decide (b + 128 ≤ e.1)) })

/-- One read-modify-write at its arbiter (R171, R274) by a unit of die d: the old value, or none while it must wait. tn says
how it stands at a held bank (R311). -/
def amoStep (s : State) (tn : Turn) (d : Nat) (ptype : PageType) (op w pa b c : Nat) : Option (Nat × State) :=
  if ptype = .sync then
    (syncTouch s pa).map (fun s =>
      let old := memNat s.mem pa w
      (old, { s with mem := memWrite s.mem pa (bytesOfNat w (amoNew op (8 * w) old b c)) }))
  else if chanOpen s tn pa then
    let s := dropLine s d pa
    let old := memNat s.mem pa w
    some (old, count (chanWrote { s with mem := memWrite s.mem pa (bytesOfNat w (amoNew op (8 * w) old b c)) } pa) 2 (chanNo pa) 0 1)
  else none

/-- A read-modify-write whose word has an uncorrectable error (R263, R334): nothing is written, and the value is free (log entry
38). -/
def amoBad (s : State) (tn : Turn) (d : Nat) (ptype : PageType) (w pa : Nat) : Option (Nat × State) :=
  (amoStep s tn d ptype 1 w pa (2 ^ (8 * w) - 1) 0).map (fun r =>
    ((Config.freeWord r.2.fresh).toNat % 2 ^ (8 * w), { r.2 with fresh := r.2.fresh + 1 }))

/-- An AMO entry performed: the old value arrives zero-extended. -/
def amoPerform (s : State) (tn : Turn) (bad : Bool) (g : Nat) (q : SeqId) (e : ObEntry) (op : Nat) (dbl : Bool) (b c : Word) (dst : DstRef) : State :=
  match e.pieces with
  | [] => s
  | p :: _ =>
    let w := if dbl then 8 else 4
    match (if bad then amoBad s tn (dieNo g) p.ptype w p.pa else amoStep s tn (dieNo g) p.ptype op w p.pa b.toNat c.toNat) with
    | none => waitAt s tn p.ptype p.pa
    | some (old, s) =>
      let s := servedAs s tn p.pa
      let s := if bad then reportMc s g (handOf s g).bound (p.pa / 4096) 4 else s
      let t := loadTag (sqOf s g q) e.ticket
      let s := loadOver (arrive s g q e.ticket dst (BitVec.ofNat 64 old) t) g q e.ticket
      acquired (entryDone s g q e.ticket) g (acquireScope e.op)

/-! ### Barrier objects (R264-R267, R275, R276) -/

/-- Fields of a barrier object's low word. -/
def boHome (lo : Word) : Nat := fld lo 47 40
def boValid (lo : Word) : Bool := bit lo 37
def boPhase (lo : Word) : Nat := fld lo 35 32
def boArrived (lo : Word) : Nat := fld lo 31 16
def boExpect (lo : Word) : Nat := fld lo 15 0
def boWaiters (lo : Word) : Nat := fld lo 51 48

/-- The two words of an object as the barrier operations see it: its zero fields read as zero, whatever a store has left there (R3,
R264). -/
def boRead (s : State) (pa : Nat) : Word × Word :=
  (BitVec.ofNat 64 (memNat s.mem pa 8) &&& 0x000FFF3FFFFFFFFF, BitVec.ofNat 64 (memNat s.mem (pa + 8) 8) &&& 0x0000FFFFFFFFFFFF)

def boWrite (s : State) (pa : Nat) (lo hi : Word) : State :=
  { s with mem := memWrite (memWrite s.mem pa (bytesOfNat 8 lo.toNat)) (pa + 8) (bytesOfNat 8 hi.toNat) }

/-- A word with the field of n bits at bit l set to v. -/
def setField (x : Word) (l n v : Nat) : Word :=
  BitVec.ofNat 64 (x.toNat - at' (bits x.toNat (l + n - 1) l) l + at' (v % 2 ^ n) l)

/-- The reply word of R275. -/
def boReply (status : Nat) (lo : Word) : Word := BitVec.ofNat 64 (at' status 56 + fld lo 55 0)

/-- A barrier operation's reply bound at its sequencer (R267): its tokens act, D5 is written with an empty tag, the
entry leaves, the sequencer goes on past the operation, where a trap has not taken it elsewhere (R330). -/
def barrierReply (s : State) (g : Nat) (q : SeqId) (ticket : Nat) (v : Word) : State :=
  match (sqOf s g q).ob.find? (fun e => e.ticket == ticket) with
  | none => s
  | some e =>
    match e.op with
    | .barrier _ _ _ k d =>
      let s := acquired (entryDone s g q ticket) g (acquireScope e.op)
      let s := modHand s g (fun h => tokenTake h q k)
      let s := match d with
        | .reg n => modSq s g q (fun x => regPut x (BitVec.ofNat 5 n) v Tag.empty)
        | _ => s
      if (sqOf s g q).awaits.any (·.2) then finish s g q k (fun y => { advance y 1 with awaits := none })
      else count (modHand s g (fun h => modSeq (tokenGive h q k none) q (fun x => { x with awaits := none }))) 0 (4 * g + seqNo q) 0 1
    | _ => s

/-- The registrations on an object at die d, and their end. -/
def regsOn (s : State) (d pa : Nat) : List Registration := (dieOf s d).regs.filter (fun r => r.pa == pa)

def endReg (s : State) (d ticket : Nat) : State := modDie s d (fun x => { x with regs := x.regs.filter (fun r => r.ticket != ticket) })

/-- The hand's WAITERS bit cleared (R264). -/
def clearWaiter (s : State) (r : Registration) : State :=
  let (lo, hi) := boRead s r.pa
  boWrite s r.pa (lo &&& ~~~(BitVec.ofNat 64 (2 ^ (48 + r.hand % 4)))) hi

/-- A sequencer back at a barrier operation that counts as not issued: it stands there still, or, where a trap has taken X into
its handler since, the handler returns there. -/
def stepBack (h : Hand) (q : SeqId) : Hand :=
  let h := match (seqOf h q).awaits with
    | some (p, false) => { h with epcXres := ptrWord p }
    | _ => h
  modSeq h q (fun x => { x with awaits := none })

/-- The barrier operations of a sequencer that satisfy p and whose reply is not bound withdrawn (R266, R270): a registration
ends and its WAITERS bit is cleared, the entry leaves the buffer. The sequencer stands as before the operation issued. -/
def withdraw (s : State) (g : Nat) (q : SeqId) (p : ObOp → Bool) : State :=
  (sqOf s g q).ob.foldl (fun s e =>
    if ¬isBarrier e.op ∨ ¬p e.op then s
    else
      let s := match e.pieces with
        | [] => s
        | p :: _ =>
          let d := homeDie p.pa
          let s := (regsOn s d p.pa).foldl (fun s r => if r.ticket = e.ticket then clearWaiter s r else s) s
          endReg s d e.ticket
      modHand s g (fun h => stepBack (modSeq h q (fun x => { x with ob := x.ob.filter (fun y => y.ticket != e.ticket) })) q)) s

/-- Whether a barrier operation is BWAIT. -/
def isBwait (op : ObOp) : Bool :=
  match op with
  | .barrier o _ _ _ _ => o == 2
  | _ => false

/-- Arrive (R276): the new object, the issuer's status, and the status of the waiters if the phase completes. -/
def arriveAt (lo hi : Word) (n : Nat) : Word × Word × Nat × Option Nat :=
  let t := boArrived lo + n
  if t < boExpect lo then (setField lo 16 16 t, hi, 0, none)
  else
    let more := decide (boExpect lo < t)
    let hi := if more then setField hi 32 16 (min (fld hi 47 32 + (t - boExpect lo)) 65535) else hi
    let lo := if more then setField lo 36 1 1 else lo
    let lo := setField (setField (setField lo 16 16 0) 32 4 (boPhase lo + 1)) 48 4 0
    let hi := setField hi 0 32 (fld hi 31 0 + 1)
    (lo, hi, if more then 1 else 0, some (if more then 2 else 0))

/-- The waiters that a completed phase wakes: those whose bit was set; the others keep waiting. -/
def wake (s : State) (d pa waiters status : Nat) (lo : Word) : State :=
  (regsOn s d pa).foldl (fun s r =>
    if bits waiters (r.hand % 4) (r.hand % 4) = 1 then barrierReply (endReg s d r.ticket) r.hand r.sq r.ticket (boReply status lo)
    else s) s

/-- An arrival of n at an object: the issuer's status, the object's low word, the state. -/
def doArrive (s : State) (pa n : Nat) : Nat × Word × State :=
  let (lo, hi) := boRead s pa
  let (lo', hi', st, done) := arriveAt lo hi n
  let s := boWrite s pa lo' hi'
  match done with
  | none => (st, lo', s)
  | some ws => (st, lo', wake s (homeDie pa) pa (boWaiters lo) ws lo')

/-- The reason of R265 for which the engine turns an operation down: 6 operand, 3 not valid, 1 cluster, 2 home easel,
5 HOME outside the partition. -/
def barrierRefusal (s : State) (g : Nat) (op : Nat) (b lo : Word) : Option Nat :=
  let badOperand := match op with
    | 0 => fld b 63 24 != 0
    | 1 => fld b 63 16 != 0 || fld b 15 0 == 0
    | 2 => fld b 31 4 != 0
    | _ => fld b 63 1 != 0
  let home := if op = 0 ∧ fld b 15 0 ≠ 0 then fld b 23 16 else boHome lo
  let anyHand := op == 3 || (op == 0 && fld b 15 0 == 0 && !boValid lo)
  if badOperand then some 6
  else if (op = 1 ∨ op = 2 ∨ op = 4) ∧ ¬boValid lo then some 3
  else if ¬anyHand ∧ home / 16 ≠ clusterNo g then some 1
  else if op = 2 ∧ home ≠ easelNo g then some 2
  else if op = 0 ∧ fld b 15 0 ≠ 0 ∧ (easelOf s home).owner ≠ some (handPart s g) then some 5
  else none

/-- The TINFO word of the sync-scope trap (R265). -/
def syncInfo (reason op va : Nat) : Word := BitVec.ofNat 64 (at' (va % 2 ^ 32) 32 + at' op 8 + reason)

/-- A barrier operation that the engine turns down: the sync-scope trap at the instruction, which counts as not issued (R265). A
sequencer that is stopped, or that a trap has taken elsewhere, stands before the instruction again and raises its trap when it
issues it again (R332). -/
def refuseBarrier (s : State) (g : Nat) (q : SeqId) (e : ObEntry) (info : Word) : State :=
  let here := canIssue s g q && (sqOf s g q).awaits.any (·.2)
  let s := modHand s g (fun h => stepBack (modSeq h q (fun x => { x with ob := x.ob.filter (fun y => y.ticket != e.ticket) })) q)
  if here then takeTrap s g q 11 info else s

/-- A barrier entry performed at the engine of its home die (R276). bad says that its line has an uncorrectable error: the object
stays, a machine check is reported, and the reply, whose error status no rule gives, is a free value (R263, log entry 38). -/
def barrierPerform (s : State) (bad : Bool) (g : Nat) (q : SeqId) (e : ObEntry) (op : Nat) (b : Word) (registered : Bool) : State :=
  match e.pieces with
  | [] => s
  | p :: _ =>
    if registered then s
    else match syncTouch s p.pa with
    | none => syncKnock s p.pa
    | some s =>
      let (lo, hi) := boRead s p.pa
      if bad then
        let (f, s) := takeFresh (reportMc s g (handOf s g).bound (p.pa / 4096) 4)
        barrierReply s g q e.ticket (Config.freeWord f)
      else match barrierRefusal s g op b lo with
      | some r =>
        refuseBarrier s g q e (syncInfo r op e.va)
      | none =>
        match op with
        | 0 =>
          if boValid lo ∧ boWaiters lo ≠ 0 then barrierReply s g q e.ticket (boReply 4 lo)
          else
            let lo' : Word := if fld b 15 0 = 0 then 0
              else BitVec.ofNat 64 (at' (fld b 23 16) 40 + at' 1 37 + fld b 15 0)
            barrierReply (boWrite s p.pa lo' 0) g q e.ticket (boReply 0 lo')
        | 1 =>
          let (st, lo', s) := doArrive s p.pa (fld b 15 0)
          barrierReply s g q e.ticket (boReply st lo')
        | 2 =>
          if (regsOn s (homeDie p.pa) p.pa).any (fun r => r.hand == g) ∨ bit lo (48 + g % 4) then
            barrierReply s g q e.ticket (boReply 4 lo)
          else if boPhase lo ≠ fld b 3 0 then barrierReply s g q e.ticket (boReply 0 lo)
          else
            let s := boWrite s p.pa (lo ||| BitVec.ofNat 64 (2 ^ (48 + g % 4))) hi
            let bound := if fld b 63 32 = 0 then none else some (s.time.toNat + 1000 * fld b 63 32)
            let s := modDie s (homeDie p.pa) (fun x => { x with
              regs := x.regs ++ [{ pa := p.pa, hand := g, sq := q, ticket := e.ticket, bound := bound }] })
            setEntry s g q { e with op := match e.op with
              | .barrier o b _ k d => .barrier o b true k d
              | o => o }
        | 3 =>
          barrierReply s g q e.ticket (if bit b 0 then BitVec.ofNat 64 (fld hi 55 0) else boReply 0 lo)
        | _ =>
          let lo' := setField (setField lo 16 16 0) 36 1 0
          let hi' := setField hi 32 16 0
          let hi' := if bit b 0 then setField hi' 0 32 0 else hi'
          barrierReply (boWrite s p.pa lo' hi') g q e.ticket (boReply 0 lo')

/-- A barrier operation at issue (R265, R267): its checks, then its entry. The sequencer stands at it until the reply. -/
def barrierIssue (op : Nat) (k : Tok) (d a b : BitVec 5) (s : State) : Res :=
  issue s k (reqCP xls [d, a, b]) fun _ _ id =>
    let g := s.focus
    let q := s.focusSq
    let x := sqOf s g q
    let va := (regGet x a).toNat
    let ts := splitPages va 16
    withPages s g q true (op != 3) [.sync] ts fun ps =>
      if va % 16 ≠ 0 then .next (takeTrap (dropWalks s g q) g q 11 (syncInfo 4 op va))
      else if ¬obRoom s g q then .next (stalled s g q 12)
      else
        let pcs := (List.zip ts ps).map (fun (t, p) =>
          pieceAt p t.va t.len 0)
        let t := obAdd { s with nextId := id + 1 } g q
          { ticket := id, op := .barrier op (regGet x b) false k (dstRef (.reg d)), tag := tagJoin (tagGet x a) (tagGet x b),
            va := va, width := 16, pieces := pcs, data := [] }
        .next (stalled (modSq (dropWalks t g q) g q (fun x => { x with awaits := some (x.pc, true) })) g q 9)

/-- BINIT (R276). -/
def execBinit (k : Tok) (d a b : BitVec 5) (s : State) : Res := barrierIssue 0 k d a b s
/-- BARV (R276). -/
def execBarv (k : Tok) (d a b : BitVec 5) (s : State) : Res := barrierIssue 1 k d a b s
/-- BWAIT (R276). -/
def execBwait (k : Tok) (d a b : BitVec 5) (s : State) : Res := barrierIssue 2 k d a b s
/-- BTEST (R276). -/
def execBtest (k : Tok) (d a b : BitVec 5) (s : State) : Res := barrierIssue 3 k d a b s
/-- BRESET (R276). -/
def execBreset (k : Tok) (d a b : BitVec 5) (s : State) : Res := barrierIssue 4 k d a b s

/-- BWAIT_TIME_BOUND_EXPIRY (R266): the registration with this ticket ends with STATUS 3 once its bound has come. -/
def execBwaitTimeBoundExpiry (ix : Nat) (s : State) : Res :=
  match ([0, 1, 2, 3].flatMap (fun d => ((dieOf s d).regs.filter (fun r => r.ticket == ix)).map (fun r => (d, r)))) with
  | [] => .next s
  | (d, r) :: _ =>
    match r.bound with
    | none => .next s
    | some t =>
      if s.time.toNat < t then .next s
      else
        let s := clearWaiter (endReg s d r.ticket) r
        .next (barrierReply s r.hand r.sq r.ticket (boReply 3 (boRead s r.pa).1))

/-! ### FENCE (R165, R277) -/

/-- FENCE (R277): a marker where some kind bit is set; its signals are held by it. On C only ENG counts, and orders
commands with commands. -/
def execFence (k : Tok) (sc : Scope) (ll ls sl ss eng uo : Bool) (s : State) : Res :=
  issue s k (reqRR none []) fun t _ id =>
    let g := s.focus
    let q := s.focusSq
    let marker : ObOp := if q = .c then .fence sc true true true true eng uo else .fence sc ll ls sl ss eng uo
    let empty := if q = .c then !eng else !(ll || ls || sl || ss || eng)
    if empty then .next (finish t g q k (fun y => advance y 1))
    else if q ≠ .c ∧ ¬obRoom s g q then .next (stalled s g q 12)
    else
      let t := obAdd t g q { ticket := id, op := marker, tag := Tag.empty, va := 0, width := 0, pieces := [], data := [] }
      let t := modHand t g (fun h => tokenGive h q k (some id))
      .next (finish t g q { wf := false, sf := false, wb := false, sb := false } (fun y => advance y 1))

/-! ### Commands of PUSHC queue 3 (R268) -/

/-- The status word of R268. -/
def syncStatus (c : EngCmd) (status detail : Nat) : Word :=
  BitVec.ofNat 64 (at' status 56 + at' detail 48 + at' (fld (c.words.getD 0 0) 31 16) 32)

/-- Whether a command of queue 3 is malformed (R268). -/
def syncMalformed (c : EngCmd) : Bool :=
  let w := fun i => c.words.getD i 0
  let kind := fld (w 0) 7 0
  let fn := fld (w 0) 14 8
  let op := bits fn 6 3
  decide (1 < kind) || bit (w 0) 15 || fld (w 0) 63 32 != 0 || w 4 != 0 || w 5 != 0 || w 6 != 0 || w 7 != 0 ||
  (if kind = 0 then
     decide (11 < op) || (decide (10 ≤ op) && bits fn 2 2 == 1) || (op != 9 && w 3 != 0)
   else fn != 0 || fld (w 2) 63 16 != 0 || w 3 != 0)

/-- The two entries of a performed or failed command pushed to ch11. -/
def syncAnswer (s : State) (c : EngCmd) (status detail : Nat) (v : Word) : State :=
  pushEng (pushEng s c.hand c.leaf 11 (syncStatus c status detail)) c.hand c.leaf 11 v

/-- A command taken out of its queue. -/
def syncLeave (s : State) (e : Nat) (c : EngCmd) : State :=
  modEasel s e (fun x => { x with syncQ := x.syncQ.filter (fun y => y.ticket != c.ticket) })

/-- SYNC_COMMAND (R268): the command at a position of the easel's queue, once nothing holds it back, is performed in one
step. bad says that its line has an uncorrectable error (R263). -/
def execSyncCommand (e ix : Nat) (bad : Bool) (s : State) : Res :=
  match (easelOf s e).syncQ[ix]? with
  | none => .next s
  | some c =>
    if ¬cmdReady s c.hand c.sq c.ticket c.tag ∨ stopsCmd s c.hand c.sq c.leaf c.ticket then .next s
    else if syncMalformed c then .next (syncAnswer (syncLeave s e c) c 8 0 0)
    else
      let w := fun i => c.words.getD i 0
      let kind := fld (w 0) 7 0
      let fn := fld (w 0) 14 8
      let len := if kind = 1 then 16 else if bits fn 2 2 = 1 then 8 else 4
      let va := (w 1).toNat
      let types := if kind = 1 then [PageType.sync] else [.normal, .sync]
      let tables := (splitPages va len).flatMap (fun t => unitTables s c.part t.va)
      if ¬unitOpen s c.part va len ∧ kind = 0 then .next (unitKnock s c.part va len)
      else if ¬unitsOpen s tables then .next (unitsKnock s tables)
      else
      let s := (splitPages va len).foldl (fun s t => walkTouched s c.part t.va) s
      match unitPages s c.part false true true types (splitPages va len) with
      | .error (_, f) => .next (syncAnswer (syncLeave s e c) c 9 f.reason 0)
      | .ok ps =>
        let pa := match ps with
          | p :: _ => physOf p va
          | [] => 0
        let ptype := (ps.map (·.ptype)).headD .sync
        if bad then .next (syncAnswer (reportMc (syncLeave s e c) c.hand c.leaf (pa / 4096) 4) c 11 0 0)
        else if kind = 0 then
          if va % len ≠ 0 then .next (syncAnswer (syncLeave s e c) c 9 5 0)
          else
            match amoStep s .unit (e / 32) ptype (bits fn 6 3) len pa (w 2).toNat (w 3).toNat with
            | none => .next (waitAt s .unit ptype pa)
            | some (old, s) => .next (syncAnswer (syncLeave s e c) c 0 0 (BitVec.ofNat 64 old))
        else if va % 16 ≠ 0 then .next (syncAnswer (syncLeave s e c) c 10 4 0)
        else match syncTouch s pa with
        | none => .next (syncKnock s pa)
        | some s =>
          match barrierRefusal s c.hand 1 (w 2) (boRead s pa).1 with
          | some r => .next (syncAnswer (syncLeave s e c) c 10 r 0)
          | none =>
            let (st, lo, s) := doArrive s pa (fld (w 2) 15 0)
            .next (syncAnswer (syncLeave s e c) c st 0 (boReply st lo))

end Sys2Proof.Machine
end

