-- ==== Sys2Proof/Machine/System.lean ====
section
/-! DEFINITION. Control and status registers (R119-R122, R188), traps, halts, yields and breakpoints (R333, R346, R347),
machine checks (R335), requests for pre-emption (R336), and the landings of C (R80, R200). -/

namespace Sys2Proof.Machine

/-! ### Vector and predicate registers (R65, R66, R195) -/

/-- The physical register of a name under the current ROT (R66). -/
def physReg (h : Hand) (n : BitVec 5) : Nat := if n.toNat < 16 then n.toNat else 16 + (n.toNat - 16 + h.rot.toNat) % 16

def zeroTile : List (BitVec 32) := List.replicate 1024 0

/-- A vector register by physical number: 1,024 elements (R195). -/
def vget (h : Hand) (n : Nat) : List (BitVec 32) := (tget zeroTile h.vregs n ++ zeroTile).take 1024

/-- A predicate register by physical number: p0 is all ones (R65). -/
def pget (h : Hand) (n : Nat) : BitVec 1024 := if n = 0 then BitVec.allOnes 1024 else tget 0 h.pregs n

/-- A tile written where a mask is set. -/
def mergeTile (mask : BitVec 1024) (old new : List (BitVec 32)) : List (BitVec 32) :=
  if mask = BitVec.allOnes 1024 then new
  else (List.range 1024).map (fun i => if mask.getLsbD i then new.getD i 0 else old.getD i 0)

/-! ### Landings (R80, R200) -/

/-- The tag that a landing's destination holds. -/
def landOldTag (h : Hand) (w : LandWhat) : Tag :=
  match w with
  | .scalar n _ => tagGet h.c (BitVec.ofNat 5 n)
  | .chan _ _ => Tag.empty
  | .vec n _ _ => tget Tag.empty h.vtags n
  | .pred n _ _ => tget Tag.empty h.ptags n

/-- A landing written to the hand's registers, with its FSTAT bits. -/
def landHand (h : Hand) (l : Landing) : Hand :=
  let t := if l.join then tagJoin l.tag (landOldTag h l.what) else l.tag
  let h := setStat h l.stat
  match l.what with
  | .scalar n v => { h with c := regPut h.c (BitVec.ofNat 5 n) v t }
  | .chan _ _ => h
  | .vec n v mask => { h with vregs := tput h.vregs n (mergeTile mask (vget h n) v), vtags := tput h.vtags n t }
  | .pred n v mask =>
    if n = 0 then h
    else { h with pregs := tput h.pregs n ((v &&& mask) ||| (pget h n &&& ~~~mask)), ptags := tput h.ptags n t }

/-- The list without its first due landing, and that landing. -/
def takeDue : List Landing → Option (Landing × List Landing)
  | [] => none
  | l :: r => if l.rem = 0 then some (l, r) else (takeDue r).map (fun (x, y) => (x, l :: y))

/-- LANDING (R80): the first due result of C lands, in issue order; a push to a channel without room stalls C. A halted C
with landings left advances its virtual time. -/
def execLanding (g : Nat) (s : State) : Res :=
  let h := handOf s g
  if ¬handLive s g ∨ h.c.frozen ∨ h.c.status = .off then .next s
  else match takeDue h.landings with
  | none =>
    if h.c.status = .halted ∧ h.landings ≠ [] then .next (modHand s g virtualCycle) else .next s
  | some (l, r) =>
    match l.what with
    | .chan n v =>
      if chanRoom s g n then
        let s := modHand s g (fun h => { landHand h l with landings := r })
        .next (chanAdd s g n { val := some v, ticket := 0, terms := termsOf (handOf s g) g .c l.tag })
      else .next (stalled s g .c 5)
    | _ => .next (modHand s g (fun h => { landHand h l with landings := r }))

/-! ### CSRs (R119-R122) -/

/-- Whether a CSR exists on a sequencer (R119): ROT to FSTAT on C, TVEC to EPC on X. -/
def csrHere (q : SeqId) (c : Csr) : Bool :=
  match c with
  | .tvec => q == .x
  | .tcause => q == .x
  | .tinfo => q == .x
  | .epc => q == .x
  | .rot => q == .c
  | .shape => q == .c
  | .palbase => q == .c
  | .algsel => q == .c
  | .frm => q == .c
  | .fstat => q == .c
  | _ => true

/-- Whether a write needs supervisor state. -/
def csrSup (c : Csr) : Bool :=
  match c with
  | .tvec => true
  | .tcause => true
  | .tinfo => true
  | .epc => true
  | .waitlim => true
  | .lbound => true
  | _ => false

/-- The ID word (R120). -/
def idWord (g : Nat) (q : SeqId) : Word :=
  BitVec.ofNat 64 (at' 9 48 + at' Config.stepping.toNat 40 + at' (seqNo q) 9 + g % 512)

/-- The PALBASE word (R188). -/
def palWord (h : Hand) : Word := BitVec.ofNat 64 (at' h.palOff.toNat 34 + at' h.palPlc.toNat 32 + h.palAddr.toNat)

/-- The value of a CSR at a sequencer. -/
def csrValue (s : State) (g : Nat) (q : SeqId) (c : Csr) : Word :=
  let h := handOf s g
  match c with
  | .id => idWord g q
  | .partid => BitVec.ofNat 64 (handPart s g % 64)
  | .lvl n => (h.lvl.getD n.toNat 0).zeroExtend 64
  | .time => s.time
  | .tvec => h.tvec.zeroExtend 64
  | .tcause => h.tcause.zeroExtend 64
  | .tinfo => h.tinfo
  | .epc => epcWord h
  | .lc n => (lcGet (seqOf h q) n).zeroExtend 64
  | .rot => h.rot.zeroExtend 64
  | .shape => shapeWord h
  | .palbase => palWord h
  | .algsel => h.algsel.zeroExtend 64
  | .frm => frmWord h
  | .fstat => h.fstat.zeroExtend 64
  | .waitlim => h.waitlim.zeroExtend 64
  | .lbound => h.lbound.zeroExtend 64

/-- CSRR (R121). -/
def execCsrr (k : Tok) (d : Dst) (c : Csr) (s : State) : Res :=
  issue s k { reqRR (some d) [] with limit := !csrHere s.focusSq c } fun t _ id =>
    let g := s.focus
    let q := s.focusSq
    .next (finish (putDst t g q id 1 d (csrValue t g q c) Tag.empty) g q k (fun y => advance y 1))

/-- A number limited to lo..hi. -/
def clampN (lo hi x : Nat) : Nat := max lo (min hi x)

/-- A CSR's fields written from a word (R122); PALBASE and the read-only CSRs are not written here. -/
def csrPut (h : Hand) (q : SeqId) (c : Csr) (v : Word) : Hand :=
  match c with
  | .tvec => { h with tvec := v.extractLsb' 0 28 }
  | .tcause => { h with tcause := v.extractLsb' 0 13 }
  | .tinfo => { h with tinfo := v }
  | .epc => { h with epcPc := v.extractLsb' 0 28, epcXres := v.extractLsb' 32 28 }
  | .lc n => modSeq h q (fun x => lcPut x n (v.extractLsb' 0 32))
  | .rot => { h with rot := v.extractLsb' 0 4 }
  | .shape => writeShape h v
  | .algsel => { h with algsel := v.extractLsb' 0 3 }
  | .frm => writeFrm h v
  | .fstat => writeStat h v
  | .waitlim => { h with waitlim := BitVec.ofNat 24 (clampN 1000 10000000 (fld v 23 0)) }
  | .lbound => { h with lbound := BitVec.ofNat 32 (clampN 1000 1000000 (fld v 31 0)) }
  | _ => h

/-- The palette loaded from 256 bytes of WB (R188). -/
def loadPalette (h : Hand) (bs : List Byte) (v : Word) : Hand :=
  { h with
    palAddr := v.extractLsb' 0 32, palPlc := v.extractLsb' 32 2, palOff := v.extractLsb' 34 4
    palette := (List.range 16).map (fun i => (i, BitVec.ofNat 128 (natOfBytes ((bs.drop (16 * i)).take 16)))) }

/-- CSRW PALBASE (R188): the fields and all 16 entries, once the range checker lets the read of WB proceed. Of a misaligned ADDR whose
bytes all lie in the window, TINFO 63:32 names ADDR itself (DESIGN CHOICE, log entry 40: R132 names the lowest address outside, and there
is none). -/
def palbaseIssue (k : Tok) (a : Src) (s : State) : Res :=
  issue s k { reqRR none [a] with limit := s.focusSq != .c } fun t vals id =>
    let g := s.focus
    let q := s.focusSq
    let v := (valOf vals 0).1
    let x := fld v 31 0
    let h := handOf s g
    match windowFault h .wb x (x + 256) with
    | some y => .next (boundsTrap s g q .wb y)
    | none =>
    if x % 256 ≠ 0 then .next (boundsTrap s g q .wb x)
    else
      let rs := [rangeOf h .wb x (x + 256) false]
      match portWait s g q id (vectorPort .wb) rs with
      | some t => .next t
      | none =>
        let t := portTaken t g (vectorPort .wb) rs
        let bs := bufRead (easelOf s (easelNo g)) .wb ((windowOf h .wb).1 + x) 256
        .next (finish (modHand t g (fun h => loadPalette h bs v)) g q k (fun y => advance y 1))

/-- PALBASE_WRITE (R188). -/
def execPalbaseWrite (k : Tok) (a : Src) (s : State) : Res := palbaseIssue k a s

/-- CSRW (R122): code 5 outside supervisor state, code 8 for a read-only CSR or one of another sequencer. The tag of A is
dropped. -/
def execCsrw (k : Tok) (a : Src) (c : Csr) (s : State) : Res :=
  if c = .palbase then palbaseIssue k a s
  else issue s k { reqRR none [a] with sup := csrSup c, limit := limitBroken (.csrw k a c) || !csrHere s.focusSq c } fun t vals _ =>
    let g := s.focus
    let q := s.focusSq
    let t := modHand t g (fun h => csrPut h q c (valOf vals 0).1)
    .next (finish t g q k (fun y => advance y 1))

/-! ### Pre-emption requests (R336) -/

/-- The bound entry of a hand's scoreboard. -/
def boundSlot (s : State) (g : Nat) : Option Slot := (tget [] s.slots g).find? (fun x => x.state == .bound)

/-- The hands of a hand's gang instance, itself included (R60). -/
def gangHands (s : State) (g : Nat) : List Nat :=
  match boundSlot s g with
  | some x =>
    if x.gang.isNone then [g]
    else (s.slots.filter (fun e => e.2.any (fun y => y.state == .bound && y.launch == x.launch && y.task == x.task && y.gang == x.gang))).map (·.1)
  | none => [g]

/-- A fresco context by its number (R309). -/
def ctxOf (s : State) (cx : Nat) : Context := tget Context.reset (chanOf s (cx / 4)).ctx (cx % 4)
def modCtx (s : State) (cx : Nat) (f : Context → Context) : State :=
  modChan s (cx / 4) (fun c => { c with ctx := tmod Context.reset c.ctx (cx % 4) f })

/-- A spill requested of a context (R319): the first requester of a live one is recorded; a later one joins it. -/
def requestSpill (s : State) (who cx : Nat) : State :=
  if ¬ctxLive (ctxOf s cx) ∨ (ctxOf s cx).spiller ≠ 0 then s
  else modCtx s cx (fun c => { c with spiller := who, state := if c.state = .running then .draining else c.state })

/-- The contexts whose jobs a leaf on hand g issued, of those that satisfy f. -/
def ctxsOf (s : State) (g : Nat) (leaf : Option Bound) (f : Context → Bool) : List Nat :=
  s.channels.flatMap (fun c => (c.2.ctx.filter (fun x => x.2.state != .idle && x.2.hand == g && x.2.leaf == leaf && f x.2)).map
    (fun x => 4 * c.1 + x.1))

/-- A pre-emption requested of one hand: its sequencers stop, and a BWAIT whose reply is not bound is withdrawn (R266, R336). A hand
that runs no leaf, or whose leaf is being pre-empted already, has nothing more to do. Each live job that the leaf issued is
asked to spill (R319), one that has not begun apart: it is saved unstarted (R337). -/
def preemptOne (s : State) (by_ g : Nat) : State :=
  if (handOf s g).bound.isNone ∨ stopping s g then s
  else
    let s := [SeqId.x, .l, .s].foldl (fun s q => withdraw s g q isBwait) s
    let p : Preempt :=
      { by_ := by_, saved := false, time := s.time.toNat, order := s.nextId, leaf := (handOf s g).bound, image := Hand.reset
        slot := boundSlot s g, copies := [], cmds := [], jobs := [] }
    let s := (ctxsOf s g (handOf s g).bound (fun c => ctxLive c && c.begun)).foldl (fun s cx => requestSpill s 2 cx) s
    { s with preempts := (g, p) :: s.preempts, nextId := s.nextId + 1 }

/-- A pre-emption requested of a hand and of its gang instance (R60, R336). -/
def requestPreempt (s : State) (by_ g : Nat) : State :=
  (gangHands s g).foldl (fun s x => preemptOne s by_ x) s

/-- SUPERVISOR_PREEMPTION_REQUEST (R336). -/
def execSupervisorPreemptionRequest (g : Nat) (s : State) : Res := asked s <| .next (requestPreempt s 1 g)

/-! ### TRAP, ERET, HALT, YIELD, BRK (R346, R347) -/

/-- The return point of the instruction at an issue point as a code pointer (R101). -/
def afterHead (s : State) (g : Nat) (q : SeqId) : Ptr := seqNext (sqOf s g q) 1

/-- TRAP (R346): issues, then traps with cause 14 at its return point. -/
def execTrap (k : Tok) (a : Src) (s : State) : Res :=
  issue s k (reqRR none [a]) fun t vals _ =>
    let g := s.focus
    let q := s.focusSq
    .next (trapAt (finish t g q k (fun y => advance y 1)) g q 14 (valOf vals 0).1 (afterHead s g q))

/-- A token field that asks for nothing. -/
def noTok : Tok := { wf := false, sf := false, wb := false, sb := false }

/-- ERET (R333): code 8 on another sequencer or outside supervisor state. -/
def execEret (s : State) : Res :=
  issue s noTok { reqRR none [] with limit := s.focusSq != .x || !(handOf s s.focus).sup } fun t _ _ =>
    .next (modHand (finish t s.focus s.focusSq noTok id) s.focus (fun h => returnTrap h s.time.toNat))

/-- A sequencer halted. -/
def haltSeq (x : Seqr) : Seqr := { x with status := if x.status = .off then .off else .halted, line := none, stall := 0, since := none }

/-- HALT (R346): on X in supervisor state every sequencer stops and the leaf ends with FAULT. -/
def execHalt (k : Tok) (s : State) : Res :=
  issue s k (reqRR none []) fun t _ _ =>
    let g := s.focus
    let q := s.focusSq
    let t := finish t g q k haltSeq
    if q = .x ∧ (handOf t g).sup then
      .next (modHand t g (fun h => { h with
        ending := some 4
        l := { haltSeq h.l with frozen := false }, c := { haltSeq h.c with frozen := false }, s := { haltSeq h.s with frozen := false } }))
    else .next t

/-- YIELD (R346): issues, then requests pre-emption of the hand and its gang instance; code 8 in supervisor state. -/
def execYield (k : Tok) (s : State) : Res :=
  issue s k { reqRR none [] with limit := (handOf s s.focus).sup } fun t _ _ =>
    .next (requestPreempt (finish t s.focus s.focusSq k (fun y => advance y 1)) 2 s.focus)

/-- BRK (R347): issues, then takes a stop that names the hand, or traps with cause 15 at its return point. -/
def execBrk (k : Tok) (c : BitVec 9) (s : State) : Res :=
  issue s k (reqRR none []) fun t _ _ =>
    let g := s.focus
    let q := s.focusSq
    let rp := afterHead s g q
    let t := finish t g q k (fun y => advance y 1)
    match (if (handOf s g).sup then none else stopMatch t g 1 (some q)) with
    | some i => .next (takeStop (trace t g 8 q (c.zeroExtend 64) ((ptrWord rp).zeroExtend 64)) g i q)
    | none =>
      let t := trapAt t g q 15 (c.zeroExtend 64) rp
      .next (trace t g 8 q (c.zeroExtend 64) (epcWord (handOf t g)))

/-! ### Machine checks (R334, R335) -/

/-- The value of a landing replaced by zero. -/
def zeroLanding (l : Landing) : Landing :=
  { l with what := match l.what with
    | .scalar n _ => .scalar n 0
    | .chan n _ => .chan n 0
    | .vec n v m => .vec n (v.map (fun _ => 0)) m
    | .pred n _ m => .pred n 0 m }

/-- A value of hand state that carries an uncorrectable error: it reads as zero (R334). Items by kind: 0 a scalar register of a sequencer,
1 and 2 a physical vector or predicate register, 3 a loop counter, 4 the held value of entry n div 16 of channel n mod 16, 8 a palette
entry, 9 an algebra slot, 10 a pending landing. -/
def zeroItem (h : Hand) (item : Option (Nat × SeqId × Nat)) : Hand :=
  match item with
  | none => h
  | some (0, q, n) => modSeq h q (fun x => regPut x (BitVec.ofNat 5 n) 0 (tagGet x (BitVec.ofNat 5 n)))
  | some (1, _, n) => { h with vregs := tdel h.vregs n }
  | some (2, _, n) => { h with pregs := tdel h.pregs n }
  | some (3, q, n) => modSeq h q (fun x => lcPut x (BitVec.ofNat 2 n) 0)
  | some (4, _, n) => { h with chans := tput h.chans (n % 16) (lmod (chanList h (n % 16)) (n / 16) (fun e => { e with val := e.val.map (fun _ => 0) })) }
  | some (8, _, n) => { h with palette := tdel h.palette n }
  | some (9, _, n) => { h with algs := tdel h.algs n }
  | some (10, _, n) => { h with landings := lmod h.landings n zeroLanding }
  | some _ => h

/-- The same with a byte of the hand's buffers among the items: kinds 5, 6 and 7 are the byte at n of its window of AB, WB and CB. -/
def zeroState (s : State) (g : Nat) (item : Option (Nat × SeqId × Nat)) : State :=
  let byte := fun (u : Buf) (n : Nat) => modEasel s (easelNo g) (fun e => bufWrite e u ((windowOf (handOf s g) u).1 + n) [0])
  match item with
  | some (5, _, n) => byte .ab n
  | some (6, _, n) => byte .wb n
  | some (7, _, n) => byte .cb n
  | i => modHand s g (fun h => zeroItem h i)

/-- The leaf that a report for a hand concerns: the one that runs there, or the one that a suspend or a stop has saved from it (R361). -/
def errLeaf (s : State) (g : Nat) : Option Bound :=
  match (handOf s g).bound with
  | some b => some b
  | none => (s.preempts.find? (fun e => e.1 == g && e.2.saved && decide (3 ≤ e.2.by_))).bind (fun e => e.2.leaf)

/-- MACHINE_CHECK (R334, R335): a report of an uncorrectable error reaches a hand, or the context that a suspend has saved from it; where
the error is of its own state, the value that carries it reads as zero. -/
def execMachineCheck (g pfn : Nat) (source : ErrorSource) (s : State) : Res :=
  let s := if source.no = 6 then zeroState s g source.item else s
  .next (reportMc s g (errLeaf s g) pfn source.no)

end Sys2Proof.Machine
end

