-- ==== Sys2Proof/Machine/Glaze.lean ====
section
/-! DEFINITION. Glaze operations (R246, R247, R252-R260): ticks, consistent tap reads, resets, exports and imports,
status, configuration, and the commands of PUSHC queue 2. -/

namespace Sys2Proof.Machine

/-! ### Issue (R254-R258) -/

/-- The glaze-region trap at the head instruction for a region index (R249). -/
def regionTrap (s : State) (g : Nat) (q : SeqId) (reason r : Nat) : State :=
  takeTrap (dropWalks s g q) g q 10 (glazeInfo reason 0 r)

/-- The registers that a GLDG writes, each with its tap (R255). -/
def tapRegs (d m : BitVec 5) : List (BitVec 5 × Nat) :=
  List.zip ((List.range 4).map (fun i => d + BitVec.ofNat 5 i)) ((List.range 4).filter (fun t => m.getLsbD t))

/-- A glaze entry put in the ordering buffer of the issuing sequencer, its reply register pending; the stall that stands
before it. -/
def glazeEnter (s t : State) (k : Tok) (id op : Nat) (args : List Word) (dst : DstRef) (tag : Tag) (va w : Nat) (pcs : List Piece) : Res :=
  let g := s.focus
  let q := s.focusSq
  if ¬obRoom s g q then .next (stalled s g q 12)
  else
    let t := awaitDst t g q id dst Tag.empty
    let t := obAdd t g q { ticket := id, op := .glaze op args dst, tag := tag, va := va, width := w, pieces := pcs, data := [] }
    .next (finish (dropWalks t g q) g q k (fun y => advance y 1))

/-- GTICK (R254). -/
def execGtick (k : Tok) (d a b : BitVec 5) (s : State) : Res :=
  issue s k (reqCP xls [d, a, b]) fun t _ id =>
    let g := s.focus
    let q := s.focusSq
    let x := sqOf s g q
    let r := fld (regGet x a) 7 0
    let desc := (regionOf (partOf s (handPart s g)) r).desc
    if cfgStallsRegion s (handPart s g) r then .next (stalled s g q 15)
    else if ¬rgValid desc then .next (regionTrap s g q 3 r)
    else if ¬rgPerTick desc then .next (regionTrap s g q 4 r)
    else glazeEnter s t k id 0 [regGet x a, regGet x b] (dstRef (.reg d)) (tagJoin (tagGet x a) (tagGet x b)) 0 0 []

/-- A piece that covers one glaze word. -/
def wordPiece (desc : BitVec 512) (va : Nat) (p : Page) : Piece :=
  pieceAt p va (rgWord desc) 0

/-- GLDG (R255): taps of one word, read in one step. -/
def execGldg (k : Tok) (d a m : BitVec 5) (s : State) : Res :=
  let lim := limitBroken (.gldg k d a m)
  issue s k { reqCP xls (a :: (if lim then [] else (tapRegs d m).map (·.1))) with limit := lim } fun t _ id =>
    let g := s.focus
    let q := s.focusSq
    let x := sqOf s g q
    let va := (regGet x a).toNat
    withPages s g q true false [.glaze] [{ va := va, len := 1 }] fun ps =>
      let p := ps.headD { part := 0, vbase := 0, size := 12, pbase := 0, kind := .so, ptype := .glaze, sup := false, w := false, rd := false, keyid := 0, layout := 0 }
      if cfgStalls s (handPart s g) va then .next (stalled s g q 15)
      else match wordFault s (handPart s g) va (physOf p va) with
      | some reason => .next (takeTrap (dropWalks s g q) g q 10 (glazeInfo reason 0 va))
      | none =>
        if ¬obRoom s g q then .next (stalled s g q 12)
        else
          let desc := ((regionAt s (handPart s g) va).map (·.2)).getD 0
          let (sq, tag) := takeLoad (sqOf t g q) id
          let t := (tapRegs d m).foldl (fun t r => awaitDst t g q id (dstRef (.reg r.1)) tag) (modSq t g q (fun _ => sq))
          let t := obAdd t g q { ticket := id, op := .glaze 1 [m.zeroExtend 64] (.reg d.toNat), tag := tagGet x a, va := va,
                                 width := rgWord desc, pieces := [wordPiece desc va p], data := [] }
          .next (finish (dropWalks t g q) g q k (fun y => advance y 1))

/-- GRST (R256). -/
def execGrst (k : Tok) (a b : BitVec 5) (s : State) : Res :=
  issue s k (reqCP xls [a, b]) fun t _ id =>
    let g := s.focus
    let q := s.focusSq
    let x := sqOf s g q
    let va := (regGet x a).toNat
    withPages s g q false true [.glaze] [{ va := va, len := 1 }] fun ps =>
      let p := ps.headD { part := 0, vbase := 0, size := 12, pbase := 0, kind := .so, ptype := .glaze, sup := false, w := false, rd := false, keyid := 0, layout := 0 }
      if cfgStalls s (handPart s g) va then .next (stalled s g q 15)
      else match wordFault s (handPart s g) va (physOf p va) with
      | some reason => .next (takeTrap (dropWalks s g q) g q 10 (glazeInfo reason 0 va))
      | none =>
        let desc := ((regionAt s (handPart s g) va).map (·.2)).getD 0
        glazeEnter s t k id 2 [regGet x b] .none (tagJoin (tagGet x a) (tagGet x b)) va (rgWord desc) [wordPiece desc va p]

/-- The length of a region's image (R252). -/
def imageLen (d : BitVec 512) : Nat := 64 + 4096 * rgSize d

/-- GEXP and GIMP (R257): the region's checks, then every page of the image. -/
def imageIssue (k : Tok) (d a b : BitVec 5) (imp : Bool) (s : State) : Res :=
  issue s k (reqCP xls [d, a, b]) fun t _ id =>
    let g := s.focus
    let q := s.focusSq
    let x := sqOf s g q
    let r := fld (regGet x a) 7 0
    let desc := (regionOf (partOf s (handPart s g)) r).desc
    let va := (regGet x b).toNat
    if cfgStallsRegion s (handPart s g) r then .next (stalled s g q 15)
    else if ¬rgValid desc then .next (regionTrap s g q 3 r)
    else if ¬rgXfer desc then .next (regionTrap s g q 5 r)
    else
      let ts := splitRange va (imageLen desc)
      withPages s g q imp (!imp) [.normal] ts fun ps =>
        let pcs := (List.zip ts ps).map (fun (t, p) =>
          pieceAt p t.va t.len (t.va - va))
        glazeEnter s t k id (if imp then 4 else 3) [regGet x a, regGet x b] (dstRef (.reg d)) (tagJoin (tagGet x a) (tagGet x b)) va (imageLen desc) pcs

/-- GEXP (R257). -/
def execGexp (k : Tok) (d a b : BitVec 5) (s : State) : Res := imageIssue k d a b false s
/-- GIMP (R257). -/
def execGimp (k : Tok) (d a b : BitVec 5) (s : State) : Res := imageIssue k d a b true s

/-- GSTAT (R258). -/
def execGstat (k : Tok) (d a : BitVec 5) (s : State) : Res :=
  issue s k (reqCP xls [d, a]) fun t _ id =>
    let x := sqOf s s.focus s.focusSq
    glazeEnter s t k id 5 [regGet x a] (dstRef (.reg d)) (tagGet x a) 0 0 []

/-! ### Jobs -/

/-- Ticks of a region accepted and not yet applied (R258). -/
def pendTicks (s : State) (part r : Nat) : Nat :=
  (s.glazeJobs.filter (fun j => j.part == part && j.region == r && j.op == 0)).foldl (fun x j => x + j.n) 0

/-- The status word of R258. -/
def regionStatus (s : State) (part r : Nat) : Word :=
  let g := regionOf (partOf s part) r
  if ¬rgValid g.desc then 0
  else
    let busy := s.glazeJobs.any (fun j => j.part == part && j.region == r && j.op != 0)
    BitVec.ofNat 64 (at' (rgTick g.desc) 32 + at' (min (pendTicks s part r) 65535) 16 + at' busy.toNat 7 + at' g.nan.toNat 6 +
      at' g.sat.toNat 5 + at' (rgPerTick g.desc).toNat 4 + at' (rgFmt g.desc) 2 + at' (rgG32 g.desc).toNat 1 + 1)

/-- The reply of a job (R254, R257, R260): to its register, to ch10, or to its node. -/
def jobReply (s : State) (j : GlazeJob) (status value : Nat) : State :=
  match j.cookie, j.node with
  | some c, _ => pushEng s j.hand j.leaf 10 (BitVec.ofNat 64 (at' status 56 + at' (if j.op = 0 then 0 else j.op - 2) 48 + at' c.toNat 32 + value % 2 ^ 32))
  | none, some n => workDone s (some n) 0 0 0
  | none, none => replyReg s j.hand j.leaf j.sq j.ticket j.dst (BitVec.ofNat 64 (at' status 56 + value % 2 ^ 32))

def dropJob (s : State) (ticket : Nat) : State := { s with glazeJobs := s.glazeJobs.filter (fun j => j.ticket != ticket) }

/-- An entry of the ordering buffer that waits for a job's place at the channels leaves it. -/
def jobPlaced (s : State) (j : GlazeJob) : State :=
  if j.cookie.isNone ∧ j.node.isNone ∧ (sqOf s j.hand j.sq).ob.any (fun e => e.ticket == j.ticket) then entryDone s j.hand j.sq j.ticket else s

/-- A tick presented everywhere and applied to every word adds its count to TICK and is answered (R246, R253). -/
def settleTick (s : State) (ticket : Nat) : State :=
  match s.glazeJobs.find? (fun j => j.ticket == ticket) with
  | none => s
  | some j =>
    if j.chans ≠ [] ∨ s.channels.any (fun c => c.2.ticks.any (fun k => k.ticket == ticket)) then s
    else
      let s := modRegion s j.part j.region (fun r =>
        { r with desc := BitVec.ofNat 512 (r.desc.toNat - at' (rgTick r.desc) 480 + at' ((rgTick r.desc + j.n) % 2 ^ 32) 480) })
      jobReply (dropJob s ticket) j 0 (rgTick (regionOf (partOf s j.part) j.region).desc)

/-- A job accepted: a tick of no ticks is answered at once, any other has still to be presented at the region's
channels, a tick to take its place there and a transfer to place its hold. -/
def acceptJob (s : State) (j : GlazeJob) : State :=
  let r := regionOf (partOf s j.part) j.region
  if j.op = 0 ∧ j.n = 0 then jobReply (jobPlaced s j) j 0 (rgTick r.desc)
  else { s with glazeJobs := s.glazeJobs ++ [{ j with chans := channelsOf r }] }

/-- Whether an earlier job on the same region has not ended: a tick is taken, and an image transferred, once none is left. -/
def jobBehind (s : State) (j : GlazeJob) : Bool :=
  (s.glazeJobs.takeWhile (fun x => x.ticket != j.ticket)).any (fun x => x.part == j.part && x.region == j.region)

/-- TICK_PRESENT (R247): a tick takes its place, or an export or import its hold (R252), in the order of one of its channels. -/
def execTickPresent (ch ix : Nat) (s : State) : Res :=
  match s.glazeJobs[ix]? with
  | none => .next s
  | some j =>
    if ¬j.chans.contains ch ∨ jobBehind s j then .next s
    else if j.op ≠ 0 then
      let j' := { j with chans := j.chans.filter (fun c => c != ch), holds := ch :: j.holds }
      let s := { s with glazeJobs := s.glazeJobs.map (fun x => if x.ticket = j.ticket then j' else x) }
      .next (if j'.chans = [] then jobPlaced s j else s)
    else
      let r := regionOf (partOf s j.part) j.region
      let j' := { j with chans := j.chans.filter (fun c => c != ch) }
      let t : TickJob := { ticket := j.ticket, part := j.part, region := j.region, tick0 := rgTick r.desc, n := j.n, words := wordsIn r ch j.n }
      let s := modChan { s with glazeJobs := s.glazeJobs.map (fun x => if x.ticket = j.ticket then j' else x) } ch
        (fun c => { c with ticks := c.ticks ++ [t] })
      .next (if j'.chans = [] then jobPlaced s j else s)

/-- One word of a channel's oldest tick advanced by one tick, with no regard to the bank (R253). -/
def advanceOne (s : State) (ch : Nat) : State :=
  match (chanOf s ch).ticks with
  | [] => s
  | t :: rest =>
    let ended := fun (s : State) => settleTick (modChan s ch (fun c => { c with ticks := rest })) t.ticket
    match t.words with
    | [] => ended s
    | (pa, left) :: ws =>
      let s := servedAs (advanceWord s ch t pa left) (.known t.ticket 0) pa
      if left ≤ 1 ∧ ws = [] then ended s else s

/-- WORD_ADVANCE (R253): enabled while the channel takes accesses to that word. -/
def execWordAdvance (ch : Nat) (s : State) : Res :=
  match (chanOf s ch).ticks with
  | [] => .next s
  | t :: _ =>
    match t.words with
    | [] => .next (advanceOne s ch)
    | (pa, _) :: _ => if chanOpen s (.known t.ticket 0) pa then .next (advanceOne s ch) else .next (knockAs s (.known t.ticket 0) pa)

/-- The physical address of an image byte on the pages that were translated for it. -/
def imageAt (j : GlazeJob) (i : Nat) : Nat :=
  match j.image.find? (fun p => decide (p.vbase ≤ j.imgVa + i) && decide (j.imgVa + i < p.vbase + 2 ^ p.size)) with
  | some p => physOf p (j.imgVa + i)
  | none => 0

/-- The physical address of a region's byte, counted in word order. -/
def partAt : List (Nat × Nat × Nat) → Nat → Nat
  | [], _ => 0
  | x :: r, i => if i < x.2.2 then x.2.1 + i else partAt r (i - x.2.2)

/-- Whether the next access of a transfer reads: an import's image, or the words that an export copies. -/
def jobReads (j : GlazeJob) : Bool := j.held == [] && (j.op == 4 || j.pos != 0)

/-- The physical address of the next access of a transfer: an export reads words and writes the image, an import the other way; an
export's first write is its descriptor. -/
def jobAddr (s : State) (j : GlazeJob) : Nat :=
  if jobReads j == (j.op == 4) then imageAt j j.pos else partAt (regionParts (regionOf (partOf s j.part) j.region)) (j.pos - 64)

/-- Whether the channel takes it. -/
def jobOpen (s : State) (tn : Turn) (j : GlazeJob) : Bool := chanOpen s tn (jobAddr s j)

/-- The descriptor after an import (R252): MODE, PRE, RND, the coefficients and TICK are the image's. -/
def importDesc (d i : BitVec 512) : BitVec 512 :=
  let keep := BitVec.ofNat 512 (2 ^ 320 - 1 - (2 ^ 71 - 2 ^ 67))
  (d &&& keep) ||| (i &&& ~~~keep)

/-- Whether an image's descriptor is turned down: CLASS, SFMT or SIZEPG differ (R252), or a zero field is not zero (R3, log entry
38). -/
def importBad (d i : BitVec 512) : Bool :=
  rgG32 i != rgG32 d || rgFmt i != rgFmt d || rgSize i != rgSize d || fld i 319 145 != 0 || fld i 127 73 != 0

/-- 32 bytes of words written from an image. -/
def importGranule (s : State) (d : BitVec 512) (pa : Nat) (bs : List Byte) : State :=
  let m := memWrite s.mem pa bs
  { s with mem := (List.range (32 / rgWord d)).foldl (fun m i =>
      let a := pa + rgWord d * i
      memWrite m a (fwordBytes d (cleanWord d (readFWord m d a)))) m }

/-- A job replaced by what it has become. -/
def setJob (s : State) (j : GlazeJob) : State := { s with glazeJobs := s.glazeJobs.map (fun x => if x.ticket = j.ticket then j else x) }

/-- A transfer's read: words as loads see them, an import's descriptor, whose mismatch ends it, or 32 bytes of its image. -/
def jobRead (s : State) (j : GlazeJob) : State :=
  let g := regionOf (partOf s j.part) j.region
  let pa := jobAddr s j
  let s' := chanRead s pa
  if j.op = 3 then setJob s' { j with held := (List.range (32 / rgWord g.desc)).flatMap (fun i => wordSeen g.desc s.mem (pa + rgWord g.desc * i)) }
  else if j.pos ≠ 0 then setJob s' { j with held := memRead s.mem pa 32 }
  else
    let i := BitVec.ofNat 512 (natOfBytes (memRead s.mem pa 64))
    if importBad g.desc i then jobReply (dropJob s' j.ticket) j 4 0 else setJob s' { j with pos := 64, desc := i }

/-- A transfer's write, of what it has read or of an export's descriptor; the last one ends it. -/
def jobWrite (s : State) (j : GlazeJob) : State :=
  let g := regionOf (partOf s j.part) j.region
  let len := imageLen g.desc
  let pa := jobAddr s j
  let n := if j.pos = 0 then 64 else 32
  let bs := if j.pos = 0 then bytesOfNat 64 g.desc.toNat else j.held
  let s := chanWrote (if j.op = 3 then { s with mem := memWrite s.mem pa bs } else importGranule s (importDesc g.desc j.desc) pa bs) pa
  if j.pos + n < len then setJob s { j with pos := j.pos + n, held := [] }
  else
    let s := if j.op = 3 then s else modRegion s j.part j.region (fun r => { r with desc := importDesc g.desc j.desc })
    jobReply (dropJob s j.ticket) j 0 len

/-- GLAZE_HOLD (R252): a transfer makes its next access, its descriptor first and then 32 bytes of words at a time, once it holds every
channel of the region and the channel takes the access (R156). The last one lifts the holds. bad reports an uncorrectable
memory error of a read, which ends the job with the bytes that have moved. -/
def execGlazeHold (ix : Nat) (bad : Bool) (s : State) : Res :=
  match s.glazeJobs[ix]? with
  | none => .next s
  | some j =>
    let tn := Turn.known j.ticket 0
    let pa := jobAddr s j
    if j.op = 0 ∨ j.chans ≠ [] ∨ jobBehind s j then .next s
    else if ¬jobOpen s tn j then .next (knockAs s tn pa)
    else if bad ∧ jobReads j then .next (reportMc (jobReply (dropJob s j.ticket) j 1 j.pos) j.hand j.leaf (pa / 4096) 2)
    else .next (servedAs (if jobReads j then jobRead s j else jobWrite s j) tn pa)

/-! ### Glaze-control commands (R260) -/

/-- Whether a command of queue 2 is malformed. -/
def glazeMalformed (w : Nat → Word) : Bool :=
  let op := fld (w 0) 7 0
  decide (3 < op) || fld (w 0) 63 16 != 0 || (op == 3 && w 1 != 0) || w 3 != 0 || w 4 != 0 || w 5 != 0 || w 6 != 0 || w 7 != 0

/-- An answer of the engine on ch10. -/
def glazeAnswer (s : State) (c : EngCmd) (status value : Nat) : State :=
  pushEng s c.hand c.leaf 10 (BitVec.ofNat 64 (at' (status % 256) 56 + at' (fld (c.words.getD 0 0) 7 0) 48 +
    at' (fld (c.words.getD 2 0) 15 0) 32 + value % 2 ^ 32))

/-- A command turned down with a status, for which no rule gives a VALUE: that is a free value (log entry 36). -/
def glazeStatus (s : State) (c : EngCmd) (status : Nat) : State :=
  let (n, s) := takeFresh s
  glazeAnswer s c status (Config.freeWord n).toNat

/-- GLAZE_CONTROL_COMMAND (R260): the command at a position of the easel's queue, once nothing holds it back. A failed
translation of an image has no status of its own: its STATUS is a free value. -/
def execGlazeControlCommand (e ix : Nat) (s : State) : Res :=
  match (easelOf s e).glazeQ[ix]? with
  | none => .next s
  | some c =>
    if ¬cmdReady s c.hand c.sq c.ticket c.tag ∨ stopsCmd s c.hand c.sq c.leaf c.ticket then .next s
    else
      let w := fun i => c.words.getD i 0
      let op := fld (w 0) 7 0
      let r := fld (w 0) 15 8
      let g := regionOf (partOf s c.part) r
      let s' := modEasel s e (fun x => { x with glazeQ := x.glazeQ.filter (fun y => y.ticket != c.ticket) })
      let j : GlazeJob := { ticket := c.ticket, part := c.part, region := r, op := 0, n := fld (w 1) 15 0, image := [], imgVa := 0,
                            hand := c.hand, sq := c.sq, leaf := c.leaf, dst := .none, cookie := some ((w 2).extractLsb' 0 16),
                            node := none, chans := [], holds := [], pos := 0, held := [], desc := 0, words := c.words }
      if glazeMalformed w then .next (glazeStatus s' c 8)
      else if op = 3 then .next (glazeAnswer s' c 0 (fld (regionStatus s c.part r) 31 0))
      else if cfgStallsRegion s c.part r then .next s
      else if ¬rgValid g.desc then .next (glazeStatus s' c 3)
      else if op = 0 then
        if ¬rgPerTick g.desc then .next (glazeStatus s' c 4) else .next (acceptJob s' j)
      else if ¬rgXfer g.desc then .next (glazeStatus s' c 5)
      else
      let ts := splitRange (w 1).toNat (imageLen g.desc)
      let tables := ts.flatMap (fun t => unitTables s c.part t.va)
      let s' := ts.foldl (fun s t => walkTouched s c.part t.va) s'
      if ¬unitsOpen s tables then .next (unitsKnock s tables)
      else match unitPages s c.part false (op == 2) (op == 1) [.normal] ts with
      | .error _ =>
        let (n, s'') := takeFresh s'
        .next (glazeStatus s'' c (fld (Config.freeWord n) 7 0))
      | .ok ps => .next (acceptJob s' { j with op := op + 2, image := ps, imgVa := (w 1).toNat })

/-! ### GCFG (R259) -/

/-- The first failed check of a descriptor (R259), translation apart. -/
def cfgFault (s : State) (part r : Nat) (d : BitVec 512) : Option Nat :=
  let inf : FVal → Bool := fun v => match v with
    | .fin _ _ _ => false
    | _ => true
  let others := (partOf s part).regions.filter (fun e => e.1 != r && rgValid e.2.desc)
  if fld d 319 145 ≠ 0 ∨ fld d 127 73 ≠ 0 ∨ rgFmt d = 3 ∨ (rgG32 d ∧ rgFmt d ≠ 0) then some 2
  else if ¬rgValid d then none
  else if rgSize d < 1 ∨ 65536 < rgSize d ∨ rgBase d % 4096 ≠ 0 then some 3
  else if inf (rgB0 d) ∨ inf (rgB1 d) ∨ inf (rgB2 d) ∨ inf (rgA1 d) ∨ inf (rgA2 d) then some 4
  else if (bindPages s part (rgBase d + 4096 * rgSize d) 65536 (rgBase d)).isNone then some 5
  else if others.any (fun e => decide (rgBase e.2.desc < rgBase d + 4096 * rgSize d) &&
      decide (rgBase d < rgBase e.2.desc + 4096 * rgSize e.2.desc)) then some 6
  else none

/-- Whether an access or operation already enqueued touches region r or the ranges of an old and a new descriptor (R259
step 4). -/
def glazeOutstanding (s : State) (part r : Nat) (old new : BitVec 512) : Bool :=
  let on := fun (va : Nat) => (rgValid old && rgCovers old va) || (rgValid new && rgCovers new va)
  let onPage := fun (p : Page) => p.ptype == .glaze && (pageMeets p part (rgBase old) (4096 * rgSize old * (rgValid old).toNat) ||
    pageMeets p part (rgBase new) (4096 * rgSize new * (rgValid new).toNat))
  s.hands.any (fun h => handPart s h.1 == part && [h.2.x, h.2.l, h.2.s].any (fun q => q.ob.any (fun e =>
    glazeRegionOf e == some r || e.pieces.any (fun p => p.ptype == .glaze && !p.done && on p.va)))) ||
  s.glazeJobs.any (fun j => j.part == part && j.region == r) ||
  s.easels.any (fun e => e.2.copyQ.any (fun c => c.part == part && (c.pages ++ c.srcPages).any onPage)) ||
  s.preempts.any (fun e => e.2.copies.any (fun c => c.1.part == part && (c.1.pages ++ c.1.srcPages).any onPage))

/-- A descriptor applied to an entry (R259 step 5). -/
def cfgApply (s : State) (part r : Nat) (d : BitVec 512) : State :=
  let old := regionOf (partOf s part) r
  if ¬rgValid d then modRegion s part r (fun _ => { Region.reset with desc := d })
  else if rgValid old.desc ∧ rgBase old.desc = rgBase d ∧ rgSize old.desc = rgSize d ∧ rgG32 old.desc = rgG32 d ∧ rgFmt old.desc = rgFmt d then
    let moved := rgPerTick old.desc != rgPerTick d
    let s := modRegion s part r (fun x => { x with desc := d, nan := false, sat := false, wait := none })
    if moved ∨ rgG32 d then
      allWords s part r (fun w => { w with xacc := if moved then 0 else w.xacc, count := if moved then 0 else w.count, tick := rgTick d })
    else s
  else
    let ps := (bindPages s part (rgBase d + 4096 * rgSize d) 65536 (rgBase d)).getD []
    let s := modRegion s part r (fun _ => { desc := d, pages := ps, nan := false, sat := false, wait := none })
    let s := { s with mem := (regionParts (regionOf (partOf s part) r)).foldl (fun m x => memZero m x.2.1 x.2.2) s.mem }
    if rgG32 d then allWords s part r (fun w => { w with tick := rgTick d }) else s

/-- GCFG (R259): X in supervisor state reads and checks the descriptor, waits for the glaze accesses before it, and applies
the descriptor. -/
def execGcfg (k : Tok) (ix : BitVec 8) (r : BitVec 5) (s : State) : Res :=
  issue s k { reqCP [.x] [r] with sup := true } fun t _ _ =>
    let g := s.focus
    let x := sqOf s g .x
    let part := handPart s g
    let i := ix.toNat
    let va := (regGet x r).toNat
    let bad := fun (detail : Nat) => Host.Outcome.next (takeTrap (dropWalks (modRegion s part i (fun y => { y with wait := none })) g .x) g .x 10 (glazeInfo 6 detail i))
    if ¬tagEmpty (tagGet x r) then .next (stalled s g .x 7)
    else if va % 64 ≠ 0 then bad 1
    else withPages s g .x true false scalarTypes [{ va := va, len := 64 }] fun ps =>
      let p := ps.headD { part := 0, vbase := 0, size := 12, pbase := 0, kind := .so, ptype := .glaze, sup := false, w := false, rd := false, keyid := 0, layout := 0 }
      if p.ptype ≠ .normal then bad 1
      else
        let pc : Piece := pieceAt p va 64 0
        if ¬mayRead s g .x pc then .next (readWaits s g .x [pc])
        else
          let (bs, t) := pointRead t (dieNo g) p.kind p.ptype pc.pa 64
          let d := BitVec.ofNat 512 (natOfBytes bs)
          let tables := if rgValid d then bindTables s part (rgBase d + 4096 * rgSize d) 65536 (rgBase d) else []
          if ¬unitsOpen s tables then .next (unitsKnock (stalled s g .x 14) tables)
          else match cfgFault s part i d with
          | some detail => bad detail
          | none =>
            if glazeOutstanding s part i (regionOf (partOf s part) i).desc d then
              .next (stalled (modRegion s part i (fun y => { y with wait := some (g, d) })) g .x 15)
            else .next (finish (dropWalks (cfgApply t part i d) g .x) g .x k (fun y => advance y 2))

end Sys2Proof.Machine
end

