-- ==== Sys2Proof/Machine/Copy.lean ====
section
/-! DEFINITION. Copies (R131, R136-R142, R148-R153, R166, R238): shape records, the box, the checks at enqueue, the
accesses of a copy engine, completion, and global copies. The copy engine that carries a copy node out is a unit of a die
(R152): its queue stands under the number 512 + die beside the queues of the easels. -/

namespace Sys2Proof.Machine

/-! ### Shape records (R136) -/

/-- Block i of a record, its fields. -/
def tsrDim (n : BitVec 1024) (i : Nat) : Dim :=
  let b := 128 + 128 * i
  { extent := fld n (b + 31) b, box := fld n (b + 47) (b + 32), gstride := signed 40 (fld n (b + 103) (b + 64)),
    bstride := fld n (b + 127) (b + 104) }

def tsrNdim (n : BitVec 1024) : Nat := fld n 92 90
def tsrComps (n : BitVec 1024) : Nat := 2 ^ fld n 89 88
def tsrFmt (n : BitVec 1024) : BitVec 24 := n.extractLsb' 64 24

/-- The five coordinates of an origin word (R138). -/
def originOf (w : Nat) : List Int := (List.range 5).map (fun i => signed 12 (bits w (12 * i + 11) (12 * i)))

/-- The first failing reason 3 to 5 of R140 for a record and its use; globl leaves BSTRIDE out (R152). -/
def tsrFault (n : BitVec 1024) (o : List Int) (op : OutOp) (globl : Bool) : Option Nat :=
  let nd := tsrNdim n
  let below := fun (i : Nat) => decide (i < nd)
  let badDim := fun (i : Nat) =>
    let b := 128 + 128 * i
    let d := tsrDim n i
    if below i then
      fld n (b + 63) (b + 48) != 0 || d.extent == 0 || decide (4096 < d.box) ||
      (i == 0 && (d.gstride != 0 || (!globl && d.bstride != 0)))
    else fld n (b + 127) b != 0 || o.getD i 0 != 0
  match fmtOf (tsrFmt n) with
  | none => some 3
  | some f =>
    if fld n 1023 768 ≠ 0 ∨ fld n 95 93 ≠ 0 ∨ nd < 1 ∨ 5 < nd ∨ (List.range 5).any badDim then some 3
    else if f.cbits = 4 ∧ ((tsrDim n 0).box * tsrComps n % 2 ≠ 0 ∨ o.getD 0 0 * (tsrComps n : Int) % 2 ≠ 0) then some 4
    else if (op = .addF32 ∧ f ≠ fp32) ∨ (op = .addBf16 ∧ f ≠ bf16) ∨ (op = .max ∧ f ≠ fp32 ∧ f ≠ bf16 ∧ f ≠ int32) then some 5
    else none

/-- A command with the geometry of a record and an origin. -/
def withShape (c : CopyCmd) (n : BitVec 1024) (o : List Int) : CopyCmd :=
  { c with dims := (List.range (tsrNdim n)).map (tsrDim n), origin := o, comps := tsrComps n, fmt := tsrFmt n,
           cbits := ((fmtOf (tsrFmt n)).map Fmt.cbits).getD 8, fill := n.extractLsb' 96 32 }

/-- The TINFO word of the command-size trap (R140). -/
def sizeInfo (reason va : Nat) : Word := BitVec.ofNat 64 (at' (va % 2 ^ 32) 32 + reason)

/-- The reason of R249 for an element of len bytes of which the part t lies on glaze page p. -/
def elemReason (s : State) (c : CopyCmd) (store : Bool) (p : Page) (t : Touch) (len : Nat) : Option Nat :=
  match regionOn s c.part t.va (physOf p t.va) with
  | none => some 1
  | some _ =>
    if c.comps ≠ 1 ∨ c.cbits < 16 ∨ (store ∧ c.outOp ≠ .copy) ∨ t.len ≠ len then some 2
    else if store then sampleFault s c.part t.va (physOf p t.va) len
    else tapFault s c.part t.va (physOf p t.va) len

/-- The first failing element that touches a glaze page, in element order: its reason and address (R249). -/
def glazeElemFault (s : State) (c : CopyCmd) (base : Nat) (ps : List Page) (store : Bool) : Option (Nat × Nat) :=
  if ¬ps.any (fun p => p.ptype == .glaze) then none
  else (List.range c.count).findSome? (fun n =>
    let co := coordsOf c.dims n
    let h := gHalf base (gOff c co)
    let len := byteSpan h c.eh
    if ¬elemInside c co then none
    else (splitRange (h / 2) len).findSome? (fun t => match pageAt ps c.part t.va with
      | none => none
      | some p => if p.ptype ≠ .glaze then none else (elemReason s c store p t len).map (fun r => (r, t.va))))

/-- The page types that a copy admits (R127). -/
def copyTypes (store : Bool) (op : OutOp) : List PageType := if store ∧ op ≠ .copy then [.normal, .glaze] else [.normal, .glaze, .code]

/-! ### Enqueue (R140, R142, R148, R149, R238) -/

/-- The operands of a copy. -/
structure CopyArgs where
  kind : CopyKind
  t    : BitVec 5
  ts   : BitVec 5
  b    : BitVec 5
  o    : BitVec 5
  x    : Option (BitVec 5)
  u    : Buf
  sc   : Scope
  acq  : Bool
  rel  : Bool
  op   : OutOp
  cl   : Clip
  deriving DecidableEq, Repr

/-- Checks 3 to 6 of R140 on a command of known shape, and the waits behind them; k takes the command with its pages. -/
def boxChecks (s : State) (g : Nat) (q : SeqId) (y : CopyArgs) (c : CopyCmd) (tsr : Nat) (k : CopyCmd → Res) : Res :=
  let h := handOf s g
  let store := c.kind != .inn
  let base := if store then c.dst else c.src
  let breg := (regGet (seqOf h q) y.b).toNat
  let span := boxSpan c
  match (if c.kind ≠ .drain ∧ 2 ^ 32 ≤ breg then some breg else windowFault h c.buf span.1 span.2) with
  | some x => .next (boundsTrap (dropWalks s g q) g q c.buf x)
  | none =>
    if store ∧ c.buf = .wb then .next (engineListTrap (dropWalks s g q) g q false)
    else if y.x.isSome ∧ 2 ^ 52 ≤ base then .next (xlTrap s g q base store { cause := 5, reason := 1, level := 7 })
    else withPages s g q (!store) store (copyTypes store c.outOp) (rowTouches c base) fun ps =>
      let ps := distinct ps
      if ps.any (fun p => p.ptype == .glaze) ∧ (rowTouches c base).any (fun t => cfgStalls s c.part t.va) then .next (stalled s g q 15)
      else match glazeElemFault s c base ps store with
      | some (r, va) => .next (takeTrap (dropWalks s g q) g q 10 (glazeInfo r 0 va))
      | none =>
        if 256 < ps.length then .next (takeTrap (dropWalks s g q) g q 7 (sizeInfo 1 tsr))
        else k { c with pages := ps }

/-- COPY, COPYX and DRAIN at issue: the wait for the record's tag, its translation and reading, the checks of R140, the
waits for room and tokens, then the command, its load slot and its range-checker entry. -/
def copyIssue (k : Tok) (y : CopyArgs) (limit : Bool) (s : State) : Res :=
  let opRegs := [y.ts, y.b, y.o] ++ y.x.toList
  issue s noTok { reqCP [if y.kind = .inn then .l else .s] (y.t :: opRegs) with limit := limit } fun t _ id =>
    let g := s.focus
    let q := s.focusSq
    let h := handOf s g
    let z := sqOf s g q
    let tsr := (regGet z y.ts).toNat
    let size := fun (r : Nat) => Host.Outcome.next (takeTrap (dropWalks s g q) g q 7 (sizeInfo r tsr))
    if ¬tagEmpty (tagGet z y.ts) then .next (stalled s g q 7)
    else withPages s g q true false scalarTypes [{ va := tsr, len := if tsr % 128 = 0 then 128 else 1 }] fun tps =>
      match tps with
      | [] => .next s
      | p :: _ =>
        if tsr % 128 ≠ 0 ∨ p.ptype ≠ .normal then size 2
        else
          let pc : Piece := pieceAt p tsr 128 0
          if ¬mayRead s g q pc then .next (readWaits s g q [pc])
          else
            let (bs, t) := pointRead t (dieNo g) p.kind p.ptype pc.pa 128
            let n := BitVec.ofNat 1024 (natOfBytes bs)
            let o := originOf (regGet z y.o).toNat
            match tsrFault n o y.op false with
            | some r => size r
            | none =>
              let base := match y.x with
                | some x => (regGet z x).toNat
                | none => fld n 63 0
              let b := (regGet z y.b).toNat
              let c : CopyCmd := withShape
                { mkGlobal s g q id (tagUnion (opRegs.map (tagGet z))) [] with
                  kind := y.kind, acq := y.acq, rel := y.rel, scope := y.sc, outOp := y.op, clip := y.cl, buf := y.u
                  baddr := b % 2 ^ 32, rowStep := if y.kind = .drain then some (b / 2 ^ 32) else none
                  src := if y.kind = .inn then base else 0, dst := if y.kind = .inn then 0 else base
                  token := if y.t = 0 then none else some y.t.toNat } n o
              boxChecks s g q y c tsr fun c =>
                if 64 ≤ (easelOf s (easelNo g)).copyQ.length ∨ ¬rcRoom s g then .next (stalled s g q 12)
                else match tokenWait h q k with
                | some w => .next (stalled s g q w)
                | none =>
                  let t := modHand t g (fun h => tokenTake h q k)
                  let (sq, slot) := takeLoad (sqOf t g q) id
                  let t := if y.kind = .inn then modSq t g q (fun _ => sq) else t
                  let t := awaitDst t g q id (dstRef (.reg y.t)) (if y.kind = .inn then slot else Tag.empty)
                  let span := boxSpan c
                  let t := rcEnter t g { ticket := id, hand := g, sq := q, tag := Tag.empty, what := .cmd
                                         ranges := if c.count = 0 then [] else [rangeOf h c.buf span.1 span.2 (y.kind == .inn)] }
                  let t := modEasel t (easelNo g) (fun e => { e with copyQ := e.copyQ ++ [c] })
                  .next (finish (dropWalks t g q) g q k (fun w => advance w 2))

/-- COPY_IN (R148). -/
def execCopyIn (k : Tok) (t ts b o : BitVec 5) (u : Buf) (sc : Scope) (acq rel : Bool) (op : OutOp) (cl : Clip) (s : State) : Res :=
  copyIssue k { kind := .inn, t := t, ts := ts, b := b, o := o, x := none, u := u, sc := sc, acq := acq, rel := rel, op := op, cl := cl }
    (limitBroken (.copyIn k t ts b o u sc acq rel op cl)) s
/-- COPY_OUT (R148). -/
def execCopyOut (k : Tok) (t ts b o : BitVec 5) (u : Buf) (sc : Scope) (acq rel : Bool) (op : OutOp) (cl : Clip) (s : State) : Res :=
  copyIssue k { kind := .out, t := t, ts := ts, b := b, o := o, x := none, u := u, sc := sc, acq := acq, rel := rel, op := op, cl := cl }
    false s
/-- COPYX_IN (R149). -/
def execCopyxIn (k : Tok) (t ts b o g : BitVec 5) (u : Buf) (sc : Scope) (acq rel : Bool) (op : OutOp) (cl : Clip) (s : State) : Res :=
  copyIssue k { kind := .inn, t := t, ts := ts, b := b, o := o, x := some g, u := u, sc := sc, acq := acq, rel := rel, op := op, cl := cl }
    (limitBroken (.copyxIn k t ts b o g u sc acq rel op cl)) s
/-- COPYX_OUT (R149). -/
def execCopyxOut (k : Tok) (t ts b o g : BitVec 5) (u : Buf) (sc : Scope) (acq rel : Bool) (op : OutOp) (cl : Clip) (s : State) : Res :=
  copyIssue k { kind := .out, t := t, ts := ts, b := b, o := o, x := some g, u := u, sc := sc, acq := acq, rel := rel, op := op, cl := cl }
    false s
/-- DRAIN (R238): a copy-out of CB with the row step in the upper half of C. -/
def execDrain (k : Tok) (t c ts o : BitVec 5) (sc : Scope) (acq rel : Bool) (op : OutOp) (cl : Clip) (s : State) : Res :=
  copyIssue k { kind := .drain, t := t, ts := ts, b := c, o := o, x := none, u := .cb, sc := sc, acq := acq, rel := rel, op := op, cl := cl }
    false s

/-! ### CPQRY (R150) -/

/-- Destination half-bytes of a command, the clipped ones of a copy-out left out. -/
def CopyCmd.size (c : CopyCmd) : Nat :=
  let inside := prod ((ranges c).map (fun r => r.2 - r.1)) * c.eh
  match c.kind with
  | .inn => c.total
  | .out => inside
  | .drain => inside
  | _ => if c.clip = .fill then c.total else inside

/-- The reply of CPQRY. -/
def cpqryWord (s : State) (g : Nat) (a : Word) : Word :=
  let e := easelOf s (easelNo g)
  let own := e.copyQ.filter (fun c => c.hand == g && (c.kind == .inn || c.kind == .out || c.kind == .drain))
  match a.toNat with
  | 0 => BitVec.ofNat 64 own.length
  | 1 => BitVec.ofNat 64 (64 - e.copyQ.length)
  | 2 => BitVec.ofNat 64 (128 - e.rc.length)
  | 3 => match own with
    | [] => 0
    | c :: _ => BitVec.ofNat 64 ((c.size - c.bytes + 1) / 2)
  | _ => BitVec.allOnes 64

/-- CPQRY (R150): the engine answers from its state when it receives the command, here at issue; the reply is on its way at
once, and D is pending until it arrives. -/
def execCpqry (k : Tok) (d a : BitVec 5) (s : State) : Res :=
  issue s k (reqCP everywhere [d, a]) fun t _ id =>
    let g := s.focus
    let q := s.focusSq
    let r : Late := { ticket := id, dst := dstRef (.reg d), due := none, val := cpqryWord t g (regGet (sqOf t g q) a), tag := Tag.empty }
    let t := if d = 0 then t else modSq (awaitDst t g q id r.dst Tag.empty) g q (fun x => { x with late := x.late ++ [r] })
    .next (finish t g q k (fun y => advance y 1))

/-! ### The accesses of an engine (R139, R166) -/

/-- The die whose unit an engine is. -/
def engineDie (e : Nat) : Nat := if 512 ≤ e then e - 512 else e / 32

/-- Whether a pre-emption stops a command (R337): copies that move plain data, at a segment boundary, and global copies that
are not yet checked. -/
def stoppable (c : CopyCmd) : Bool :=
  match c.kind with
  | .inn => true
  | .out => c.outOp == .copy && !(c.pages.any (fun p => p.ptype == .glaze))
  | .drain => false
  | .command => true
  | .global => false
  | .node _ _ => false
  | .prefetch _ _ => false

/-- Whether a command stands at the start of a 64 KiB segment of its destination. -/
def atSegment (c : CopyCmd) : Bool := c.bytes % 131072 == 0

/-- Whether an engine may start a command: its tag, the acquires and fences before it (R166), and with ACQ every earlier
load. A node's copy and a prefetch have no issuing sequencer. -/
def copyReady (s : State) (c : CopyCmd) : Bool :=
  match c.kind with
  | .node _ _ => true
  | .prefetch _ _ => true
  | _ => cmdReady s c.hand c.sq c.ticket c.tag &&
    !(c.acq && (sqOf s c.hand c.sq).ob.any (fun e => decide (e.ticket < c.ticket) && !isFence e.op && countsLoad e.op))

/-- Half-bytes of a fill pattern from an element position on (R138). -/
def fillNibbles (c : CopyCmd) (pos : Nat) : Nat → Nat
  | 0 => 0
  | n + 1 => bits c.fill.toNat (4 * (pos % (c.cbits / 4)) + 3) (4 * (pos % (c.cbits / 4))) + 16 * fillNibbles c (pos + 1) n

/-- n half-bytes out of bytes that start at the byte of half-address h. -/
def takeNibbles (bs : List Byte) (h n : Nat) : Nat := natOfBytes bs / 16 ^ (h % 2) % 16 ^ n

/-- Bytes with n half-bytes put at half-address h; old are the bytes that stand there. -/
def putNibbles (old : List Byte) (h n v : Nat) : List Byte :=
  let o := natOfBytes old
  let f := 16 ^ (h % 2)
  bytesOfNat old.length (o - o / f % 16 ^ n * f + v * f)

/-- Whether a GTICK, GEXP or GIMP that the issuing sequencer issued before a command has still to take its place at the channel
of a glaze address (R254, R257). -/
def tickBehind (s : State) (c : CopyCmd) (va pa : Nat) : Bool :=
  (sqOf s c.hand c.sq).ob.any (fun e => decide (e.ticket < c.ticket) && (glazeRegionOf e).isSome && stillToCome s e pa &&
    glazeRegionOf e == (regionAt s c.part va).map (·.1))

/-- Whether a command has an issuing sequencer: not a node's copy, nor a prefetch. -/
def issued (c : CopyCmd) : Bool := match c.kind with
  | .node _ _ => false
  | .prefetch _ _ => false
  | _ => true

/-- A virtual range read through captured pages from a die. -/
def spanRead (s : State) (d part : Nat) (ps : List Page) (va len : Nat) : List Byte × State :=
  (splitRange va len).foldl (fun (x : List Byte × State) (t : Touch) =>
    match pageAt ps part t.va with
    | none => x
    | some p =>
      let (bs, s) := pointRead x.2 d p.kind p.ptype (physOf p t.va) t.len
      (x.1 ++ bs, s)) ([], s)

/-- A virtual range written through captured pages from a die. -/
def spanWrite (s : State) (d part : Nat) (ps : List Page) (va : Nat) (bs : List Byte) : State :=
  (splitRange va bs.length).foldl (fun (s : State) (t : Touch) =>
    match pageAt ps part t.va with
    | none => s
    | some p => pointWrite s d p.kind p.ptype (physOf p t.va) ((bs.drop (t.va - va)).take t.len)) s

/-- The accesses of a virtual range through captured pages. -/
def spanParts (part : Nat) (ps : List Page) (va len : Nat) : List (Touch × Page) :=
  (splitRange va len).filterMap (fun t => (pageAt ps part t.va).map (fun p => (t, p)))

/-- A virtual range that a step of a command reads, writes, or both, on one side's pages. -/
structure Span where
  rd    : Bool
  wr    : Bool
  pages : List Page
  va    : Nat
  len   : Nat
  deriving DecidableEq, Repr

/-- Whether one can be reached now: a read of a glaze page is a tap, an element under an out-operation is combined at its channel. -/
def spanReach (s : State) (tn : Turn) (d : Nat) (c : CopyCmd) (x : Span) : Bool :=
  (spanParts c.part x.pages x.va x.len).all (fun (t, p) =>
    let pa := physOf p t.va
    if p.ptype = .glaze then glazeOpen s tn c.part t.va pa (!x.wr) && !(issued c && tickBehind s c t.va pa)
    else if x.wr ∧ c.outOp ≠ .copy then chanOpen s tn pa
    else canReach s tn d (!x.rd) p.kind p.ptype pa t.len)

/-- The lines that it brings into the cache of die d. -/
def spanLines (d : Nat) (c : CopyCmd) (x : Span) : List Nat :=
  if x.wr ∧ c.outOp ≠ .copy then [] else (spanParts c.part x.pages x.va x.len).flatMap (fun (t, p) => linesVia d p.kind p.ptype (physOf p t.va) t.len)

/-- One element combined with memory at its channel (R148): the die's bytes of its lines are written back first. Each byte
stands on its own page. -/
def combineElem (s : State) (d : Nat) (c : CopyCmd) (va n v : Nat) : State :=
  let at_ := fun (i : Nat) => (pageAt c.pages c.part (va + i)).map (fun p => physOf p (va + i))
  match (List.range (n / 2)).mapM at_ with
  | none => s
  | some pas =>
    let w := c.cbits / 8
    let s := pas.foldl (fun s pa => dropLine s d pa) s
    let f := (fmtOf c.fmt).getD fp32
    let one := fun (i : Nat) =>
      let old := natOfBytes (((pas.drop (w * i)).take w).map (memGet s.mem))
      bytesOfNat w (outCombine c.outOp f old (v / 2 ^ (c.cbits * i) % 2 ^ c.cbits))
    let new := (List.range c.comps).flatMap one
    (splitRange va (n / 2)).foldl (fun s t => match at_ (t.va - va) with
      | some pa => chanWrote (chanRead s pa) pa
      | none => s) { s with mem := (List.zip pas new).foldl (fun m x => memSet m x.1 x.2) s.mem }

/-- A command of an engine's queue replaced. -/
def setCopy (s : State) (e : Nat) (c : CopyCmd) : State :=
  modEasel s e (fun x => { x with copyQ := x.copyQ.map (fun y => if y.ticket = c.ticket then c else y) })

/-- The granules of a global copy's source from va to an end: address and length (R169). -/
def granulesFrom (c : CopyCmd) (e : Nat) : Nat → Nat → List (Nat × Nat)
  | 0, _ => []
  | f + 1, va =>
    let n := granuleOf (pageAt c.srcPages c.part va) / 2
    if e ≤ va then [] else (va - va % n, n) :: granulesFrom c e f (va - va % n + n)

/-- The source accesses that a run of a global copy needs: one tap of a glaze element, or its granules. -/
def runNeeds (c : CopyCmd) (r : Run) : List (Nat × Nat) :=
  let va := r.src / 2
  if ¬r.inside ∨ usesBuffer c then []
  else if isGlazePage (pageAt c.srcPages c.part va) then [(va, r.n / 2)]
  else granulesFrom c (va + byteSpan r.src r.n) (byteSpan r.src r.n) va

/-- What a command has read of one of them. -/
def heldAt (c : CopyCmd) (va : Nat) : Option (List Byte × Bool) := (c.held.find? (fun x => x.1 == va)).map (·.2)

/-- The source access that a global copy makes next, before the writes of its next destination granule. -/
def nextNeed (c : CopyCmd) : Option (Nat × Nat) :=
  ((accessRuns c).flatMap (runNeeds c)).find? (fun x => (heldAt c x.1).isNone)

/-- Whether a source granule of a run was bad. -/
def runBad (c : CopyCmd) (r : Run) : Bool := (runNeeds c r).any (fun x => (heldAt c x.1).any (·.2))

/-- What is kept after a write: the granules that the next one needs; a tap serves one element. -/
def stillHeld (c : CopyCmd) : List (Nat × List Byte × Bool) :=
  c.held.filter (fun x => !isGlazePage (pageAt c.srcPages c.part x.1) && decide (c.pos < c.total) &&
    ((accessRuns c).flatMap (runNeeds c)).any (fun y => y.1 == x.1))

/-- The virtual ranges that a command's next step reaches in global memory. A copy through a buffer reads the one side and writes the
other in one access; a global copy reads one source granule, or writes one destination granule (R156). -/
def stepSpans (c : CopyCmd) : List Span :=
  let rs := accessRuns c
  let out := fun (r : Run) => ({ rd := c.outOp != .copy || r.dst % 2 != 0 || r.n % 2 != 0, wr := true, pages := c.pages, va := r.dst / 2, len := byteSpan r.dst r.n } : Span)
  if copyIn? c.kind then
    (rs.filter (·.inside)).map (fun r => { rd := true, wr := false, pages := c.pages, va := r.src / 2, len := byteSpan r.src r.n })
  else if copyOut? c.kind then (rs.filter (·.inside)).map out
  else match nextNeed c with
    | some x => [{ rd := true, wr := false, pages := c.srcPages, va := x.1, len := x.2 }]
    | none => (rs.filter (fun r => r.fills || (r.inside && !runBad c r))).map out

/-- Their physical addresses. -/
def stepAddrs (c : CopyCmd) : List Nat :=
  (stepSpans c).flatMap (fun x => (spanParts c.part x.pages x.va x.len).map (fun (t, p) => physOf p t.va))

/-- Bytes read on one side: a tap of a glaze page, or a range. -/
def sideRead (s : State) (d : Nat) (c : CopyCmd) (ps : List Page) (va len : Nat) : List Byte × State :=
  match pageAt ps c.part va with
  | none => ([], s)
  | some p => if p.ptype = .glaze then glazeTap s c.part va (physOf p va) len else spanRead s d c.part ps va len

/-- The source half-bytes of a run: out of a buffer, read where they stand, or out of the granules that a global copy holds. -/
def runSource (s : State) (e : Nat) (c : CopyCmd) (r : Run) : Nat × State :=
  if copyOut? c.kind then
    let h := 2 * copyWindow c + r.buf
    (takeNibbles (bufRead (easelOf s e) c.buf (h / 2) (byteSpan h r.n)) h r.n, s)
  else if copyIn? c.kind then
    let (bs, s) := sideRead s (engineDie e) c c.pages (r.src / 2) (byteSpan r.src r.n)
    (takeNibbles bs r.src r.n, s)
  else
    let l := runNeeds c r
    let bs := l.flatMap (fun x => ((heldAt c x.1).map (·.1)).getD [])
    (takeNibbles (bs.drop (r.src / 2 - (l.head?.map (·.1)).getD 0)) r.src r.n, s)

/-- Half-bytes delivered to the destination of a run. -/
def runStore (s : State) (e : Nat) (c : CopyCmd) (r : Run) (v : Nat) : State :=
  let d := engineDie e
  if copyIn? c.kind then
    let h := 2 * copyWindow c + r.buf
    modEasel s e (fun x => bufWrite x c.buf (h / 2) (putNibbles (bufRead x c.buf (h / 2) (byteSpan h r.n)) h r.n v))
  else
    let va := r.dst / 2
    match pageAt c.pages c.part va with
    | none => s
    | some p =>
      if p.ptype = .glaze then glazeSample s c.part va (physOf p va) (r.n / 2) v
      else if c.outOp ≠ .copy then combineElem s d c va r.n v
      else if r.dst % 2 = 0 ∧ r.n % 2 = 0 then spanWrite s d c.part c.pages va (bytesOfNat (r.n / 2) v)
      else
        let (old, s) := spanRead s d c.part c.pages va (byteSpan r.dst r.n)
        spanWrite s d c.part c.pages va (putNibbles old r.dst r.n v)

/-- Whether the ranges of a command's next step can be reached now, and its lines have room together. -/
def stepReach (s : State) (tn : Turn) (e : Nat) (c : CopyCmd) : Bool :=
  (stepSpans c).all (spanReach s tn (engineDie e) c) && linesRoom s (engineDie e) ((stepSpans c).flatMap (spanLines (engineDie e) c))

/-- The ordering of a first access: with ACQ at a wide scope the die's clean bytes are discarded. -/
def copyStart (s : State) (e : Nat) (c : CopyCmd) : State :=
  if c.acq ∧ wide c.scope then discardClean s (engineDie e) else s

/-- Whether nothing but its port and its channels keeps a command from making its next access. -/
def copyDue (s : State) (e : Nat) (c : CopyCmd) : Bool :=
  let rc := (easelOf s e).rc
  let own := (rc.filter (fun r => r.ticket == c.ticket)).flatMap (·.ranges)
  c.kind != .command && decide (c.pos < c.total) && (c.started || copyReady s c) &&
  !(stoppable c && stopsCmd s c.hand c.sq c.leaf c.ticket && (!c.started || atSegment c)) && !rcBlocked (rcBefore rc c.ticket) own

/-- Whether nothing but its port does. -/
def copyCan (s : State) (tn : Turn) (e : Nat) (c : CopyCmd) : Bool :=
  copyDue s e c && stepReach s tn e c

/-- Whether an engine may make the next access of a command: its copy port grants the hand (R133). -/
def copyEnabled (s : State) (tn : Turn) (e : Nat) (c : CopyCmd) : Bool :=
  copyCan s tn e c &&
  (!usesBuffer c || nextHand s e (copyPort c.buf) (fun h4 => h4 == c.hand % 4 ||
    (easelOf s e).copyQ.any (fun x => x.hand % 4 == h4 && usesBuffer x && x.buf == c.buf && copyCan s (.known x.ticket 0) e x)) == some (c.hand % 4))

/-- The page of a bad source granule of a copy-in. -/
def badPage (c : CopyCmd) (r : Run) : Nat :=
  match (if copyOut? c.kind then none else pageAt c.pages c.part (r.src / 2)) with
  | some p => physOf p (r.src / 2) / 4096
  | none => 0

/-- A copy error: the machine check of a bad source granule (R141, R335); without a hand, the controller's log alone. -/
def copyError (s : State) (c : CopyCmd) (pfn : Nat) : State :=
  if issued c then reportMc s c.hand c.leaf pfn 1 else emit s (.log 13 (mcInfo pfn 1).toNat)

/-- One run of an access; bad says that its source granule has an uncorrectable error. A global copy writes nothing for such a granule
and does not count it in BYTES: the spec does not say what stands at its destination (DESIGN CHOICE, log entry 40). -/
def runStep (e : Nat) (bad : Bool) (x : State × CopyCmd) (r : Run) : State × CopyCmd :=
  let (s, c) := x
  let moved := fun (s : State) (c : CopyCmd) (n : Nat) => (s, { c with pos := c.pos + r.n, bytes := c.bytes + n })
  if ¬r.inside then
    if copyIn? c.kind ∨ r.fills then
      moved (runStore s e c r (if c.clip = .fill then fillNibbles c c.pos r.n else 0)) c r.n
    else moved s c 0
  else if bad ∨ runBad c r then
    let c := { c with status := 1 }
    if copyIn? c.kind then moved (runStore s e c r 0) c r.n else moved s c 0
  else
    let (v, s) := runSource s e c r
    moved (runStore s e c r v) c r.n

/-- One source access of a global copy; a copy node's first bad page is kept for its DETAIL (R51). -/
def sourceStep (s : State) (e : Nat) (c : CopyCmd) (bad : Bool) (x : Nat × Nat) : State :=
  let c := { c with started := true }
  if bad then
    let pfn := ((pageAt c.srcPages c.part x.1).map (fun p => physOf p x.1 / 4096)).getD 0
    copyError (setCopy s e { c with held := (x.1, [], true) :: c.held, status := 1, reason := if issued c ∨ c.status = 1 then c.reason else pfn }) c pfn
  else
    let (bs, s) := sideRead s (engineDie e) c c.srcPages x.1 x.2
    setCopy s e { c with held := (x.1, bs, false) :: c.held }

/-- The runs of a command's next access moved. -/
def runsStep (s : State) (e : Nat) (c : CopyCmd) (bad : Bool) : State :=
  let rs := accessRuns c
  let bad := bad && usesBuffer c && rs.any (·.inside)
  let s := if usesBuffer c then portTaken s (4 * e + c.hand % 4) (copyPort c.buf) (copyRanges c) else s
  let (s, c') := rs.foldl (runStep e bad) (s, { c with started := true })
  let s := if bad then copyError s c (badPage c ((rs.find? (·.inside)).getD (runFrom c c.pos c.bytes))) else s
  let s := setCopy s e { c' with held := stillHeld c' }
  let s := if copyIn? c.kind ∧ lastInside c' ≤ c'.pos then loadDone s c.hand c.leaf c.sq c.ticket else s
  if c'.pos < c'.total then s else rcLeave s e c.ticket

/-- The glaze accesses among a step's: address, physical address, and whether it is a tap. -/
def stepGlaze (c : CopyCmd) : List (Nat × Nat × Bool) :=
  (stepSpans c).flatMap (fun x => ((spanParts c.part x.pages x.va x.len).filter (fun y => y.2.ptype == .glaze)).map (fun (t, p) => (t.va, physOf p t.va, !x.wr)))

/-- The next access of a command performed: it leaves its places at held banks. A glaze word that ticks still owe advances is advanced
first, one advance a step (R253). -/
def copyAccess (s : State) (e : Nat) (c : CopyCmd) (bad : Bool) : State :=
  match (stepGlaze c).find? (fun x => (owing s c.part x.1 x.2.1).isSome) with
  | some x => glazeWait s (.known c.ticket 0) c.part x.1 x.2.1 x.2.2
  | none =>
  let s := if c.started then s else copyStart s e c
  let s := match nextNeed c with
    | some x => sourceStep s e c bad x
    | none => runsStep s e c bad
  (stepAddrs c).foldl (fun s pa => servedAs s (.known c.ticket 0) pa) s

/-- COPY_ENGINE_ACCESS (R166). -/
def execCopyEngineAccess (eng ix : Nat) (bad : Bool) (s : State) : Res :=
  match (easelOf s eng).copyQ[ix]? with
  | none => .next s
  | some c =>
    if copyEnabled s (.known c.ticket 0) eng c then .next (copyAccess s eng c bad)
    else if copyDue s eng c then .next ((stepAddrs c).foldl (fun s pa => if chanOpen s (.known c.ticket 0) pa then s else knockAs s (.known c.ticket 0) pa) s)
    else .next s

/-! ### Completion (R141, R153) -/

/-- The release of a command (R166): with REL every earlier access and engine command of its sequencer is performed, and at a
wide scope the die holds no dirty byte. A completion word is itself a release at the command's scope (R153). -/
def releaseReady (s : State) (e : Nat) (c : CopyCmd) : Bool :=
  !(wide c.scope && (c.rel || c.done.isSome) && anyDirty s (engineDie e)) &&
  (!c.rel ||
    (!((sqOf s c.hand c.sq).ob.any (fun x => decide (x.ticket < c.ticket) && !isFence x.op)) &&
     !((bufTickets s c.hand c.sq ++ cmdTickets s c.hand c.sq).any (fun t => decide (t < c.ticket)))))

/-- The token word (R141). BYTES counts the half-bytes written over the whole command and rounds up once: the spec does not say
how a byte of which one 4-bit element is written counts (DESIGN CHOICE, log entry 38). -/
def tokenWord (c : CopyCmd) : Word := BitVec.ofNat 64 (at' c.status 56 + (c.bytes + 1) / 2 % 2 ^ 40)

def copyLeave (s : State) (e ticket : Nat) : State :=
  modEasel (rcLeave s e ticket) e (fun x => { x with copyQ := x.copyQ.filter (fun y => y.ticket != ticket) })

/-- Whether every access of a command is made. -/
def accessesDone (s : State) (c : CopyCmd) : Bool :=
  c.kind != .command && decide (c.total ≤ c.pos) && (c.started || (copyReady s c && !(stoppable c && stopsCmd s c.hand c.sq c.leaf c.ticket)))

/-- The entries of a task's leaves that have never been bound, freed: those leaves are never bound (R26, R50). -/
def withdrawSlots (s : State) (ln tk : Nat) : State :=
  { s with slots := tmap s.slots (fun _ l => l.filter (fun y => !(y.launch == ln && y.task == tk && y.state != .bound && !y.resume))) }

/-- A scoreboard entry whose prefetch cannot be carried out is freed: its task places no further leaf, those placed and not
yet bound are withdrawn, and it completes with a status (R26, R50, R59). -/
def prefetchFault (s : State) (g i status : Nat) : State :=
  match (tget [] s.slots g).find? (fun x => x.order == i) with
  | none => s
  | some x =>
    let s := withdrawSlots s x.launch x.task
    modTask s x.launch x.task (fun t => { t with stopped := true, status := if t.status = 0 then status else t.status })

/-- COPY_COMPLETION (R141): the release is performed and the token written; a copy node's work, or a prefetch, is done. A command whose
box is empty makes its acquire here. -/
def execCopyCompletion (eng ix : Nat) (s : State) : Res :=
  match (easelOf s eng).copyQ[ix]? with
  | none => .next s
  | some c =>
    if ¬accessesDone s c ∨ ¬releaseReady s eng c then .next s
    else
      let s' := loadDone (copyLeave (if c.started then s else copyStart s eng c) eng c.ticket) c.hand c.leaf c.sq c.ticket
      match c.kind with
      | .inn => .next (modLeaf s' c.hand c.leaf (fun h => modSeq h c.sq (fun x =>
          let n := BitVec.ofNat 5 (c.token.getD 0)
          { regPut x n (tokenWord c) (tagGet x n) with pend := x.pend.filter (fun p => p.ticket != c.ticket) })))
      | .out => .next (replyReg s' c.hand c.leaf c.sq c.ticket (dstRef (.reg (BitVec.ofNat 5 (c.token.getD 0)))) (tokenWord c))
      | .drain => .next (replyReg s' c.hand c.leaf c.sq c.ticket (dstRef (.reg (BitVec.ofNat 5 (c.token.getD 0)))) (tokenWord c))
      | .node l t =>
        .next (if c.status = 0 then workDone s' (some (l, t)) 0 0 0 else workDone s' (some (l, t)) 7 13 (mcInfo c.reason 1))
      | .prefetch g i => .next (if c.status = 0 then s' else prefetchFault s' g i 3)
      | .command => .next s
      | .global => .next s

/-! ### Global copies (R152, R153) -/

/-- A failed check of a global copy: its trap cause and TINFO. -/
abbrev Check := Nat × Word

/-- The page of a shape record that a unit reads, its alignment and type checked. -/
def tsrPage (s : State) (part va : Nat) : Except Check Page :=
  match unitPages s part false true false scalarTypes [{ va := va, len := if va % 128 = 0 then 128 else 1 }] with
  | .error (x, f) => .error (f.cause, xlInfo x false f)
  | .ok ps =>
    match ps with
    | [] => .error (7, sizeInfo 2 va)
    | p :: _ => if va % 128 ≠ 0 ∨ p.ptype ≠ .normal then .error (7, sizeInfo 2 va) else .ok p

/-- A shape record read through the cache of die d. -/
def readTsr (s : State) (d va : Nat) (p : Page) : BitVec 1024 × State :=
  let (bs, s) := pointRead s d p.kind p.ptype (physOf p va) 128
  (BitVec.ofNat 1024 (natOfBytes bs), s)

/-- Whether die d's cache has room for the record. -/
def tsrRoom (s : State) (d va : Nat) (p : Page) : Bool := linesRoom s d (linesVia d p.kind p.ptype (physOf p va) 128)

/-- The pages of both ranges of a global copy, row by row, the source's before the destination's (R152): which of several failures is
reported where both ranges fail, the spec does not say (DESIGN CHOICE, log entry 40). -/
def globalPages (s : State) (c : CopyCmd) : List ((Nat × Nat) × (Nat × Nat)) → Except Check (List Page × List Page)
  | [] => .ok ([], [])
  | ((sv, sl), (dv, dl)) :: r =>
    match unitPages s c.part false true false (copyTypes false .copy) (splitRange sv sl) with
    | .error (x, f) => .error (f.cause, xlInfo x false f)
    | .ok ps =>
      match unitPages s c.part false false true (copyTypes true c.outOp) (splitRange dv dl) with
      | .error (x, f) => .error (f.cause, xlInfo x true f)
      | .ok pd =>
        match globalPages s c r with
        | .error e => .error e
        | .ok (a, b) => .ok (ps ++ a, pd ++ b)

/-- The destination rows of a global copy: under clip 2 every element is written, so they are those of clip 0. -/
def destShape (c : CopyCmd) : CopyCmd := if c.clip = .fill then { c with clip := .none } else c

/-- Whether a global copy's checks can be made now: its record, and the tables of every page that it names, can be reached. -/
def globalOpen (s : State) (d : Nat) (c : CopyCmd) (tsr : Nat) (o : List Int) : Bool :=
  unitOpen s c.part (tsr - tsr % 128) 128 &&
  match tsrPage s c.part tsr with
  | .error _ => true
  | .ok p =>
    let n := (readTsr s d tsr p).1
    let c := withShape c n o
    tsrRoom s d tsr p && ((tsrFault n o c.outOp true).isSome ||
      unitsOpen s ((rowTouches c c.src ++ rowTouches (destShape c) c.dst).flatMap (fun t => unitTables s c.part t.va)))

/-- Its accesses waiting. -/
def globalKnock (s : State) (d : Nat) (c : CopyCmd) (tsr : Nat) (o : List Int) : State :=
  match tsrPage s c.part tsr with
  | .error _ => unitKnock s c.part tsr 128
  | .ok p =>
    let c := withShape c (readTsr s d tsr p).1 o
    unitsKnock s (unitAddrs s c.part tsr 128 ++ (rowTouches c c.src ++ rowTouches (destShape c) c.dst).flatMap (fun t => unitTables s c.part t.va))

/-- The checks of a global copy of known shape: the command with its pages. -/
def shapeCheck (s : State) (c : CopyCmd) (tsr : Nat) : Except Check CopyCmd :=
  let dspans := rowSpans (destShape c) c.dst
  let sspans := rowSpans c c.src
  let rows := if c.clip = .fill then
      (sspans.map (fun x => (x, (0, 0)))) ++ (dspans.map (fun y => ((0, 0), y)))
    else List.zip sspans dspans
  match globalPages s c rows with
  | .error e => .error e
  | .ok (ps, pd) =>
    let ps := distinct ps
    let pd := distinct pd
    match glazeElemFault s c c.src ps false, glazeElemFault s (destShape c) c.dst pd true with
    | some (r, va), _ => .error (10, glazeInfo r 0 va)
    | none, some (r, va) => .error (10, glazeInfo r 0 va)
    | none, none =>
      if 256 < (distinct (ps ++ pd)).length then .error (7, sizeInfo 1 tsr)
      else .ok { c with srcPages := ps, pages := pd }

/-- The checks of a global copy before its first access, and the state after what they have read: the command with its shape and pages. -/
def globalCheck (s : State) (d : Nat) (c : CopyCmd) (tsr : Nat) (o : List Int) : State × Except Check CopyCmd :=
  match tsrPage s c.part tsr with
  | .error e => (walkTouched s c.part tsr, .error e)
  | .ok p =>
    let (n, s) := readTsr (walkTouched s c.part tsr) d tsr p
    let c := withShape c n o
    match tsrFault n o c.outOp true with
    | some r => (s, .error (7, sizeInfo r tsr))
    | none => ((rowTouches c c.src ++ rowTouches (destShape c) c.dst).foldl (fun s t => walkTouched s c.part t.va) s, shapeCheck s c tsr)

/-- The clip code of a global copy: 1 skips, 2 fills (R152). -/
def clipOf : Nat → Clip
  | 0 => .none
  | 1 => .zero
  | _ => .fill

def outOpOf : Nat → OutOp
  | 0 => .copy
  | 1 => .addF32
  | 2 => .addBf16
  | _ => .max

def scopeOf : Nat → Scope
  | 0 => .hand
  | 1 => .easel
  | 2 => .cluster
  | 3 => .die
  | 4 => .package
  | _ => .system

/-- The copy of a copy node's record (R27). -/
def nodeCopy (s : State) (part ln tk : Nat) (n : BitVec 512) : CopyCmd :=
  { mkGlobal s 0 .x s.nextId Tag.empty [] with
    part := part, leaf := none, kind := .node ln tk, acq := true, scope := .system, outOp := outOpOf (fld n 321 320), clip := clipOf (fld n 323 322)
    src := fld n 191 128, dst := fld n 255 192 }

/-- GLOBAL_COPY (R152): the copy of a running copy node, once, by the engine of the die that homes DSTVA, die 0's where DSTVA does not
translate and no die homes it (the spec does not say which: DESIGN CHOICE, log entry 38). The readiness acquire acts on that die's
cache before the record is read (R173). A failed check ends the node under R51. -/
def execGlobalCopy (ln tk : Nat) (s : State) : Res :=
  match launchOf s ln with
  | none => .next s
  | some l =>
    match l.tasks[tk]? with
    | none => .next s
    | some t =>
      let n := l.nodes.getD t.node 0
      if t.state ≠ .running ∨ t.placed ≠ 0 ∨ fld n 3 0 ≠ 1 then .next s
      else
        let c := nodeCopy s l.part ln tk n
        let d := match walk s l.part c.dst with
          | .ok p => homeDie (physOf p c.dst)
          | .error _ => 0
        if ¬(unitsOpen s (unitTables s l.part c.dst) && globalOpen s d c (fld n 127 64) (originOf (fld n 315 256))) then
          .next (globalKnock (unitsKnock s (unitTables s l.part c.dst)) d c (fld n 127 64) (originOf (fld n 315 256)))
        else
        let s := modTask { copyStart (walkTouched s l.part c.dst) (512 + d) c with nextId := s.nextId + 1 } ln tk (fun t => { t with placed := 1 })
        let s := modLaunch s ln (fun l => { l with units := (tk, 0, 0, 128 * d) :: l.units })
        match globalCheck s d c (fld n 127 64) (originOf (fld n 315 256)) with
        | (s, .error (cause, info)) => .next (workDone s (some (ln, tk)) 7 cause info)
        | (s, .ok c) => .next (modEasel s (512 + d) (fun e => { e with copyQ := e.copyQ ++ [c] }))

/-- Whether the words of a PUSHC queue-4 command are malformed (R153). -/
def globalMalformed (w : Nat → Word) : Bool :=
  fld (w 0) 7 0 != 0 || fld (w 0) 16 15 == 3 || decide (5 < fld (w 0) 10 8) || fld (w 0) 63 17 != 0 || w 6 != 0 || w 7 != 0 ||
  (fld (w 0) 10 8 != 0 && fld (w 0) 12 11 == 0)

/-- The STATUS and REASON of a failed check (R153). -/
def globalStatus (cause : Nat) (info : Word) : Nat × Nat :=
  match cause with
  | 5 => (3, fld info 7 0)
  | 6 => (3, 128 + fld info 7 0)
  | 7 => (4, fld info 7 0)
  | _ => (5, fld info 7 0)

/-- The completion word of R153. -/
def doneWord (c : CopyCmd) : Word := BitVec.ofNat 64 (at' c.status 56 + at' c.reason 48 + (c.bytes + 1) / 2 % 2 ^ 40)

/-- GLOBAL_COPY_COMMAND (R153): a command that may start is checked, DONEVA first; one whose accesses are made has its
completion word written at the channel arbiter. -/
def execGlobalCopyCommand (e ix : Nat) (s : State) : Res :=
  match (easelOf s e).copyQ[ix]? with
  | none => .next s
  | some c =>
    match c.kind with
    | .command =>
      let w := fun i => c.words.getD i 0
      let c := { c with acq := bit (w 0) 11, rel := bit (w 0) 12, scope := scopeOf (fld (w 0) 10 8), outOp := outOpOf (fld (w 0) 14 13),
                        clip := clipOf (fld (w 0) 16 15), src := (w 2).toNat, dst := (w 3).toNat }
      let dv := (w 5).toNat
      let o := originOf (w 4).toNat
      if ¬copyReady s c ∨ stopsCmd s c.hand c.sq c.leaf c.ticket then .next s
      else if ¬(unitsOpen s (unitTables s c.part dv) && (globalMalformed w || globalOpen s (engineDie e) c (w 1).toNat o)) then
        .next (globalKnock (unitsKnock s (unitTables s c.part dv)) (engineDie e) c (w 1).toNat o)
      else
        match (if dv % 8 = 0 then unitPages s c.part false false true [.normal] [{ va := dv, len := 8 }] else .ok []) with
        | .ok (p :: _) =>
          let c := { c with kind := .global, done := some (physOf p dv, p) }
          let fail := fun (s : State) (st r : Nat) => Host.Outcome.next (setCopy s e { c with started := true, status := st, reason := r })
          let s0 := walkTouched s c.part dv
          if globalMalformed w then fail s0 2 0
          else
            match globalCheck (copyStart s0 e c) (engineDie e) c (w 1).toNat o with
            | (s, .error (cause, info)) => fail s (globalStatus cause info).1 (globalStatus cause info).2
            | (s, .ok c) => .next (setCopy s e { c with started := true })
        | _ => .next (reportMc (copyLeave s e c.ticket) c.hand c.leaf 0 1)
    | .global =>
      match c.done with
      | none => .next s
      | some (pa, _) =>
        if ¬accessesDone s c ∨ ¬releaseReady s e c then .next s
        else if ¬chanOpen s .unit pa then .next (knock s pa)
        else .next (chanWrote { copyLeave s e c.ticket with mem := memWrite s.mem pa (bytesOfNat 8 (doneWord c).toNat) } pa)
    | _ => .next s

end Sys2Proof.Machine
end

