-- ==== Sys2Proof/Machine/Vector.lean ====
section
/-! DEFINITION. The vector tile unit (R195-R219): element-wise operations, comparisons, moves, reductions, permutations,
hypercomplex elements, scans, conversions, predicates, table lookup and buffer accesses. -/

namespace Sys2Proof.Machine

/-! ### Issue -/

/-- The columns and rows of a tile: LOGC is at most 10 (R196). -/
def cols (h : Hand) : Nat := 2 ^ min 10 h.logc.toNat
def rows (h : Hand) : Nat := 1024 / cols h

/-- The elements of a predicate in order. -/
def predBits (p : BitVec 1024) : List Bool := (List.range 1024).map p.getLsbD

def predOf (l : List Bool) : BitVec 1024 := BitVec.ofNat 1024 (l.foldr (fun b x => 2 * x + b.toNat) 0)

/-- Vector and predicate operands by name under the current ROT (R66). -/
def vreg (h : Hand) (n : BitVec 5) : List (BitVec 32) := vget h (physReg h n)
def preg (h : Hand) (n : BitVec 5) : BitVec 1024 := pget h (physReg h n)
def vtag (h : Hand) (n : BitVec 5) : Tag := tget Tag.empty h.vtags (physReg h n)
def ptag (h : Hand) (n : BitVec 5) : Tag := if n = 0 then Tag.empty else tget Tag.empty h.ptags (physReg h n)

/-- The request of a vector instruction: C only; lane says whether it holds the lanes. -/
def reqV (regs : List (BitVec 5)) (limit lane : Bool) (lands : Nat) : Req :=
  { reqCP [.c] regs with limit := limit, lane := lane, lands := lands }

/-- What a vector instruction does once it issues: occupancy (0 for none), and the landings it makes. -/
structure VOut where
  occ   : Nat
  lands : List Landing

/-- A vector instruction that makes one landing at most: f computes it from the hand at issue (R198, R201). -/
def vectorOp (k : Tok) (regs : List (BitVec 5)) (limit : Hand → Bool) (lane : Bool) (f : Hand → VOut) (s : State) : Res :=
  issue s k (reqV regs (limit (handOf s s.focus)) lane 1) fun t _ _ =>
    let g := s.focus
    let o := f (handOf t g)
    let t := modHand t g (fun h => { h with lanes := if o.occ = 0 then h.lanes else o.occ, landings := h.landings ++ o.lands })
    .next (finish t g .c k (fun y => advance y 1))

/-- A vector instruction of the long form. -/
def vectorLong (k : Tok) (limit : Hand → Bool) (lane : Bool) (f : Hand → VOut) (s : State) : Res :=
  issue s k (reqV [] (limit (handOf s s.focus)) lane 1) fun t _ _ =>
    let g := s.focus
    let o := f (handOf t g)
    let t := modHand t g (fun h => { h with lanes := if o.occ = 0 then h.lanes else o.occ, landings := h.landings ++ o.lands })
    .next (finish t g .c k (fun y => advance y 2))

/-- The landing of a vector result (R197, R200): its mask, its tag, joined by the destination's tag where a guard other
than p0 may keep elements. -/
def vland (h : Hand) (d : BitVec 5) (lat : Nat) (mask : BitVec 1024) (v : List (BitVec 32)) (t : Tag) (join : Bool) (st : BitVec 3) : Landing :=
  { rem := lat, what := .vec (physReg h d) v mask, tag := t, join := join, stat := st }

def pland (h : Hand) (d : BitVec 5) (lat : Nat) (v : BitVec 1024) (t : Tag) (st : BitVec 3) : Landing :=
  { rem := lat, what := .pred (physReg h d) v (BitVec.allOnes 1024), tag := t, join := false, stat := st }

def noLimit (_ : Hand) : Bool := false

/-- The FSTAT bits of a list of results. -/
def stats (l : List FRes) : BitVec 3 := l.foldl (fun x r => x ||| r.2) 0

/-- f at every active element of three operands. -/
def lanes3 (f : BitVec 32 → BitVec 32 → BitVec 32 → FRes) : List Bool → List (BitVec 32) → List (BitVec 32) → List (BitVec 32) → List FRes
  | m :: ms, a :: as, b :: bs, d :: ds => (if m then f a b d else (0, 0)) :: lanes3 f ms as bs ds
  | _, _, _, _ => []

/-- An element-wise instruction (R202) of latency lat and occupancy occ: F of a, b and the old destination, under guard g.
old says whether the destination is a source. -/
def eachOp (k : Tok) (d a b g : BitVec 5) (occ lat : Nat) (useB old : Bool) (f : Rm → BitVec 32 → BitVec 32 → BitVec 32 → FRes)
    (s : State) : Res :=
  vectorOp k [] noLimit true (fun h =>
    let r := lanes3 (f (rmHand h)) (predBits (preg h g)) (vreg h a) (vreg h b) (vreg h d)
    let t := tagJoin (tagJoin (vtag h a) (if useB then vtag h b else Tag.empty)) (tagJoin (ptag h g) (if old then vtag h d else Tag.empty))
    { occ := occ, lands := [vland h d lat (preg h g) (r.map (·.1)) t (g != 0) (stats r)] }) s

/-! ### Element-wise floating point (R202, R203) -/

/-- VADD (R202). -/
def execVadd (k : Tok) (d a b g : BitVec 5) (s : State) : Res := eachOp k d a b g 4 6 true false (fun rm a b _ => fadd rm a b) s
/-- VSUB (R202). -/
def execVsub (k : Tok) (d a b g : BitVec 5) (s : State) : Res := eachOp k d a b g 4 6 true false (fun rm a b _ => fsub rm a b) s
/-- VMUL (R202). -/
def execVmul (k : Tok) (d a b g : BitVec 5) (s : State) : Res := eachOp k d a b g 4 6 true false (fun rm a b _ => fmul rm a b) s
/-- VFMA (R202): a × b + d. -/
def execVfma (k : Tok) (d a b g : BitVec 5) (s : State) : Res := eachOp k d a b g 4 8 true true (fun rm a b c => ffma rm a b c) s
/-- VMIN (R202). -/
def execVmin (k : Tok) (d a b g : BitVec 5) (s : State) : Res := eachOp k d a b g 4 6 true false (fun _ a b _ => fmin a b) s
/-- VMAX (R202). -/
def execVmax (k : Tok) (d a b g : BitVec 5) (s : State) : Res := eachOp k d a b g 4 6 true false (fun _ a b _ => fmax a b) s
/-- VDIV (R202). -/
def execVdiv (k : Tok) (d a b g : BitVec 5) (s : State) : Res := eachOp k d a b g 16 24 true false (fun rm a b _ => fdiv rm a b) s
/-- VFMS (R202): d - a × b. -/
def execVfms (k : Tok) (d a b g : BitVec 5) (s : State) : Res := eachOp k d a b g 4 8 true true (fun rm a b c => ffms rm a b c) s
/-- VSQRT (R202). -/
def execVsqrt (k : Tok) (d a g : BitVec 5) (s : State) : Res := eachOp k d a a g 16 24 false false (fun rm a _ _ => fsqrt rm a) s
/-- VRCP (R203). -/
def execVrcp (k : Tok) (d a g : BitVec 5) (s : State) : Res := eachOp k d a a g 4 12 false false (fun _ a _ _ => frcp a) s
/-- VRSQ (R203). -/
def execVrsq (k : Tok) (d a g : BitVec 5) (s : State) : Res := eachOp k d a a g 4 12 false false (fun _ a _ _ => frsq a) s
/-- VEXP2 (R203). -/
def execVexp2 (k : Tok) (d a g : BitVec 5) (s : State) : Res := eachOp k d a a g 4 12 false false (fun _ a _ _ => fexp2 a) s
/-- VLOG2 (R203). -/
def execVlog2 (k : Tok) (d a g : BitVec 5) (s : State) : Res := eachOp k d a a g 4 12 false false (fun _ a _ _ => flog2 a) s
/-- VTANH (R203). -/
def execVtanh (k : Tok) (d a g : BitVec 5) (s : State) : Res := eachOp k d a a g 4 12 false false (fun _ a _ _ => ftanh a) s

/-- A sign operation: a NaN gives the canonical NaN and sets NANP, anything else changes its sign bit only (R203). -/
def signOp (f : BitVec 32 → BitVec 32) (a : BitVec 32) : FRes := if fval a = .nan then nanRes false else (f a, 0)

/-- VABS (R203). -/
def execVabs (k : Tok) (d a g : BitVec 5) (s : State) : Res :=
  eachOp k d a a g 4 6 false false (fun _ a _ _ => signOp (fun x => x &&& 0x7FFFFFFF) a) s
/-- VNEG (R203). -/
def execVneg (k : Tok) (d a g : BitVec 5) (s : State) : Res :=
  eachOp k d a a g 4 6 false false (fun _ a _ _ => signOp (fun x => x ^^^ 0x80000000) a) s

/-! ### Comparisons (R204) -/

/-- A comparison: PG names the destination predicate, VD the guard. -/
def compareOp (k : Tok) (gd a b pd : BitVec 5) (invNan nanTrue : Bool) (f : Ordering → Bool) (s : State) : Res :=
  vectorOp k [] noLimit true (fun h =>
    let one := fun (x y _ : BitVec 32) =>
      if fval x = .nan ∨ fval y = .nan then ((if nanTrue then 1 else 0, if invNan then statInv else 0) : FRes)
      else (if f (fcmp false (fval x) (fval y)) then 1 else 0, 0)
    let r := lanes3 one (predBits (preg h gd)) (vreg h a) (vreg h b) (vreg h b)
    let t := tagJoin (tagJoin (vtag h a) (vtag h b)) (ptag h gd)
    { occ := 4, lands := [pland h pd 5 (predOf (r.map (fun x => x.1 == 1))) t (stats r)] }) s

/-- VCEQ (R204). -/
def execVceq (k : Tok) (d a b g : BitVec 5) (s : State) : Res := compareOp k d a b g false false (fun o => o == .eq) s
/-- VCLT (R204). -/
def execVclt (k : Tok) (d a b g : BitVec 5) (s : State) : Res := compareOp k d a b g true false (fun o => o == .lt) s
/-- VCLE (R204). -/
def execVcle (k : Tok) (d a b g : BitVec 5) (s : State) : Res := compareOp k d a b g true false (fun o => o != .gt) s
/-- VCNE (R204). -/
def execVcne (k : Tok) (d a b g : BitVec 5) (s : State) : Res := compareOp k d a b g false true (fun o => o != .eq) s

/-! ### Integer and bitwise (R205) -/

/-- An INT32 operation: no FSTAT bit. -/
def intOp (k : Tok) (d a b g : BitVec 5) (lat : Nat) (f : BitVec 32 → BitVec 32 → BitVec 32) (s : State) : Res :=
  eachOp k d a b g 4 lat true false (fun _ a b _ => (f a b, 0)) s

/-- VIADD (R205). -/
def execViadd (k : Tok) (d a b g : BitVec 5) (s : State) : Res := intOp k d a b g 6 (fun a b => a + b) s
/-- VISUB (R205). -/
def execVisub (k : Tok) (d a b g : BitVec 5) (s : State) : Res := intOp k d a b g 6 (fun a b => a - b) s
/-- VIMUL (R205). -/
def execVimul (k : Tok) (d a b g : BitVec 5) (s : State) : Res := intOp k d a b g 8 (fun a b => a * b) s
/-- VSHL (R205). -/
def execVshl (k : Tok) (d a b g : BitVec 5) (s : State) : Res := intOp k d a b g 6 (fun a b => a <<< (b.toNat % 32)) s
/-- VAND (R205). -/
def execVand (k : Tok) (d a b g : BitVec 5) (s : State) : Res := intOp k d a b g 6 (fun a b => a &&& b) s
/-- VOR (R205). -/
def execVor (k : Tok) (d a b g : BitVec 5) (s : State) : Res := intOp k d a b g 6 (fun a b => a ||| b) s
/-- VXOR (R205). -/
def execVxor (k : Tok) (d a b g : BitVec 5) (s : State) : Res := intOp k d a b g 6 (fun a b => a ^^^ b) s
/-- VSHR (R205). -/
def execVshr (k : Tok) (d a b g : BitVec 5) (s : State) : Res := intOp k d a b g 6 (fun a b => a.sshiftRight (b.toNat % 32)) s

/-! ### Vector with scalar (R206) -/

/-- F of a, a scalar of C and the old destination; the scalar's tag joins the result's. -/
def scalarOp (k : Tok) (d a r g : BitVec 5) (lat : Nat) (useA old : Bool) (f : Rm → BitVec 32 → BitVec 32 → BitVec 32 → FRes)
    (s : State) : Res :=
  vectorOp k [r] noLimit true (fun h =>
    let x := (regGet h.c r).extractLsb' 0 32
    let v := lanes3 (fun a b _ => f (rmHand h) a x b) (predBits (preg h g)) (vreg h a) (vreg h d) (vreg h d)
    let t := tagJoin (tagJoin (if useA then vtag h a else Tag.empty) (tagGet h.c r)) (tagJoin (ptag h g) (if old then vtag h d else Tag.empty))
    { occ := 4, lands := [vland h d lat (preg h g) (v.map (·.1)) t (g != 0) (stats v)] }) s

/-- VADDS (R206). -/
def execVadds (k : Tok) (d a r g : BitVec 5) (s : State) : Res := scalarOp k d a r g 6 true false (fun rm a x _ => fadd rm a x) s
/-- VMULS (R206). -/
def execVmuls (k : Tok) (d a r g : BitVec 5) (s : State) : Res := scalarOp k d a r g 6 true false (fun rm a x _ => fmul rm a x) s
/-- VFMAS (R206): a × s + d. -/
def execVfmas (k : Tok) (d a r g : BitVec 5) (s : State) : Res := scalarOp k d a r g 8 true true (fun rm a x c => ffma rm a x c) s
/-- VBCAST (R206). DEDUCED (log 34): a broadcast computes nothing, so a NaN scalar is copied bit for bit and sets no flag, although
R206 does not except it from R184 by name; unsafe for the payload of a broadcast NaN. -/
def execVbcast (k : Tok) (d r g : BitVec 5) (s : State) : Res := scalarOp k d 0 r g 6 false false (fun _ _ x _ => (x, 0)) s

/-! ### Selection, gather and scatter (R207) -/

/-- VSEL (R207): PG names the selector and every element is written. -/
def execVsel (k : Tok) (d a b g : BitVec 5) (s : State) : Res :=
  vectorOp k [] noLimit true (fun h =>
    let t := tagJoin (tagJoin (vtag h a) (vtag h b)) (ptag h g)
    { occ := 4, lands := [vland h d 6 (BitVec.allOnes 1024) (mergeTile (preg h g) (vreg h b) (vreg h a)) t false 0] }) s

/-- VMOV (R207): bits unchanged. -/
def execVmov (k : Tok) (d a g : BitVec 5) (s : State) : Res := eachOp k d a a g 4 6 false false (fun _ a _ _ => (a, 0)) s

/-- A permutation of elements: f gives the source index of a destination element (R207, R209). -/
def permuteOp (k : Tok) (d a b g : BitVec 5) (useB : Bool) (f : Hand → List (BitVec 32) → Nat → Nat) (s : State) : Res :=
  vectorOp k [] noLimit true (fun h =>
    let va := vreg h a
    let src := f h (vreg h b)
    let v := (List.range 1024).map (fun i => va.getD (src i) 0)
    let t := tagJoin (tagJoin (vtag h a) (if useB then vtag h b else Tag.empty)) (ptag h g)
    { occ := 8, lands := [vland h d 12 (preg h g) v t (g != 0) 0] }) s

/-- VEXTR (R207): gather. -/
def execVextr (k : Tok) (d a b g : BitVec 5) (s : State) : Res :=
  permuteOp k d a b g true (fun _ vb i => (vb.getD i 0).toNat % 1024) s

/-- The scatter of R207: each active source in ascending order; the elements reached and what they get. -/
def scatter (act : BitVec 1024) (va vb : List (BitVec 32)) : Table (BitVec 32) :=
  (List.range 1024).foldl (fun t i => if act.getLsbD i then tput t ((vb.getD i 0).toNat % 1024) (va.getD i 0) else t) []

/-- VINS (R207): the guard selects source elements; an element that none reaches keeps its value at landing. -/
def execVins (k : Tok) (d a b g : BitVec 5) (s : State) : Res :=
  vectorOp k [] noLimit true (fun h =>
    let r := scatter (preg h g) (vreg h a) (vreg h b)
    let mask := predOf ((List.range 1024).map (fun i => r.any (fun e => e.1 == i)))
    let t := tagJoin (tagJoin (vtag h a) (vtag h b)) (ptag h g)
    { occ := 8, lands := [vland h d 12 mask ((List.range 1024).map (tget 0 r)) t (g != 0) 0] }) s

/-! ### Reductions (R208) -/

/-- The result of one row or column from its active elements in order, a NaN canonical. -/
def reduceLine (f : BitVec 32 → BitVec 32 → FRes) : List (BitVec 32) → FRes
  | [] => (0, 0)
  | x :: r =>
    let y := r.foldl (fun (acc : FRes) v => let z := f acc.1 v; (z.1, acc.2 ||| z.2)) (x, 0)
    if fval y.1 = .nan then (canonNan, y.2 ||| statNan) else y

/-- A reduction along rows (byRow) or columns: every active element gets the result of its own line. -/
def reduceOp (k : Tok) (d a g : BitVec 5) (byRow : Bool) (f : Rm → BitVec 32 → BitVec 32 → FRes) (s : State) : Res :=
  vectorOp k [] noLimit true (fun h =>
    let c := cols h
    let r := rows h
    let act := preg h g
    let va := vreg h a
    let line := fun (n : Nat) => if byRow then (List.range c).map (fun j => n * c + j) else (List.range r).map (fun j => j * c + n)
    let res := (List.range (if byRow then r else c)).map (fun n =>
      reduceLine (f (rmHand h)) (((line n).filter (fun i => act.getLsbD i)).map (fun i => va.getD i 0)))
    let v := (List.range 1024).map (fun i => (res.getD (if byRow then i / c else i % c) (0, 0)).1)
    let t := tagJoin (vtag h a) (ptag h g)
    { occ := 8, lands := [vland h d 16 act v t (g != 0) (stats res)] }) s

/-- VRSUM (R208). -/
def execVrsum (k : Tok) (d a g : BitVec 5) (s : State) : Res := reduceOp k d a g true fadd s
/-- VCSUM (R208). -/
def execVcsum (k : Tok) (d a g : BitVec 5) (s : State) : Res := reduceOp k d a g false fadd s
/-- VRMAX (R208). -/
def execVrmax (k : Tok) (d a g : BitVec 5) (s : State) : Res := reduceOp k d a g true (fun _ x y => fmax x y) s
/-- VCMAX (R208). -/
def execVcmax (k : Tok) (d a g : BitVec 5) (s : State) : Res := reduceOp k d a g false (fun _ x y => fmax x y) s

/-! ### Permutations (R209) -/

/-- VTRN (R209). -/
def execVtrn (k : Tok) (d a g : BitVec 5) (s : State) : Res :=
  permuteOp k d a a g false (fun h _ i => i % rows h * cols h + i / rows h) s
/-- VROTR (R209). -/
def execVrotr (k : Tok) (d a b g : BitVec 5) (s : State) : Res :=
  permuteOp k d a b g true (fun h vb i =>
    let r := i / cols h
    r * cols h + (i % cols h + cols h - (vb.getD (r * cols h) 0).toNat % cols h) % cols h) s
/-- VROTC (R209). -/
def execVrotc (k : Tok) (d a b g : BitVec 5) (s : State) : Res :=
  permuteOp k d a b g true (fun h vb i =>
    let c := i % cols h
    (i / cols h + rows h - (vb.getD c 0).toNat % rows h) % rows h * cols h + c) s
/-- VREV (R209). -/
def execVrev (k : Tok) (d a g : BitVec 5) (s : State) : Res :=
  permuteOp k d a a g false (fun h _ i => i / cols h * cols h + (cols h - 1 - i % cols h)) s

/-! ### Hypercomplex elements (R210, R228, R229) -/

/-- The record of the reals (R228). -/
def realsRecord : BitVec 640 := BitVec.ofNat 640 (at' 1 512 + 0x40)

/-- An algebra slot's record: slot 0 holds the reals; 0 stands for an empty slot. -/
def algSlot (h : Hand) (n : Nat) : BitVec 640 := if n = 0 then realsRecord else tget 0 h.algs n

/-- Fields of an algebra record (R229): DIM, CONJ, and the entry for e_i · e_j, a sign (0, 1 or -1) and an index. -/
def algDim (r : BitVec 640) : Nat := fld r 519 512
def algConj (r : BitVec 640) (i : Nat) : Bool := bit r (520 + i)
def algEntry (r : BitVec 640) (i j : Nat) : Int × Nat :=
  let e := fld r (64 * i + 8 * j + 7) (64 * i + 8 * j)
  (if bits e 7 6 = 1 then 1 else if bits e 7 6 = 2 then -1 else 0, bits e 2 0)

/-- The terms of component c of a product, in order: sign, index of the left factor, index of the right one. -/
def algTerms (r : BitVec 640) (c : Nat) : List (Bool × Nat × Nat) :=
  let d := algDim r
  (List.range d).flatMap (fun i => (List.range d).filterMap (fun j =>
    let (sg, m) := algEntry r i j
    if sg ≠ 0 ∧ m = c then some (decide (sg < 0), i, j) else none))

/-- The TINFO word of the algebra-slot-empty trap (R228, R237). -/
def algInfo (slot why : Nat) : Word := BitVec.ofNat 64 (at' why 8 + slot)

/-- Component c of the product x ⊗ y, one fused step per term (R210). -/
def hypComp (rm : Rm) (r : BitVec 640) (x y : List (BitVec 32)) (c : Nat) : FRes :=
  (algTerms r c).foldl (fun (acc : FRes) (neg, i, j) =>
    let xi := fval (x.getD i 0)
    let z := fmaVal rm (if neg then negVal xi else xi) (fval (y.getD j 0)) (fval acc.1)
    (z.1, acc.2 ||| z.2)) (0, 0)

/-- The conjugate (R210): a component that CONJ names is negated as VNEG negates it, a NaN becoming canonical (R184, R203);
any other is moved, bits and all, as VMOV moves it (log entry 34). -/
def hypConj (r : BitVec 640) (x : List (BitVec 32)) : List FRes :=
  (List.zip (List.range x.length) x).map (fun (i, v) => if algConj r i then signOp (fun y => y ^^^ 0x80000000) v else (v, 0))

/-- The groups of a tile, d elements each. -/
def groupsOf (d : Nat) (v : List (BitVec 32)) : List (List (BitVec 32)) :=
  (List.range (1024 / d)).map (fun j => (v.drop (d * j)).take d)

/-- A hypercomplex operation on the algebra that ALGSEL names; an empty slot traps before issue. -/
def hypOp (k : Tok) (d a b g : BitVec 5) (useB : Bool) (occ lat : Nat → Nat)
    (f : Rm → BitVec 640 → List (BitVec 32) → List (BitVec 32) → List FRes) (s : State) : Res :=
  issue s k (reqV [] false true 1) fun t _ _ =>
    let n := s.focus
    let h := handOf t n
    let r := algSlot h h.algsel.toNat
    if r = 0 then .next (takeTrap s n .c 9 (algInfo h.algsel.toNat 0))
    else
      let dim := algDim r
      let res := (List.zip (groupsOf dim (vreg h a)) (groupsOf dim (vreg h b))).flatMap (fun (x, y) => f (rmHand h) r x y)
      let act := preg h g
      let st := stats ((List.zip (predBits act) res).map (fun (m, v) => if m then v else (0, 0)))
      let tg := tagJoin (tagJoin (vtag h a) (if useB then vtag h b else Tag.empty)) (ptag h g)
      let l := vland h d (lat dim) act (res.map (·.1)) tg (g != 0) st
      let t := modHand t n (fun h => { h with lanes := occ dim, landings := h.landings ++ [l] })
      .next (finish t n .c k (fun y => advance y 1))

/-- VHMUL (R210): x ⊗ y, x the left factor. -/
def execVhmul (k : Tok) (d a b g : BitVec 5) (s : State) : Res :=
  hypOp k d a b g true (fun d => 4 * d) (fun d => 4 * d + 8)
    (fun rm r x y => (List.range (algDim r)).map (hypComp rm r x y)) s
/-- VHCONJ (R210). -/
def execVhconj (k : Tok) (d a g : BitVec 5) (s : State) : Res :=
  hypOp k d a a g false (fun _ => 4) (fun _ => 6) (fun _ r x _ => hypConj r x) s

/-- Component 0 of x ⊗ conj x (R210). -/
def hypNorm (rm : Rm) (r : BitVec 640) (x : List (BitVec 32)) : FRes := hypComp rm r x ((hypConj r x).map (·.1)) 0

/-- VHNORM (R210). -/
def execVhnorm (k : Tok) (d a g : BitVec 5) (s : State) : Res :=
  hypOp k d a a g false (fun _ => 4) (fun d => 4 * d + 8)
    (fun rm r x _ => hypNorm rm r x :: (List.replicate (algDim r - 1) (0, 0))) s
/-- VHINV (R210): every component of the conjugate divided by the norm. -/
def execVhinv (k : Tok) (d a g : BitVec 5) (s : State) : Res :=
  hypOp k d a a g false (fun d => 4 * d) (fun d => 4 * d + 24)
    (fun rm r x _ =>
      let n := hypNorm rm r x
      (hypConj r x).map (fun c => let z := fdiv rm c.1 n.1; (z.1, z.2 ||| n.2))) s

/-! ### Scans (R211) -/

/-- One row of a scan: a NaN that a reset takes is written canonical (R184). -/
def scanRow (step : BitVec 32 → BitVec 32 → BitVec 32 → FRes) : BitVec 32 → List (Bool × BitVec 32 × BitVec 32) → List FRes
  | _, [] => []
  | h, (reset, a, x) :: r =>
    let z := if reset then signOp id x else step a h x
    z :: scanRow step z.1 r

/-- A scan of every row: no guard, the carry-in is the old destination's last column. useB: VSCAN. -/
def scanOp (k : Tok) (d a b p : BitVec 5) (useB : Bool) (step : Rm → BitVec 32 → BitVec 32 → BitVec 32 → FRes) (s : State) : Res :=
  vectorOp k [] noLimit true (fun h =>
    let c := cols h
    let old := vreg h d
    let rowsIn := List.zip (predBits (preg h p)) (List.zip (vreg h a) (vreg h b))
    let res := (List.range (rows h)).flatMap (fun w =>
      scanRow (step (rmHand h)) (old.getD (w * c + c - 1) 0) ((rowsIn.drop (w * c)).take c))
    let t := tagJoin (tagJoin (vtag h a) (if useB then vtag h b else Tag.empty)) (tagJoin (ptag h p) (vtag h d))
    { occ := 4, lands := [vland h d (c + 8) (BitVec.allOnes 1024) (res.map (·.1)) t false (stats res)] }) s

/-- VSCAN (R211): h := a·h + x, fused. -/
def execVscan (k : Tok) (d a b g : BitVec 5) (s : State) : Res := scanOp k d a b g true (fun rm a h x => ffma rm a h x) s
/-- VSCANA (R211). -/
def execVscana (k : Tok) (d a g : BitVec 5) (s : State) : Res := scanOp k d a a g false (fun rm _ h x => fadd rm h x) s
/-- VSCANM (R211). -/
def execVscanm (k : Tok) (d a g : BitVec 5) (s : State) : Res := scanOp k d a a g false (fun _ _ h x => fmax h x) s

/-! ### Conversion and quantisation (R212, R213) -/

/-- Containers of cb bits packed from byte 0 upward into a tile (R137). -/
def packTile (cb : Nat) (l : List Nat) (tail : Nat) : List (BitVec 32) :=
  let n := l.foldr (fun x acc => acc * 2 ^ cb + x % 2 ^ cb) tail
  (List.range 1024).map (fun j => BitVec.ofNat 32 (n / 2 ^ (32 * j)))

/-- The bits of a tile as one number. -/
def tileNat (v : List (BitVec 32)) : Nat := v.foldr (fun x acc => acc * 2 ^ 32 + x.toNat) 0

/-- CFMT as a format that VCVT and VDQ take. -/
def convFmt (h : Hand) : Option Fmt :=
  match fmtOf h.cfmt with
  | some .e8m0 => none
  | some .sct16 => none
  | f => f

def convBad (h : Hand) : Bool := (convFmt h).isNone

/-- The block size of VQNT and VDQ (R196). -/
def blockOf (h : Hand) : Nat := if h.bsz = 1 then 32 else 16

/-- VCVT (R212): the whole register is written. -/
def execVcvt (k : Tok) (d a g : BitVec 5) (s : State) : Res :=
  vectorOp k [] convBad true (fun h =>
    let f := (convFmt h).getD fp32
    let r := (List.zip (predBits (preg h g)) (vreg h a)).map (fun (m, x) =>
      if m then convert (fval x) f (rmHand h) h.satovf else (0, 0))
    let st := r.foldl (fun x y => x ||| y.2) 0
    let t := tagJoin (vtag h a) (ptag h g)
    { occ := 4, lands := [vland h d 8 (BitVec.allOnes 1024) (packTile f.cbits (r.map (·.1)) 0) t (g != 0) st] }) s

/-- A value multiplied exactly by 2^k. -/
def scaleVal (v : FVal) (k : Int) : FVal :=
  match v with
  | .fin n m e => .fin n m (e + k)
  | v => v

/-- VDQ (R212): a container decoded, scaled where BSZ is not 0, converted to FP32. -/
def execVdq (k : Tok) (d a g : BitVec 5) (s : State) : Res :=
  vectorOp k [] (fun h => convBad h || (h.bsz != 0 && !narrowCode h.cfmt)) true (fun h =>
    let f := (convFmt h).getD fp32
    let bitsA := tileNat (vreg h a)
    let value := fun (i : Nat) =>
      let v := f.value (bitsA / 2 ^ (f.cbits * i) % 2 ^ f.cbits)
      if h.bsz = 0 then v
      else
        let sc := bitsA / 2 ^ (1024 * f.cbits + 16 * (i / blockOf h)) % 256
        if sc = 255 then .nan else scaleVal v ((sc : Int) - 127)
    let r := (List.zip (predBits (preg h g)) (List.range 1024)).map (fun (m, i) =>
      if m then convert (value i) fp32 (rmHand h) h.satovf else (0, 0))
    let st := r.foldl (fun x y => x ||| y.2) 0
    let t := tagJoin (vtag h a) (ptag h g)
    { occ := 4, lands := [vland h d 8 (preg h g) (r.map (fun x => BitVec.ofNat 32 x.1)) t (g != 0) st] }) s

/-- VRND (R212). -/
def execVrnd (k : Tok) (d a g : BitVec 5) (s : State) : Res := eachOp k d a a g 4 8 false false (fun rm a _ _ => fround rm a) s

/-- Floor(Log2) of a positive magnitude. -/
def floorLog (m : Nat) (e : Int) : Int := (Nat.log2 m : Int) + e

/-- The greater of two magnitudes. -/
def maxMagOf (x y : Nat × Int) : Nat × Int := if cmpMag x.1 x.2 y.1 y.2 = .lt then y else x

/-- The largest finite value of a narrow format, as a magnitude. -/
def maxFinite (f : Fmt) : Nat × Int :=
  match f with
  | .flt _ ew mw spec _ => match f.value (maxMag ew mw spec) with
    | .fin _ m e => (m, e)
    | _ => (1, 0)
  | .int _ mw bias => (2 ^ mw - 1, -bias)
  | _ => (1, 0)

/-- The scale of a block (R213) and the FSTAT bits it sets. In a format whose largest value is 0 the spec gives no
SCALE: it is a free value (log entry 3). -/
def blockScale (c : BitVec 24) (f : Fmt) (act : List (BitVec 32)) : Nat × BitVec 3 :=
  let vals := act.map fval
  if vals.any (fun v => match v with
    | .fin _ _ _ => false
    | _ => true) then (255, statInv)
  else
    let m := vals.foldl (fun acc v => match v with
      | .fin _ m e => maxMagOf acc (m, e)
      | _ => acc) ((0, 0) : Nat × Int)
    if m.1 = 0 then (0, 0)
    else
      let big := maxFinite f
      if big.1 = 0 then ((Config.quantScale c act).toNat, 0)
      else ((clampI 0 254 (floorLog m.1 m.2 - floorLog big.1 big.2 + 127)).toNat, 0)

/-- VQNT (R213): a narrow CFMT and BSZ not 0, else code 8. -/
def execVqnt (k : Tok) (d a g : BitVec 5) (s : State) : Res :=
  vectorOp k [] (fun h => convBad h || !narrowCode h.cfmt || h.bsz == 0) true (fun h =>
    let f := (convFmt h).getD fp32
    let b := blockOf h
    let el := List.zip (predBits (preg h g)) (vreg h a)
    let blocks := (List.range (1024 / b)).map (fun j => (el.drop (b * j)).take b)
    let scales := blocks.map (fun bl => blockScale h.cfmt f ((bl.filter (·.1)).map (·.2)))
    let q := (List.zip blocks scales).flatMap (fun (bl, sc) => bl.map (fun (m, x) =>
      if m ∧ sc.1 ≠ 255 then convert (scaleVal (fval x) (127 - sc.1)) f (rmHand h) true else (0, 0)))
    let recs := scales.foldr (fun x acc => acc * 2 ^ 16 + x.1) 0
    let st := (q.foldl (fun x y => x ||| y.2) 0) ||| (scales.foldl (fun x y => x ||| y.2) 0)
    let t := tagJoin (vtag h a) (ptag h g)
    { occ := 4, lands := [vland h d 8 (BitVec.allOnes 1024) (packTile f.cbits (q.map (·.1)) recs) t (g != 0) st] }) s

/-! ### Predicates (R214, R215) -/

/-- Predicate logic of all 1,024 bits. -/
def predOp (k : Tok) (d a b : BitVec 5) (useB : Bool) (f : BitVec 1024 → BitVec 1024 → BitVec 1024) (s : State) : Res :=
  vectorOp k [] noLimit false (fun h =>
    let t := tagJoin (ptag h a) (if useB then ptag h b else Tag.empty)
    { occ := 0, lands := [pland h d 1 (f (preg h a) (preg h b)) t 0] }) s

/-- PAND (R214). -/
def execPand (k : Tok) (d a b : BitVec 5) (s : State) : Res := predOp k d a b true (fun x y => x &&& y) s
/-- POR (R214). -/
def execPor (k : Tok) (d a b : BitVec 5) (s : State) : Res := predOp k d a b true (fun x y => x ||| y) s
/-- PNOT (R214). -/
def execPnot (k : Tok) (d a : BitVec 5) (s : State) : Res := predOp k d a a false (fun x _ => ~~~x) s
/-- PXOR (R214). -/
def execPxor (k : Tok) (d a b : BitVec 5) (s : State) : Res := predOp k d a b true (fun x y => x ^^^ y) s

/-- PSET (R215). -/
def execPset (k : Tok) (d : BitVec 5) (kd : PsetKind) (cnt : BitVec 11) (s : State) : Res :=
  vectorLong k (fun _ => limitBroken (.pset k d kd cnt)) false (fun h =>
    let one := fun (i : Nat) => match kd with
      | .first => decide (i < cnt.toNat)
      | .last => decide (cnt.toNat ≤ i)
      | .col => decide (i % cols h < cnt.toNat)
    { occ := 0, lands := [pland h d 1 (predOf ((List.range 1024).map one)) Tag.empty 0] }) s

/-! ### Table lookup (R216) -/

/-- The bytes of a tile. -/
def tileBytes (v : List (BitVec 32)) : List Byte := v.flatMap (fun x => bytesOfNat 4 x.toNat)

/-- VTLU (R216): n - 1 is the field; a group beyond v31 is code 8. -/
def execVtlu (k : Tok) (d a b : BitVec 5) (n : BitVec 3) (g : BitVec 5) (fill : BitVec 8) (s : State) : Res :=
  vectorLong k (fun _ => decide (31 < a.toNat + n.toNat)) true (fun h =>
    let cnt := n.toNat + 1
    let names := (List.range cnt).map (fun i => a + BitVec.ofNat 5 i)
    let table := names.flatMap (fun r => tileBytes (vreg h r))
    let idx := tileBytes (vreg h b)
    let byte := fun (j : Nat) =>
      let i := (idx.getD (2 * j) 0).toNat + 256 * (idx.getD (2 * j + 1) 0).toNat
      if i < 4096 * cnt then table.getD i 0 else fill
    let word := fun (i : Nat) =>
      if i < 512 then BitVec.ofNat 32 (natOfBytes ((List.range 4).map (fun j => byte (4 * i + j)))) else 0
    let t := tagJoin (tagUnion (names.map (vtag h))) (tagJoin (vtag h b) (ptag h g))
    { occ := 4 * cnt, lands := [vland h d (4 * cnt + 6) (preg h g) ((List.range 1024).map word) t (g != 0) 0] }) s

/-! ### Buffer loads and stores (R217) -/

/-- The relative addresses of a buffer access's elements, and the address that a buffer-bounds trap names if its base or
stride is bad. strided: VLDR, VSTR. -/
def vecAddrs (h : Hand) (v : Word) (strided : Bool) : Except Nat (List Nat) :=
  let base := fld v 31 0
  let stride := fld v 63 32
  if ¬strided ∧ stride ≠ 0 then .error base
  else if base % 4 ≠ 0 ∨ stride % 4 ≠ 0 then .error base
  else .ok ((List.range 1024).map (fun i => if strided then base + i / cols h * stride + 4 * (i % cols h) else base + 4 * i))

/-- The lowest and one past the highest byte of elements of 4 bytes. -/
def spanOf (l : List Nat) : Nat × Nat := (l.foldl min (l.headD 0), l.foldl max 0 + 4)

/-- VLD and VLDR: issues once the range checker lets the read proceed; active elements land with an empty tag. -/
def vloadOp (k : Tok) (d : BitVec 5) (u : Buf) (r g : BitVec 5) (strided : Bool) (s : State) : Res :=
  issue s k (reqV [r] false false 1) fun t _ id =>
    let n := s.focus
    let h := handOf s n
    match vecAddrs h (regGet h.c r) strided with
    | .error x => .next (boundsTrap s n .c u x)
    | .ok l =>
      let (lo, hi) := spanOf l
      match windowFault h u lo hi with
      | some y => .next (boundsTrap s n .c u y)
      | none =>
        let rs := [rangeOf h u lo hi false]
        match portWait s n .c id (vectorPort u) rs with
        | some t => .next t
        | none =>
          let t := portTaken t n (vectorPort u) rs
          let e := easelOf s (easelNo n)
          let b := (windowOf h u).1
          let v := l.map (fun a => BitVec.ofNat 32 (natOfBytes (bufRead e u (b + a) 4)))
          let t := land t n (vland h d 8 (preg h g) v Tag.empty (g != 0) 0)
          .next (finish t n .c k (fun y => advance y 1))

/-- VST and VSTR: read at issue, held at the range checker until the tags are empty. -/
def vstoreOp (k : Tok) (d : BitVec 5) (u : Buf) (r g : BitVec 5) (strided : Bool) (s : State) : Res :=
  issue s k (reqV [r] false false 0) fun t _ id =>
    let n := s.focus
    let h := handOf s n
    match vecAddrs h (regGet h.c r) strided with
    | .error x => .next (boundsTrap s n .c u x)
    | .ok l =>
      let (lo, hi) := spanOf l
      match windowFault h u lo hi with
      | some y => .next (boundsTrap s n .c u y)
      | none =>
        if u = .wb then .next (engineListTrap s n .c true)
        else if ¬rcRoom s n then .next (stalled s n .c 12)
        else
          let b := (windowOf h u).1
          let cells := (List.zip (predBits (preg h g)) (List.zip l (vreg h d))).filterMap (fun (m, a, v) => if m then some (b + a, v) else none)
          let tag := tagJoin (vtag h d) (tagJoin (tagGet h.c r) (ptag h g))
          let t := rcEnter t n { ticket := id, hand := n, sq := .c, tag := tag, ranges := [rangeOf h u lo hi true], what := .vst cells }
          .next (finish t n .c k (fun y => advance y 1))

/-- VLD (R217). -/
def execVld (k : Tok) (d : BitVec 5) (u : Buf) (r g : BitVec 5) (s : State) : Res := vloadOp k d u r g false s
/-- VST (R217). -/
def execVst (k : Tok) (d : BitVec 5) (u : Buf) (r g : BitVec 5) (s : State) : Res := vstoreOp k d u r g false s
/-- VLDR (R217). -/
def execVldr (k : Tok) (d : BitVec 5) (u : Buf) (r g : BitVec 5) (s : State) : Res := vloadOp k d u r g true s
/-- VSTR (R217). -/
def execVstr (k : Tok) (d : BitVec 5) (u : Buf) (r g : BitVec 5) (s : State) : Res := vstoreOp k d u r g true s

/-! ### CP-form controls (R218, R219) -/

/-- An instruction of C that answers in a scalar register after 2 virtual cycles. -/
def scalarReply (k : Tok) (d : BitVec 5) (regs : List (BitVec 5)) (f : Hand → Word × Tag) (change : Hand → Hand) (s : State) : Res :=
  issue s k { reqCPw [.c] d regs with limit := false } fun t _ _ =>
    let g := s.focus
    let r := f (handOf t g)
    .next (finish (putReg (modHand t g change) g .c 2 d r.1 r.2) g .c k (fun y => advance y 1))

/-- VSHAPE (R218). -/
def execVshape (k : Tok) (d a : BitVec 5) (s : State) : Res :=
  scalarReply k d [a] (fun h => (shapeWord h, Tag.empty)) (fun h => writeShape h (regGet h.c a)) s
/-- ALGSEL (R218). -/
def execAlgsel (k : Tok) (d a : BitVec 5) (s : State) : Res :=
  scalarReply k d [a] (fun h => (h.algsel.zeroExtend 64, Tag.empty)) (fun h => { h with algsel := (regGet h.c a).extractLsb' 0 3 }) s
/-- PSEL (R219). -/
def execPsel (k : Tok) (d a b : BitVec 5) (s : State) : Res :=
  scalarReply k d [a, b] (fun h =>
    let p := (regGet h.c a).extractLsb' 0 5
    let n := fld (regGet h.c b) 3 0
    ((preg h p).extractLsb' (64 * n) 64, tagJoin (tagJoin (tagGet h.c a) (tagGet h.c b)) (ptag h p))) id s
/-- VLAND (R219). -/
def execVland (k : Tok) (d a b : BitVec 5) (s : State) : Res :=
  scalarReply k d [a, b] (fun h =>
    let p := (regGet h.c a).extractLsb' 0 5
    let q := (regGet h.c b).extractLsb' 0 5
    let n := ((predBits (preg h p &&& preg h q)).filter id).length
    (BitVec.ofNat 64 n, tagUnion [tagGet h.c a, tagGet h.c b, ptag h p, ptag h q])) id s

end Sys2Proof.Machine
end

