-- ==== Sys2Proof/Machine/Mural.lean ====
section
/-! DEFINITION. The mural array (R185-R194, R220-R239): operands and their checks, exact accumulation, leases and their
arbitration, chains and spills, cooperative groups, and the instructions of the C sequencer that use them. -/

namespace Sys2Proof.Machine

/-! ### The palette entry (R186, R187) -/

def palAsm (p : BitVec 128) : Nat := fld p 119 118
def palBsm (p : BitVec 128) : Nat := fld p 121 120

/-- The formats an operand may select: one code, or the four presets of its tag set. -/
def opFmts (mode tags : Nat) (code : BitVec 24) : List (Option Fmt) :=
  if mode = 0 then [fmtOf code] else (List.range 4).map (fun i => preset (bits tags (3 * i + 2) (3 * i)))

def palA (p : BitVec 128) : List (Option Fmt) := opFmts (palAsm p) (fld p 99 88) (p.extractLsb' 0 24)
def palB (p : BitVec 128) : List (Option Fmt) := opFmts (palBsm p) (fld p 111 100) (p.extractLsb' 24 24)
def palOut (p : BitVec 128) : Option Fmt := fmtOf (p.extractLsb' 48 24)

def isNarrowFloat (f : Option Fmt) : Bool :=
  match f with
  | some (.flt s e m x b) => decide ((Fmt.flt s e m x b).width ≤ 8)
  | _ => false

def isNarrowInt (f : Option Fmt) : Bool :=
  match f with
  | some (.int _ m _) => decide (m < 31)
  | _ => false

/-- Operand classes (R187). -/
inductive MuralClass where
  | narrowFloat | narrowInt | wide | weight
  deriving DecidableEq, Repr

/-- The class of an operand pair, if it is one of R187. -/
def palClass (p : BitVec 128) : Option MuralClass :=
  let a := palA p
  let b := palB p
  let fout := palOut p = some fp32 ∨ palOut p = some bf16 ∨ palOut p = some fp16
  if a.all isNarrowFloat ∧ b.all isNarrowFloat ∧ fout then some .narrowFloat
  else if palAsm p = 0 ∧ palBsm p = 0 ∧ a.all isNarrowInt ∧ b.all isNarrowInt ∧ palOut p = some int32 then some .narrowInt
  else if fout ∧ ((a = [some bf16] ∧ b = [some bf16]) ∨ (a = [some fp16] ∧ b = [some fp16])) then some .wide
  else if fout ∧ a = [some bf16] ∧ b.all (fun f => isNarrowFloat f || isNarrowInt f) then some .weight
  else none

/-- Whether an entry may be used (R187): valid, its zero fields zero, no reserved value, a class. -/
def palOk (p : BitVec 128) : Bool :=
  bit p 127 && decide (fld p 126 124 ≤ 4) && palBsm p != 3 && palAsm p != 3 && fld p 117 112 == 0 && fld p 87 72 == 0 &&
  (if palAsm p = 0 then fld p 99 88 == 0 else fld p 23 0 == 0) &&
  (if palBsm p = 0 then fld p 111 100 == 0 else fld p 47 24 == 0) && (palClass p).isSome

/-- The entry that a slot of an MMA names (R188). -/
def palSel (h : Hand) (slot : BitVec 4) : BitVec 128 :=
  let i := if slot = 15 then (h.palOff.toNat + 16 - (lcGet h.c h.palPlc).toNat % 16) % 16 else slot.toNat
  tget 0 h.palette i

/-- The container width of an operand: that of its widest format (R226). -/
def opBits (l : List (Option Fmt)) : Nat := l.foldl (fun w f => max w ((f.map Fmt.cbits).getD 0)) 0

/-- The block size of a scale mode. -/
def scaleBlock (mode : Nat) : Nat := if mode = 1 then 32 else 16

/-! ### Operand layout (R226, R227) -/

/-- An operand as it lies in its buffer: base, stride, stored rows, elements of a stored row, bytes of a stored row. -/
structure Tile where
  base   : Nat
  stride : Nat
  nrows  : Nat
  elems  : Nat
  bytes  : Nat
  deriving DecidableEq, Repr

def tileA (p : BitVec 128) (a : Word) (m k d : Nat) (ta : Bool) : Tile :=
  let e := if ta then m else k
  { base := fld a 31 0, stride := fld a 63 32, nrows := if ta then k else m, elems := e,
    bytes := e * d * opBits (palA p) / 8 + (if palAsm p = 0 then 0 else 2 * (k / scaleBlock (palAsm p))) }

def tileB (p : BitVec 128) (b : Word) (n k d : Nat) (tb : Bool) : Tile :=
  let e := if tb then k else n
  { base := fld b 31 0, stride := fld b 63 32, nrows := if tb then n else k, elems := e,
    bytes := e * d * opBits (palB p) / 8 + (if palBsm p = 0 then 0 else 2 * (k / scaleBlock (palBsm p))) }

/-- C's footprint is that of 4-byte containers, whatever OFMT (R225). -/
def tileC (c : Word) (m n d : Nat) : Tile :=
  { base := fld c 31 0, stride := fld c 63 32, nrows := m, elems := n, bytes := 4 * n * d }

/-- One past the last byte of a footprint, relative. -/
def Tile.hi (t : Tile) : Nat := t.base + (t.nrows - 1) * t.stride + t.bytes

/-- The reason of the bank-conflict trap (R227). -/
def bankReason (t : Tile) (unit : Nat) : Option Nat :=
  if t.stride % unit ≠ 0 then some 1
  else if t.stride / unit % 2 = 0 then some 2
  else if t.stride < t.bytes then some 3
  else if t.base % 32 ≠ 0 then some 4
  else none

/-- The first failing bank rule of A, B, C: the TINFO word. -/
def bankFault (ta tb tc : Tile) : Option Word :=
  let info := fun (r o : Nat) (t : Tile) => BitVec.ofNat 64 (at' t.stride 32 + at' o 8 + r)
  match bankReason ta 256, bankReason tb 256, bankReason tc 1024 with
  | some r, _, _ => some (info r 1 ta)
  | none, some r, _ => some (info r 2 tb)
  | none, none, some r => some (info r 3 tc)
  | none, none, none => none

/-- The first footprint outside its window, in the order A, B, C. -/
def footFault (h : Hand) (ta tb tc : Tile) : Option (Buf × Nat) :=
  match windowFault h .ab ta.base ta.hi, windowFault h .wb tb.base tb.hi, windowFault h .cb tc.base tc.hi with
  | some x, _, _ => some (.ab, x)
  | none, some x, _ => some (.wb, x)
  | none, none, some x => some (.cb, x)
  | none, none, none => none

/-! ### Exact accumulation (R189-R194, R230) -/

/-- n bits of a buffer from a bit position on. -/
def bufBits (e : Easel) (u : Buf) (pos n : Nat) : Nat :=
  bits (natOfBytes (bufRead e u (pos / 8) ((pos % 8 + n + 7) / 8))) (pos % 8 + n - 1) (pos % 8)

/-- A component decoded and scaled (R185), and, for an integer format, the pattern's integer (R177). Bits 15:10 of an
SCT16 record are zero (R185), and no chapter names a trap or a status for a set one: they are ignored (DESIGN CHOICE, log entry 38). -/
def component (e : Easel) (u : Buf) (win : Nat) (t : Tile) (fs : List (Option Fmt)) (mode d row el comp kIdx : Nat) : FVal × Int :=
  let cb := opBits fs
  let rowAt := win + t.base + row * t.stride
  let x := bufBits e u (8 * rowAt + (el * d + comp) * cb) cb
  let rec_ := natOfBytes (bufRead e u (rowAt + t.elems * d * cb / 8 + 2 * (kIdx / scaleBlock mode)) 2)
  let f := ((if mode = 0 then fs.headD none else fs.getD (bits rec_ 9 8) none)).getD fp32
  let v := f.value (x % 2 ^ f.width)
  let n := match f with
    | .int true mw _ => signed (mw + 1) x
    | .int false mw _ => ((x % 2 ^ mw : Nat) : Int)
    | _ => 0
  if mode = 0 then (v, n)
  else if rec_ % 256 = 255 then (.nan, n)
  else (scaleVal v ((rec_ % 256 : Nat) - 127), n)

/-- An element of the weight-only class's B converted to BF16 (R193). -/
def toBf16 (v : FVal) : FVal := bf16.value (convert v bf16 .rne false).1

/-- A group added to the accumulator (R190). -/
def addGroup (acc : FVal) (ps : List FVal) : FVal :=
  let mags := ps.filterMap (fun p => match p with
    | .fin n m e => if m = 0 then none else some (n, m, e)
    | _ => none)
  match mags with
  | [] => acc
  | (_, m0, e0) :: _ =>
    let top := mags.foldl (fun x (_, m, e) => max x (floorLog m e)) (floorLog m0 e0)
    let q := top - 47
    let s : Int := mags.foldl (fun x (n, m, e) =>
      let k := if q ≤ e then m * 2 ^ (e - q).toNat else m / 2 ^ (q - e).toNat
      x + sgnInt n k) 0
    fval (addVal .rne acc (.fin (decide (s < 0)) s.natAbs q)).1

/-- The products of a sequence cut into groups of n and added in order; fuel bounds the number of groups. -/
def addGroups (n : Nat) : Nat → FVal → List FVal → FVal
  | 0, acc, _ => acc
  | fuel + 1, acc, ps => if ps = [] then acc else addGroups n fuel (addGroup acc (ps.take n)) (ps.drop n)

/-- A float accumulator element (R190, R191): its start, the operand elements of its sequence, its products. -/
def accumulate (g : Nat) (start : FVal) (operands products : List FVal) : FVal :=
  let infs := (start :: products).filterMap (fun v => match v with
    | .inf n => some n
    | _ => none)
  if start = .nan ∨ operands.any (fun v => v == .nan) ∨ products.any (fun v => v == .nan) then .nan
  else if infs.any id ∧ infs.any not then .nan
  else match infs with
    | n :: _ => .inf n
    | [] => addGroups g products.length start products

/-- An INT32 accumulator element (R192). -/
def accumulateInt (sat : Bool) (start : Int) (products : List Int) : Int :=
  products.foldl (fun acc p =>
    let t := acc + p
    if sat then clampI (-2147483648) 2147483647 t else signed 32 (t % 4294967296).toNat) start

/-- The group size of a class (R189). -/
def groupSize (p : BitVec 128) : Nat :=
  match palClass p with
  | some .narrowFloat => if (palA p ++ palB p).all (fun f => decide ((f.map Fmt.width).getD 8 ≤ 6)) then 64 else 32
  | _ => 8

/-- The pattern of a value that FP32 holds. -/
def pat32 (v : FVal) : BitVec 32 := BitVec.ofNat 32 (convert v fp32 .rne false).1

/-! ### Commands -/

/-- The algebra dimension of a command. -/
def MuralCmd.d (c : MuralCmd) : Nat := algDim c.alg

/-- The easels that hold A and B of a slice (R232): its own for a command of one easel. -/
def sliceA (c : MuralCmd) (e : Nat) : Nat :=
  match c.group with
  | none => e
  | some (_, _, lead) => e / 4 * 4 + lead % 4
def sliceB (c : MuralCmd) (e : Nat) : Nat :=
  match c.group with
  | none => e
  | some (_, _, lead) => lead / 4 * 4 + e % 4

/-- The accumulator that a slice starts component cc of (m, n) from: the chain, CB as FP32 or INT32, CB in OFMT, or
zero; as a pattern of FP32 or INT32. -/
def startAcc (s : State) (e : Nat) (c : MuralCmd) (m n cc : Nat) : BitVec 32 :=
  let d := c.d
  let t := tileC c.c c.m c.n d
  let rowAt := c.winC + t.base + m * t.stride
  let word := fun (w : Nat) => natOfBytes (bufRead (easelOf s e) .cb (rowAt + (n * d + cc) * w) w)
  if c.start = 1 then ((easelOf s e).mural.chain.map (fun x => x.accs.getD ((m * c.n + n) * d + cc) 0)).getD 0
  else if ¬c.acc then 0
  else if c.start = 2 then BitVec.ofNat 32 (word 4)
  else match palOut c.pal with
    | some f => if f.cbits = 16 then pat32 (f.value (word 2)) else BitVec.ofNat 32 (word 4)
    | none => 0

/-- The accumulator of component cc of element (m, n) of a slice after the command (R230), as a pattern. -/
def sliceElement (s : State) (e : Nat) (c : MuralCmd) (m n cc : Nat) : BitVec 32 :=
  let d := c.d
  let ea := sliceA c e
  let eb := sliceB c e
  let tA := tileA c.pal c.a c.m c.k d c.ta
  let tB := tileB c.pal c.b c.n c.k d c.tb
  let weight := palClass c.pal == some .weight
  let elA := fun (k i : Nat) => component (easelOf s ea) .ab c.winA tA (palA c.pal) (palAsm c.pal) d (if c.ta then k else m) (if c.ta then m else k) i k
  let elB := fun (k i : Nat) =>
    let r := component (easelOf s eb) .wb c.winB tB (palB c.pal) (palBsm c.pal) d (if c.tb then n else k) (if c.tb then k else n) i k
    if weight then (toBf16 r.1, r.2) else r
  let conj := fun (on : Bool) (i : Nat) (r : FVal × Int) => if on && algConj c.alg i then (negVal r.1, -r.2) else r
  let terms := algTerms c.alg cc
  let prods := (List.range c.k).flatMap (fun k => terms.map (fun (neg, i, j) =>
    let l := if c.swap then conj c.conjB i (elB k i) else conj c.conjA i (elA k i)
    let r := if c.swap then conj c.conjA j (elA k j) else conj c.conjB j (elB k j)
    (neg, l, r)))
  let start := startAcc s e c m n cc
  if palClass c.pal = some .narrowInt then
    BitVec.ofInt 32 (accumulateInt (bit c.pal 122) start.toInt (prods.map (fun (neg, l, r) => if neg then -(l.2 * r.2) else l.2 * r.2)))
  else
    let ops := prods.flatMap (fun (_, l, r) => [l.1, r.1])
    let ps := prods.map (fun (neg, l, r) => (mulVal (if neg then negVal l.1 else l.1) r.1).1)
    match accumulate (groupSize c.pal) (fval start) ops ps with
    | .nan => canonNan
    | v => pat32 v

/-- All accumulators of a slice in the order row, column, component. -/
def sliceAccs (s : State) (e : Nat) (c : MuralCmd) : List (BitVec 32) :=
  (List.range c.m).flatMap (fun m => (List.range c.n).flatMap (fun n => (List.range c.d).map (fun cc => sliceElement s e c m n cc)))

/-- Accumulators written to the C tile: bytes is the container, put the pattern (R194, R225). -/
def writeTile (s : State) (e : Nat) (win : Nat) (t : Tile) (d bytes : Nat) (put : BitVec 32 → Nat) (accs : List (BitVec 32)) : State :=
  modEasel s e (fun x => (List.zip (List.range accs.length) accs).foldl (fun x (i, v) =>
    let row := i / (t.elems * d)
    bufWrite x .cb (win + t.base + row * t.stride + i % (t.elems * d) * bytes) (bytesOfNat bytes (put v))) x)

/-- The pattern written to CB in OFMT (R194). -/
def outPat (p : BitVec 128) (v : BitVec 32) : Nat :=
  match palOut p with
  | some f => if f = fp32 ∨ f = int32 then v.toNat else (convert (fval v) f (rmOf (p.extractLsb' 124 3)) (bit p 123)).1
  | none => v.toNat

def outBytes (p : BitVec 128) : Nat := match palOut p with
  | some f => f.cbits / 8
  | none => 4

/-- The ranges that a slice's easel enters in its range checker (R232, R235). -/
def sliceRanges (s : State) (e : Nat) (c : MuralCmd) : List BufRange :=
  let h := handOf s (4 * e + c.hand % 4)
  let d := c.d
  let ta := tileA c.pal c.a c.m c.k d c.ta
  let tb := tileB c.pal c.b c.n c.k d c.tb
  let tc := tileC c.c c.m c.n d
  (if sliceA c e = e then [rangeOf h .ab ta.base ta.hi false] else []) ++
  (if sliceB c e = e then [rangeOf h .wb tb.base tb.hi false] else []) ++
  (if c.acc then [rangeOf h .cb tc.base tc.hi false] else []) ++
  (if c.chain then [] else [rangeOf h .cb tc.base tc.hi true])

/-! ### Leases (R221-R224) -/

def muralOf (s : State) (e : Nat) : Mural := (easelOf s e).mural
def modMural (s : State) (e : Nat) (f : Mural → Mural) : State := modEasel s e (fun x => { x with mural := f x.mural })

/-- The PRIO of the queue of a hand's leaf (R37). -/
def leafPrio (s : State) (g : Nat) : Nat :=
  match leafIdent s g with
  | some (q, _, _) => fld (queueOf s q).desc 39 35
  | none => 0

/-- The accepted MMAs of a hand not yet started: what the lease of its easel is for. -/
def queuedOf (m : Mural) (h4 : Nat) : List MuralCmd := m.queue.filter (fun c => c.group.isNone && c.hand % 4 == h4)

/-- The accepted commands of a hand not yet started, MMAGs among them (R220). -/
def acceptedOf (s : State) (g : Nat) : List MuralCmd := (muralOf s (easelNo g)).queue.filter (fun c => c.hand == g)

/-- The member easels of a group of rows and columns that hand g leads, and a request's (R232). -/
def membersOf (g rows cols : Nat) : List Nat := (List.range rows).flatMap (fun i => (List.range cols).map (fun j => g / 4 + 4 * i + j))
def groupMembers (r : GroupReq) : List Nat := membersOf r.hand r.rows r.cols

/-- A cluster's group reservation: the first request in its arbiter's order (R233). -/
def reservation (s : State) (cl : Nat) : Option GroupReq := (tget [] s.groups cl).head?

/-- The cluster's reservation where this easel is a member that has not yet entered GROUP for it. -/
def reservationAt (s : State) (e : Nat) : Option GroupReq :=
  match reservation s (e / 16) with
  | some r => if (groupMembers r).contains e ∧ ¬((muralOf s e).lease = .group ∧ (muralOf s e).group = r.id) then some r else none
  | none => none

/-- Whether a hand asks for the lease of its easel itself: its C sequencer waits for it, or it has an accepted command not yet
started. -/
def asks (s : State) (e h4 : Nat) : Bool :=
  let g := 4 * e + h4
  (handOf s g).c.stall == 10 && handLive s g || acceptedOf s g != []

/-- Whether a hand requests the lease of its easel (R221): it asks for it, or it is a member of the cluster's group
reservation (log entry 38: a request behind the reservation has no members yet). -/
def requests (s : State) (e h4 : Nat) : Bool := asks s e h4 || (reservationAt s e).any (fun r => r.hand % 4 == h4)

/-- Requesters of an easel: global hand, PRIO, whether it is the reservation, which its issuer stands for. -/
def requesters (s : State) (e : Nat) : List (Nat × Nat × Bool) :=
  ((List.range 4).filter (fun h => asks s e h)).map (fun h => (4 * e + h, leafPrio s (4 * e + h), false)) ++
  (match reservationAt s e with
   | some r => [(r.hand, leafPrio s r.hand, true)]
   | none => [])

/-- Whether a hand other than the holder requests the lease. -/
def othersAsk (s : State) (e : Nat) : Bool := (requesters s e).any (fun r => r.1 != 4 * e + (muralOf s e).holder)

/-- The arbitration choice (R222), as a hand number and whether it is the reservation: the highest PRIO, then round-robin above
the last holder. A hand excluded after an LBOUND yield takes part only when it is alone. -/
def arbitrate (s : State) (e : Nat) : Option (Nat × Bool) :=
  let m := muralOf s e
  let all := requesters s e
  let cand : List (Nat × Nat × Bool) := match m.excluded with
    | some x => let l := all.filter (fun r => r.1 != 4 * e + x); if l = [] then all else l
    | none => all
  let top := cand.foldl (fun p r => max p r.2.1) 0
  let best := cand.filter (fun r => r.2.1 == top)
  (([1, 2, 3, 4].map (fun i => (m.last + i) % 4)).findSome? (fun h => best.find? (fun r => r.1 % 4 == h))).map (fun r => (r.1 % 4, r.2.2))

/-- The MSTAT word of a hand (R239). -/
def mstatWord (s : State) (g : Nat) : Word :=
  let e := easelNo g
  let m := muralOf s e
  let held := m.lease == .held || m.lease == .spilling
  let mine := held && m.holder == g % 4
  let req := (List.range 4).foldl (fun x h => x + (if requests s e h then 2 ^ h else 0)) 0
  BitVec.ofNat 64 (at' (if mine then m.budget else 0) 40 + at' (if held then m.holder else 0) 34 + at' held.toNat 33 +
    at' mine.toNat 32 + at' req 24 + at' (acceptedOf s g).length 18 +
    at' (m.chain.isSome && mine).toNat 17 + at' (handOf s g).chainMark.isSome.toNat 16 + (handOf s g).setBudget.toNat)

/-- Waits of requesting hands kept, and of the reservation as number 4: one starts with the request, the reservation's with its
MMAG, and ends with it (R223, R233). -/
def noteWaits (s : State) (e : Nat) : State :=
  let now := s.time.toNat
  modMural s e (fun m =>
    let on := (List.range 4).filter (fun h => asks s e h && !(m.lease == .held && m.holder == h))
    let res := match reservationAt s e with
      | some r => if m.lease = .held ∧ r.hand = 4 * e + m.holder then [] else [(4, tget r.since m.waits 4)]
      | none => []
    let waits := on.map (fun h => (h, tget now m.waits h)) ++ res
    { m with waits := waits, expired := m.expired.filter (fun h => waits.any (fun w => w.1 == h)) })

/-- An arbitration won by a waiter: those whose LBOUND had expired and lost start a new wait (R223). -/
def won (m : Mural) (now w : Nat) : Mural :=
  { m with waits := tdel (tmap m.waits (fun k v => if m.expired.contains k then now else v)) w, expired := [], excluded := none }

/-- A hand takes the lease: its budget is loaded, its wait is over. -/
def grant (s : State) (e h4 : Nat) : State :=
  let g := 4 * e + h4
  let h := handOf s g
  let b := if h.askBudget ≠ 0 then h.askBudget else h.setBudget.toNat
  let s := modHand s g (fun h => { h with askBudget := 0 })
  let s := modMural s e (fun m => { won m s.time.toNat h4 with
    lease := .held, holder := h4, last := h4, budget := b, mfree := false, idle := dieCycles s (e / 32) })
  trace (count s 1 e 1 1) g 6 .c (mstatWord s g) 0

/-- A free lease goes to the hand that the arbitration chooses; a reservation that it chooses is left to take the easel. -/
def grantFree (s : State) (e : Nat) : State :=
  match arbitrate s e with
  | some (h, false) => grant s e h
  | _ => s

/-- The spill of the open chain begins: it enters the range checker as a CB write (R225). -/
def beginSpill (s : State) (e : Nat) (c : Chain) : State :=
  let m := muralOf s e
  let t := tileC c.c c.m c.n c.d
  let rg : BufRange := { buf := .cb, lo := (c.base + t.base) / 32 * 32, hi := (c.base + t.hi + 31) / 32 * 32, wr := true }
  let r : RcEntry := { ticket := s.nextId, hand := 4 * e + m.holder, sq := .c, tag := Tag.empty, ranges := [rg], what := .cmd }
  let s := rcEnter s (4 * e) r
  count (modMural { s with nextId := s.nextId + 1 } e (fun m => { m with spill := some r.ticket })) 1 e 3 1

/-- The holder yields (R221): an open chain is spilled first. -/
def yieldLease (s : State) (e : Nat) : State :=
  match (muralOf s e).chain with
  | some c => beginSpill (modMural s e (fun m => { m with lease := .spilling, mfree := false })) e c
  | none => noteWaits (grantFree (noteWaits (modMural s e (fun m => { m with lease := .free, mfree := false })) e) e) e

/-- The lease at a command boundary, or while the array is idle (R221-R223). -/
def settleLease (s : State) (e : Nat) : State :=
  let s := noteWaits s e
  let m := muralOf s e
  if m.running.isSome ∨ m.spill.isSome then s
  else if m.lease = .free then grantFree s e
  else if m.lease = .held then
    if m.expired.any (fun h => h != m.holder) then
      yieldLease (count (modMural s e (fun m => { m with excluded := some m.holder })) 1 e 2 1) e
    else if m.mfree ∧ queuedOf m m.holder = [] then yieldLease s e
    else if m.budget = 0 then
      if othersAsk s e ∧ arbitrate s e ≠ some (m.holder, false) then yieldLease s e
      else modMural s e (fun m => { m with budget := (handOf s (4 * e + m.holder)).setBudget.toNat })
    else s
  else s

/-- An easel leaves GROUP (R234): its lease is free, or back with its former holder. -/
def afterGroup (s : State) (e : Nat) : State :=
  match (muralOf s e).back with
  | some (h, b) => settleLease (modMural s e (fun m => { m with lease := .held, holder := h, last := h, budget := b, back := none, idle := dieCycles s (e / 32) })) e
  | none => settleLease (modMural s e (fun m => { m with lease := .free })) e

/-- A hand's request for a group withdrawn, as its MMAG traps or its leaf goes: the members that had entered GROUP for it leave. -/
def dropGroup (s : State) (g : Nat) : State :=
  let cl := clusterNo g
  match (tget [] s.groups cl).find? (fun r => r.hand == g) with
  | none => s
  | some r =>
    let s := { s with groups := tput s.groups cl ((tget [] s.groups cl).filter (fun x => x.id != r.id)) }
    (groupMembers r).foldl (fun s e =>
      if (muralOf s e).lease = .group ∧ (muralOf s e).group = r.id then afterGroup s e else settleLease s e) s

/-- The lease given up as a leaf ends (retire: an open chain is discarded) or is pre-empted (R221, R337, R342), with the request
for a group. -/
def dropLease (s : State) (g : Nat) (retire : Bool) : State :=
  let e := easelNo g
  let s := dropGroup s g
  let s := modMural s e (fun m => { m with back := if m.back.any (fun b => b.1 == g % 4) then none else m.back })
  let m := muralOf s e
  if (m.lease = .held ∨ m.lease = .spilling) ∧ m.holder = g % 4 then
    if retire then
      let s := modEasel s e (fun x => { x with rc := x.rc.filter (fun r => some r.ticket != m.spill) })
      settleLease (modMural s e (fun m => { m with lease := .free, chain := none, spill := none, mfree := false })) e
    else if m.lease = .held ∧ m.spill.isNone then yieldLease s e
    else s
  else s

/-- C stalls for the lease: its hand requests it. -/
def leaseWait (s : State) (g ask : Nat) : State :=
  settleLease (modHand (stalled s g .c 10) g (fun h => { h with askBudget := ask })) (easelNo g)

/-! ### MMA and MMAG (R232-R236) -/

/-- The tile extents: M and N 32·2^code, K 32·2^code. -/
def ext2 (x : BitVec 2) : Nat := 32 * 2 ^ x.toNat
def ext3 (x : BitVec 3) : Nat := 32 * 2 ^ x.toNat

/-- The operand limits of code 8: the palette entry, the tile limits, a scale mode's storage order (R187, R231, R235). -/
def mmaLimit (h : Hand) (pal : BitVec 4) (alg : BitVec 3) (m n : BitVec 2) (ta tb : Bool) : Bool :=
  let p := palSel h pal
  let r := algSlot h alg.toNat
  let d := algDim r
  !palOk p || (r != 0 && decide ((d = 2 ∨ d = 4) ∧ (64 < ext2 m ∨ 64 < ext2 n))) ||
  (r != 0 && decide (d = 8 ∧ (32 < ext2 m ∨ 32 < ext2 n))) || (palAsm p != 0 && ta) || (palBsm p != 0 && !tb)

/-- What an MMA or MMAG carries besides its lease: operand registers, fields. -/
structure MmaArgs where
  c   : BitVec 5
  a   : BitVec 5
  b   : BitVec 5
  acc : Bool
  pal : BitVec 4
  alg : BitVec 3
  m   : BitVec 2
  n   : BitVec 2
  k   : BitVec 3
  ta  : Bool
  tb  : Bool
  ca  : Bool
  cb  : Bool
  sw  : Bool
  chain : Bool
  deriving DecidableEq, Repr

/-- The command of an MMA issued on a hand. -/
def mkMural (h : Hand) (g ticket : Nat) (x : MmaArgs) (group : Option (Nat × Nat × Nat)) : MuralCmd :=
  { iw := nextWord h.c ++ headWord h.c, ticket := ticket, hand := g, a := regGet h.c x.a, b := regGet h.c x.b, c := regGet h.c x.c, acc := x.acc, m := ext2 x.m,
    n := ext2 x.n, k := ext3 x.k, ta := x.ta, tb := x.tb, conjA := x.ca, conjB := x.cb, swap := x.sw, chain := x.chain,
    slot := x.alg.toNat, pal := palSel h x.pal, alg := algSlot h x.alg.toNat, rm := h.rm, group := group, start := 0, winA := 0, winB := 0, winC := 0 }

/-- The traps of R235 after those of R92: an empty slot, the bank rules, the footprints. -/
def mmaTrap (s : State) (g : Nat) (x : MmaArgs) : Option State :=
  let h := handOf s g
  let c := mkMural h g 0 x none
  if c.alg = 0 then some (takeTrap s g .c 9 (algInfo x.alg.toNat 0))
  else
    let ta := tileA c.pal c.a c.m c.k c.d c.ta
    let tb := tileB c.pal c.b c.n c.k c.d c.tb
    let tc := tileC c.c c.m c.n c.d
    match bankFault ta tb tc, footFault h ta tb tc with
    | some info, _ => some (takeTrap s g .c 3 info)
    | none, some (u, y) => some (boundsTrap s g .c u y)
    | none, none => none

/-- A slice accepted by an easel: its command, with the windows of the hands that hold A, B and C (R232), which stay reserved for their
leaves until it is over, and its range-checker entry. -/
def acceptSlice (s : State) (e : Nat) (c : MuralCmd) : State :=
  let win := fun (y : Nat) (u : Buf) => (windowOf (handOf s (4 * y + c.hand % 4)) u).1
  let c := { c with winA := win (sliceA c e) .ab, winB := win (sliceB c e) .wb, winC := win e .cb }
  let r : RcEntry := { ticket := c.ticket, hand := c.hand, sq := .c, tag := Tag.empty, ranges := sliceRanges s e c, what := .cmd }
  modMural (rcEnter s (4 * e) r) e (fun m => { m with queue := m.queue ++ [c] })

/-- MMA (R235). -/
def execMma (k : Tok) (c a b : BitVec 5) (acc : Bool) (pal : BitVec 4) (alg : BitVec 3) (m n : BitVec 2) (kk : BitVec 3)
    (ta tb ca cb sw chain : Bool) (s : State) : Res :=
  let x : MmaArgs := { c := c, a := a, b := b, acc := acc, pal := pal, alg := alg, m := m, n := n, k := kk, ta := ta, tb := tb,
                       ca := ca, cb := cb, sw := sw, chain := chain }
  issue s k (reqV [c, a, b] (mmaLimit (handOf s s.focus) pal alg m n ta tb) false 0) fun t _ id =>
    let g := s.focus
    let e := easelNo g
    match mmaTrap s g x with
    | some u => .next u
    | none =>
      let mu := muralOf s e
      if mu.lease ≠ .held ∨ mu.holder ≠ g % 4 ∨ 2 ≤ (acceptedOf s g).length then .next (leaseWait s g 0)
      else if ¬rcRoom s g then .next (stalled s g .c 12)
      else
        let t := acceptSlice t e (mkMural (handOf s g) g id x none)
        .next (settleLease (finish t g .c k (fun y => advance y 2)) e)

/-- The first member of a group whose hand h is bound to no leaf of the issuer's task, or is pre-empted (R232). -/
def groupFault (s : State) (r : GroupReq) : Option Nat :=
  (groupMembers r).find? (fun e =>
    let g := 4 * e + r.hand % 4
    stopping s g || (match (handOf s g).bound, (handOf s r.hand).bound with
      | some a, some b => a.launch != b.launch || a.task != b.task
      | _, _ => true))

/-- A request put at the end of its cluster's list, unless it stands there; one of another shape goes. The members' waits are
noted. -/
def askGroup (s : State) (r : GroupReq) : State :=
  let cl := clusterNo r.hand
  let same := (tget [] s.groups cl).any (fun x => x.hand == r.hand && x.rows == r.rows && x.cols == r.cols)
  if same then s
  else
    let s := dropGroup s r.hand
    let s := ticketed { s with groups := tput s.groups cl (tget [] s.groups cl ++ [{ r with id := s.nextId }]) }
    (groupMembers r).foldl settleLease s

/-- Whether every member of a hand's reservation is in GROUP for it (R233). -/
def groupReady (s : State) (r : GroupReq) : Bool :=
  (reservation s (clusterNo r.hand)).any (fun y => y.hand == r.hand && y.rows == r.rows && y.cols == r.cols &&
    (groupMembers r).all (fun e => (muralOf s e).lease == .group && (muralOf s e).group == y.id))

/-- MMAG (R236): the checks of MMA, the lease check, then the group reservation; every slice is accepted at once. -/
def execMmag (k : Tok) (c a b : BitVec 5) (acc : Bool) (pal : BitVec 4) (alg : BitVec 3) (m n : BitVec 2) (kk : BitVec 3)
    (ta tb ca cb sw : Bool) (gr gc : BitVec 2) (s : State) : Res :=
  let x : MmaArgs := { c := c, a := a, b := b, acc := acc, pal := pal, alg := alg, m := m, n := n, k := kk, ta := ta, tb := tb,
                       ca := ca, cb := cb, sw := sw, chain := false }
  let e := easelNo s.focus
  let far := decide (3 < e % 16 / 4 + gr.toNat ∨ 3 < e % 4 + gc.toNat)
  issue s k (reqV [c, a, b] (far || mmaLimit (handOf s s.focus) pal alg m n ta tb) false 0) fun t _ id =>
    let g := s.focus
    match mmaTrap (dropGroup s g) g x with
    | some u => .next u
    | none =>
      let r : GroupReq := { id := 0, hand := g, rows := gr.toNat + 1, cols := gc.toNat + 1, since := s.time.toNat }
      match groupFault s r with
      | some bad => .next (takeTrap (dropGroup s g) g .c 8 (BitVec.ofNat 64 (at' bad 32 + 1)))
      | none =>
        if ¬groupReady s r ∨ 2 ≤ (acceptedOf s g).length then .next (leaseWait (askGroup s r) g 0)
        else if ¬(groupMembers r).all (fun y => rcRoom s (4 * y)) then .next (stalled s g .c 12)
        else
          let cmd := mkMural (handOf s g) g id x (some (r.rows, r.cols, e))
          let t := (groupMembers r).foldl (fun t y => acceptSlice t y cmd) t
          let t := modHand t g (fun h => { h with chainMark := none })
          let cl := clusterNo g
          let t := { t with groups := tput t.groups cl ((tget [] t.groups cl).filter (fun y => y.hand != g)) }
          .next (finish t g .c k (fun y => advance y 2))

/-- GROUP_RESERVATION (R233, R234): a member easel whose arbitration chooses the cluster's reservation, or whose lease the
reserving hand holds with no accepted command left, enters GROUP; an open chain is spilled first. -/
def execGroupReservation (cl e : Nat) (s : State) : Res :=
  match reservationAt s e with
  | none => .next s
  | some r =>
    let m := muralOf s e
    if e / 16 ≠ cl ∨ m.running.isSome ∨ m.spill.isSome then .next s
    else if m.lease = .free ∧ arbitrate s e = some (r.hand % 4, true) then
      .next (modMural s e (fun m => { won m s.time.toNat 4 with lease := .group, group := r.id, last := r.hand % 4 }))
    else if m.lease = .held ∧ 4 * e + m.holder = r.hand ∧ queuedOf m m.holder = [] then
      match m.chain with
      | some c => .next (beginSpill s e c)
      | none => .next (modMural s e (fun m => { m with lease := .group, group := r.id, back := some (m.holder, m.budget) }))
    else .next s

/-! ### The array's own steps -/

/-- Whether a command continues a chain (R225). -/
def continues (c : MuralCmd) (x : Chain) : Bool :=
  c.group.isNone && c.acc && c.c == x.c && c.m == x.m && c.n == x.n && c.slot == x.slot && (palOut c.pal == some int32) == x.int

/-- The next command of the holder, or of the group. -/
def nextMural (m : Mural) : Option MuralCmd :=
  match m.lease with
  | .held => (queuedOf m m.holder).head?
  | .group => m.queue.find? (fun c => c.group.isSome)
  | _ => none

/-- A command started on one easel. -/
def startOn (s : State) (e : Nat) (c : MuralCmd) (start : Nat) (budget : Nat) : State :=
  modMural s e (fun m => { m with
    queue := m.queue.filter (fun x => x.ticket != c.ticket), running := some { (m.queue.find? (fun x => x.ticket == c.ticket)).getD c with start := start },
    budget := m.budget - budget })

/-- MURAL_COMMAND_START (R220): the holder's oldest accepted command starts; an open chain that it does not continue is
spilled first. All slices of a group start together (R233). -/
def execMuralCommandStart (e : Nat) (s : State) : Res :=
  let m := muralOf s e
  if m.running.isSome ∨ m.spill.isSome then .next s
  else match nextMural m with
  | none => .next s
  | some c =>
    match c.group with
    | some (rows, cols, _) => .next ((membersOf c.hand rows cols).foldl (fun s y => startOn s y c 0 0) s)
    | none =>
      match m.chain with
      | some x => if continues c x then .next (startOn s e c 1 1) else .next (beginSpill s e x)
      | none =>
        let mark := (handOf s c.hand).chainMark
        let s := modHand s c.hand (fun h => { h with chainMark := none })
        .next (noteWaits (startOn s e c (if mark.any (continues c) then 2 else 0) 1) e)

/-- Whether the entries of a slice's easels let it make its accesses now (R135). -/
def sliceFree (s : State) (c : MuralCmd) (e : Nat) : Bool :=
  [e, sliceA c e, sliceB c e].all (fun y =>
    let rc := (easelOf s y).rc
    match rc.find? (fun r => r.ticket == c.ticket) with
    | some r => !rcBlocked (rcBefore rc c.ticket) r.ranges
    | none => true)

/-- The bank conflicts of a slice's accesses through its easel's mural ports. -/
def muralConflicts (s : State) (e : Nat) (c : MuralCmd) : State :=
  (sliceRanges s e c).foldl (fun s r => bankConflicts s e (muralPort r.buf) [r]) s

/-- MURAL_COMMAND_COMPLETE (R220): the running command's results are written, to CB or to the open chain. -/
def execMuralCommandComplete (e : Nat) (s : State) : Res :=
  let m := muralOf s e
  match m.running with
  | none => .next s
  | some c =>
    if ¬sliceFree s c e then .next s
    else
      let accs := sliceAccs s e c
      let s := muralConflicts s e c
      let win := c.winC
      let s := if c.chain then
          modMural s e (fun m => { m with
            chain := some { c := c.c, m := c.m, n := c.n, slot := c.slot, int := palOut c.pal == some int32, d := c.d, base := win, accs := accs } })
        else
          modMural (writeTile s e win (tileC c.c c.m c.n c.d) c.d (outBytes c.pal) (outPat c.pal) accs) e
            (fun m => { m with chain := if c.group.isNone then none else m.chain })
      let s := modMural s e (fun m => { m with running := none, idle := dieCycles s (e / 32) })
      match c.group with
      | none => .next (settleLease (rcLeave s e c.ticket) e)
      | some (rows, cols, _) =>
        let mem := membersOf c.hand rows cols
        if mem.any (fun y => (muralOf s y).running.any (fun x => x.ticket == c.ticket)) then .next s
        else .next (mem.foldl (fun s y => afterGroup (rcLeave s y c.ticket) y) s)

/-- SPILL_COMPLETE (R221, R225): the accumulators are written as FP32 or INT32. After a yield the chain is marked spilled
and the lease is free; before another command, or a group, it is simply gone from the array. -/
def execSpillComplete (e : Nat) (s : State) : Res :=
  let m := muralOf s e
  match m.spill, m.chain with
  | some t, some c =>
    let rc := (easelOf s e).rc
    let rs := (rc.find? (fun r => r.ticket == t)).map (·.ranges)
    if rcBlocked (rcBefore rc t) (rs.getD []) then .next s
    else
      let s := writeTile s e c.base (tileC c.c c.m c.n c.d) c.d 4 (fun v => v.toNat) c.accs
      let s := modMural (rcLeave s e t) e (fun m => { m with chain := none, spill := none })
      if m.lease = .spilling then
        let s := modHand s (4 * e + m.holder) (fun h => { h with chainMark := some { c with accs := [] } })
        .next (noteWaits (grantFree (noteWaits (modMural s e (fun m => { m with lease := .free })) e) e) e)
      else .next (settleLease s e)
  | _, _ => .next s

/-- Whose LBOUND bounds a wait of an easel: the hand's, or for number 4 that of the reservation's issuer (R233). -/
def waiter (s : State) (e h : Nat) : Nat := if h = 4 then ((reservationAt s e).map (·.hand)).getD (4 * e) else 4 * e + h

/-- LBOUND_EXPIRY (R223): a waiting hand's bound, or for number 4 the group reservation's, has come; the holder yields at the next
boundary. -/
def execLboundExpiry (e h : Nat) (s : State) : Res :=
  let m := muralOf s e
  match m.waits.find? (fun w => w.1 == h) with
  | none => .next s
  | some (_, t) =>
    if s.time.toNat < t + (handOf s (waiter s e h)).lbound.toNat ∨ m.expired.contains h then .next s
    else .next (settleLease (modMural s e (fun m => { m with expired := h :: m.expired })) e)

/-- LEASE_IDLE_EXPIRY (R221): the holder has had no command running or accepted for 256 cycles of the die's clock (R4), and another
hand requests. -/
def execLeaseIdleExpiry (e : Nat) (s : State) : Res :=
  let m := muralOf s e
  if m.lease = .held ∧ m.running.isNone ∧ m.spill.isNone ∧ queuedOf m m.holder = [] ∧ othersAsk s e ∧ m.idle + 256 ≤ dieCycles s (e / 32) then
    .next (yieldLease s e)
  else .next s

/-! ### MLEASE, MFREE, MSTAT, MSYNC, ALGLD (R237, R239) -/

/-- The SETBUDGET that an operand of MLEASE gives. -/
def budgetOf (h : Hand) (v : Word) : Nat := if fld v 8 0 = 0 then h.setBudget.toNat else min (fld v 8 0) 256

/-- MLEASE (R239). -/
def execMlease (k : Tok) (d : Dst) (a : Src) (s : State) : Res :=
  issue s k { reqRR (some d) [a] with allowed := [.c] } fun t vals id =>
    let g := s.focus
    let h := handOf s g
    let m := muralOf s (easelNo g)
    let v := (valOf vals 0).1
    let mine := m.lease == .held && m.holder == g % 4
    if bit v 9 ∧ ¬mine then .next (leaseWait s g (budgetOf h v))
    else
      let old := h.setBudget.zeroExtend 64
      let t := modHand t g (fun h => { h with setBudget := BitVec.ofNat 9 (budgetOf h v) })
      .next (finish (putDst t g .c id 1 d old Tag.empty) g .c k (fun y => advance y 1))

/-- MFREE (R239). -/
def execMfree (k : Tok) (s : State) : Res :=
  issue s k (reqV [] false false 0) fun t _ _ =>
    let g := s.focus
    let e := easelNo g
    let m := muralOf s e
    let t := finish t g .c k (fun y => advance y 1)
    if m.lease = .held ∧ m.holder = g % 4 then .next (settleLease (modMural t e (fun m => { m with mfree := true })) e) else .next t

/-- MSTAT (R239). -/
def execMstat (k : Tok) (d : Dst) (s : State) : Res :=
  issue s k { reqRR (some d) [] with allowed := [.c] } fun t _ id =>
    let g := s.focus
    .next (finish (putDst t g .c id 1 d (mstatWord s g) Tag.empty) g .c k (fun y => advance y 1))

/-- Whether some MMA, MMAG or spill of a hand has not completed. -/
def muralBusy (s : State) (g : Nat) : Bool :=
  let e := easelNo g
  let m := muralOf s e
  (m.spill.isSome && m.holder == g % 4) ||
  (List.range 16).any (fun i =>
    let x := muralOf s (16 * (e / 16) + i)
    x.running.any (fun c => c.hand == g) || x.queue.any (fun c => c.hand == g))

/-- MSYNC (R239). -/
def execMsync (k : Tok) (s : State) : Res :=
  issue s k (reqV [] false false 0) fun t _ _ =>
    if muralBusy s s.focus then .next (stalled s s.focus .c 11)
    else .next (finish t s.focus .c k (fun y => advance y 1))

/-- Whether an algebra record is malformed (R229). -/
def algBad (r : BitVec 640) : Bool :=
  let d := algDim r
  fld r 639 528 != 0 || !(d == 1 || d == 2 || d == 4 || d == 8) || (List.range 8).any (fun i => decide (d ≤ i) && algConj r i) ||
  (List.range 64).any (fun n =>
    let e := fld r (8 * n + 7) (8 * n)
    if d ≤ n / 8 ∨ d ≤ n % 8 then e != 0
    else bits e 5 3 != 0 || bits e 7 6 == 3 || (bits e 7 6 == 0 && bits e 2 0 != 0) || decide (d ≤ bits e 2 0))

/-- ALGLD (R237). -/
def execAlgld (k : Tok) (sl : BitVec 3) (r : BitVec 5) (s : State) : Res :=
  issue s k (reqV [r] (limitBroken (.algld k sl r)) false 0) fun t _ id =>
    let g := s.focus
    let h := handOf s g
    let v := regGet h.c r
    let x := fld v 31 0
    if x % 16 ≠ 0 ∨ fld v 63 32 ≠ 0 then .next (boundsTrap s g .c .wb x)
    else match windowFault h .wb x (x + 80) with
    | some y => .next (boundsTrap s g .c .wb y)
    | none =>
      let rs := [rangeOf h .wb x (x + 80) false]
      match portWait s g .c id (vectorPort .wb) rs with
      | some t => .next t
      | none =>
        let t := portTaken t g (vectorPort .wb) rs
        let rec_ := BitVec.ofNat 640 (natOfBytes (bufRead (easelOf s (easelNo g)) .wb ((windowOf h .wb).1 + x) 80))
        if algBad rec_ then .next (takeTrap s g .c 9 (algInfo sl.toNat 1))
        else .next (finish (modHand t g (fun h => { h with algs := tput h.algs sl.toNat rec_ })) g .c k (fun y => advance y 2))

end Sys2Proof.Machine
end

