-- ==== Sys2Proof/Machine/Perform.lean ====
section
/-! DEFINITION. What an ordering buffer does next (R157-R164, R169-R171), the stall time-out and its pentimento record
(R270-R273). -/

namespace Sys2Proof.Machine

/-! ### Performing an entry -/

/-- A piece that stands for an access to no byte of memory. -/
def noPiece : Piece := { va := 0, pa := 0, psize := 12, len := 0, off := 0, kind := .rc, ptype := .normal, done := false, fwd := none, data := [] }

/-- Free bytes, and the state with the counter advanced (log entry 3). -/
def takeFreeBytes (s : State) (n : Nat) : List Byte × State :=
  ((List.range n).map (fun i => Config.freeByte s.fresh i), { s with fresh := s.fresh + 1 })

/-- Bytes of one piece of a load bound at its point of performance, or none while it must wait there. -/
def bindPiece (s : State) (tn : Turn) (g : Nat) (p : Piece) : Option (List Byte × State) :=
  match p.ptype with
  | .sync => (syncTouch s p.pa).map (fun s => (memRead s.mem p.pa p.len, s))
  | .glaze => if glazeReady s tn (handPart s g) p.va p.pa true then some (glazeTap s (handPart s g) p.va p.pa p.len) else none
  | _ => if canReach s tn (dieNo g) false p.kind p.ptype p.pa p.len then some (pointRead s (dieNo g) p.kind p.ptype p.pa p.len) else none

/-- The bytes of one piece of a store written at its point of performance; a release bypasses the die cache (R158). -/
def storePiece (s : State) (tn : Turn) (g : Nat) (q : SeqId) (e : ObEntry) (p : Piece) (rel : Bool) : Option State :=
  let bs := (e.data.drop p.off).take p.len
  match p.ptype with
  | .sync => (syncTouch s p.pa).map (fun s => { s with mem := memWrite s.mem p.pa bs })
  | .glaze => if glazeReady s tn (handPart s g) p.va p.pa false then some (glazeSample s (handPart s g) p.va p.pa p.len (natOfBytes bs)) else none
  | _ =>
    if rel then
      if chanOpen s tn p.pa then some (chanWrote { s with mem := memWrite s.mem p.pa bs } p.pa) else none
    else if canReach s tn (dieNo g) true p.kind p.ptype p.pa p.len then
      let s := pointWrite s (dieNo g) p.kind p.ptype p.pa bs
      some (if viaCache (dieNo g) p.kind p.ptype p.pa then
        modSq s g q (fun x => { x with dirtied := { ticket := e.ticket, pa := p.pa, len := p.len, uo := p.kind == .uo } :: x.dirtied })
      else s)
    else none

/-- A piece of a load or a store that waits at its point of performance. -/
def pieceWait (s : State) (tn : Turn) (g : Nat) (p : Piece) (load : Bool) : State :=
  if p.ptype = .glaze then glazeWait s tn (handPart s g) p.va p.pa load else waitAt s tn p.ptype p.pa

/-- The taps that a GLDG's mask names, written to consecutive registers (R255): taps 0-2 of a Q15 word are sign-extended. -/
def tapsArrive (s : State) (g : Nat) (q : SeqId) (e : ObEntry) (d : BitVec 512) (d0 : Nat) (m : BitVec 5) (bs : List Byte) : State :=
  let t := loadTag (sqOf s g q) e.ticket
  (tapRegs (BitVec.ofNat 5 d0) m).foldl (fun s (r : BitVec 5 × Nat) =>
    let v := (word32At bs r.2).toNat
    let v := if rgFmt d = 2 ∧ r.2 < 3 then BitVec.ofInt 64 (signed 32 v) else BitVec.ofNat 64 v
    arrive s g q e.ticket (.reg r.1.toNat) v t) s

/-- A glaze entry performed (R254-R258). -/
def glazePerform (s : State) (tn : Turn) (g : Nat) (q : SeqId) (before : List ObEntry) (e : ObEntry) (op : Nat) (args : List Word) (dst : DstRef) : State :=
  let part := handPart s g
  let a := args.getD 0 0
  let b := args.getD 1 0
  let may := (noPiece :: e.pieces).all (fun p => mayPerform s g q before e p)
  match op with
  | 5 =>
    if ¬tagEmpty e.tag then s
    else entryDone (arrive s g q e.ticket dst (regionStatus s part (fld a 7 0)) Tag.empty) g q e.ticket
  | 1 =>
    match e.pieces with
    | [] => s
    | p :: _ =>
      if ¬may then s
      else if ¬glazeReady s tn part p.va p.pa true then glazeWait s tn part p.va p.pa true
      else
        let d := ((regionAt s part p.va).map (·.2)).getD 0
        let (bs, s) := glazeTap (servedAs s tn p.pa) part p.va p.pa p.len
        let d0 := match dst with
          | .reg n => n
          | _ => 0
        entryDone (loadOver (tapsArrive s g q e d d0 (a.extractLsb' 0 5) bs) g q e.ticket) g q e.ticket
  | 2 =>
    match e.pieces with
    | [] => s
    | p :: _ =>
      if ¬may then s
      else if ¬glazeReady s tn part p.va p.pa false then glazeWait s tn part p.va p.pa false
      else entryDone (glazeReset (servedAs s tn p.pa) part p.va p.pa a.toNat) g q e.ticket
  | _ =>
    if ¬may ∨ s.glazeJobs.any (fun j => j.ticket == e.ticket) then s
    else
      let page := fun (p : Piece) =>
        ({ part := part, vbase := p.va - p.va % 4096, size := 12, pbase := p.pa - p.pa % 4096, kind := p.kind, ptype := p.ptype, sup := false, w := true,
           rd := true, keyid := part, layout := 0 } : Page)
      acceptJob s
        { ticket := e.ticket, part := part, region := fld a 7 0, op := op, n := if op = 0 then fld b 15 0 else 0
          image := e.pieces.map page, imgVa := e.va, hand := g, sq := q, leaf := (handOf s g).bound, dst := dst, cookie := none
          node := none, chans := [], holds := [], pos := 0, held := [], desc := 0, words := [] }

/-- Piece i of the entry at position ix performed, if the rules let it. bad says that what it reads has an uncorrectable error: a
machine check is reported, of the synchronisation engine on a sync page and else of the die cache, and what it read is a free
value (R263, R334, log entry 38). -/
def performPiece (s : State) (bad : Bool) (g : Nat) (q : SeqId) (ix i : Nat) : State :=
  let ob := (sqOf s g q).ob
  match ob[ix]? with
  | none => s
  | some e =>
    let before := ob.take ix
    let tn := Turn.known e.ticket 0
    match e.op with
    | .fence _ _ _ _ _ _ _ => s
    | .glaze op args dst => glazePerform s tn g q before e op args dst
    | .barrier op b reg _ _ =>
      match e.pieces with
      | [] => s
      | p :: _ => if mayPerform s g q before e p then barrierPerform s bad g q e op b reg else s
    | .amo op dbl _ b c dst =>
      match e.pieces with
      | [] => s
      | p :: _ => if mayPerform s g q before e p then amoPerform s tn bad g q e op dbl b c dst else s
    | .load sgn acq dst =>
      match e.pieces[i]? with
      | none => s
      | some p =>
        if p.done ∨ p.fwd.isSome ∨ ¬mayPerform s g q before e p then s
        else match bindPiece s tn g p with
        | none => pieceWait s tn g p true
        | some (bs, s) =>
          let s := servedAs s tn p.pa
          let (bs, s) := if bad then
              takeFreeBytes (reportMc s g (handOf s g).bound (p.pa / 4096) (if p.ptype = .sync then 4 else 7)) p.len
            else (bs, s)
          loadAdvanced s g q (pieceDone e i bs) sgn acq dst
    | .store rel =>
      match e.pieces[i]? with
      | none => s
      | some p =>
        if p.done ∨ ¬mayPerform s g q before e p then s
        else match storePiece s tn g q e p rel.isSome with
        | none => pieceWait s tn g p false
        | some s =>
          let s := servedAs s tn p.pa
          let e' := pieceDone e i []
          if allDone e' then entryDone s g q e.ticket else setEntry s g q e'

/-- Whether an earlier entry x keeps a part of a load from being satisfied by the store with ticket t (R161, R162). Not that store; not
by overlap another load, nor a store before it, whose bytes it covers and behind which it stands itself. -/
def forwardBehind (s : State) (part t : Nat) (x e : ObEntry) (p : Piece) : Bool :=
  let passed := match x.op with
    | .load _ _ _ => true
    | .store _ => decide (x.ticket < t)
    | _ => false
  decide (x.ticket ≠ t) && (soBehind s part x e p || (!passed && overlapBehind s part x e p))

/-- The part of a load that holds piece i satisfied from the youngest earlier store that covers it (R162, R170), once nothing but that
store holds it back. A fence that orders the load behind that store does hold it back (R165). -/
def forwardEntry (s : State) (g : Nat) (q : SeqId) (ix i : Nat) : State :=
  let ob := (sqOf s g q).ob
  match ob[ix]? with
  | none => s
  | some e =>
    match e.op, e.pieces[i]? with
    | .load sgn acq dst, some p =>
      let before := ob.take ix
      let ps := partOfPiece e p
      match fwdStore before ps with
      | none => s
      | some st =>
        if ¬ps.all (fun p => mayPerformBehind s g q before e p (fun x => forwardBehind s (handPart s g) st.ticket x e p)) then s
        else loadAdvanced s g q (forwarded e st p) sgn acq dst
    | _, _ => s

/-- ORDERING_BUFFER_PERFORM (R161). -/
def execOrderingBufferPerform (g : Nat) (sq : SeqId) (ix part : Nat) (how : Performing) (s : State) : Res :=
  match how with
  | .plain => .next (performPiece s false g sq ix part)
  | .forwarded => .next (forwardEntry s g sq ix part)
  | .bad => .next (performPiece s true g sq ix part)

/-! ### The stall time-out (R270-R273) -/

/-- The 6-bit destination and the 7-bit sources of an instruction. -/
def operandsOf (i : Instr) : Option Dst × List Src :=
  match i with
  | .add _ d s0 s1 => (some d, [s0, s1])
  | .sub _ d s0 s1 => (some d, [s0, s1])
  | .and _ d s0 s1 => (some d, [s0, s1])
  | .or _ d s0 s1 => (some d, [s0, s1])
  | .xor _ d s0 s1 => (some d, [s0, s1])
  | .sll _ d s0 s1 => (some d, [s0, s1])
  | .srl _ d s0 s1 => (some d, [s0, s1])
  | .sra _ d s0 s1 => (some d, [s0, s1])
  | .mul _ d s0 s1 => (some d, [s0, s1])
  | .mulh _ d s0 s1 => (some d, [s0, s1])
  | .mulhu _ d s0 s1 => (some d, [s0, s1])
  | .andn _ d s0 s1 => (some d, [s0, s1])
  | .div _ d s0 s1 => (some d, [s0, s1])
  | .divu _ d s0 s1 => (some d, [s0, s1])
  | .rem _ d s0 s1 => (some d, [s0, s1])
  | .remu _ d s0 s1 => (some d, [s0, s1])
  | .seq _ d s0 s1 => (some d, [s0, s1])
  | .slt _ d s0 s1 => (some d, [s0, s1])
  | .sltu _ d s0 s1 => (some d, [s0, s1])
  | .sne _ d s0 s1 => (some d, [s0, s1])
  | .min _ d s0 s1 => (some d, [s0, s1])
  | .max _ d s0 s1 => (some d, [s0, s1])
  | .minu _ d s0 s1 => (some d, [s0, s1])
  | .maxu _ d s0 s1 => (some d, [s0, s1])
  | .addi _ d s0 _ => (some d, [s0])
  | .andi _ d s0 _ => (some d, [s0])
  | .ori _ d s0 _ => (some d, [s0])
  | .xori _ d s0 _ => (some d, [s0])
  | .slli _ d s0 _ => (some d, [s0])
  | .srli _ d s0 _ => (some d, [s0])
  | .srai _ d s0 _ => (some d, [s0])
  | .roti _ d s0 _ => (some d, [s0])
  | .slti _ d s0 _ => (some d, [s0])
  | .sltiu _ d s0 _ => (some d, [s0])
  | .addsh _ d s0 s1 _ => (some d, [s0, s1])
  | .clz _ d s0 => (some d, [s0])
  | .ctz _ d s0 => (some d, [s0])
  | .popc _ d s0 => (some d, [s0])
  | .brev _ d s0 => (some d, [s0])
  | .tclr _ d s0 => (some d, [s0])
  | .tget _ d _ => (some d, [])
  | .tjoin _ d s0 s1 => (some d, [s0, s1])
  | .chcnt _ d s0 => (some d, [s0])
  | .chfree _ d s0 => (some d, [s0])
  | .tkcnt _ d _ => (some d, [])
  | .jr _ s0 => (none, [s0])
  | .jalr _ s0 => (none, [s0])
  | .loop _ _ s0 => (none, [s0])
  | .ld _ d s0 _ _ => (some d, [s0])
  | .lds _ d s0 _ _ => (some d, [s0])
  | .lda _ d s0 _ _ _ => (some d, [s0])
  | .st _ _ s0 s1 _ => (none, [s0, s1])
  | .str _ _ _ s0 s1 _ => (none, [s0, s1])
  | .ldb _ d s0 _ _ _ => (some d, [s0])
  | .stb _ _ _ s0 s1 _ => (none, [s0, s1])
  | .mlease _ d s0 => (some d, [s0])
  | .mstat _ d => (some d, [])
  | .csrr _ d _ => (some d, [])
  | .csrw _ s0 _ => (none, [s0])
  | .palbaseWrite _ s0 => (none, [s0])
  | .trap _ s0 => (none, [s0])
  | .liw _ d _ => (some d, [])
  | _ => (none, [])

/-- The destination and sources of a sequencer's head instruction, where it has fetched one. -/
def headOperands (q : Seqr) : Option Dst × List Src :=
  if q.line.isNone then (none, [])
  else match decode (headWord q) (nextWord q) with
  | .ok i => operandsOf i
  | .error _ => (none, [])

/-- Whether the head instruction pushes to channel n. -/
def headPushes (q : Seqr) (n : Nat) : Bool := match (headOperands q).1 with
  | some (.chan m) => m.toNat == n
  | _ => false

/-- The channel that lacks an entry for the head instruction's sources, taken in order (R71). -/
def lackingChan (h : Hand) : List Src → Option Nat
  | [] => none
  | .reg _ :: r => lackingChan h r
  | .peek n :: r => if visible (chanList h n.toNat) = [] then some n.toNat else lackingChan h r
  | .pop n :: r => if visible (chanList h n.toNat) = [] then some n.toNat
      else lackingChan { h with chans := tput h.chans n.toNat (chanList h n.toNat).tail } r

/-- PEND of a channel (R273). -/
def chanPend (s : State) (g n : Nat) : Bool :=
  let h := handOf s g
  match chanReader (g % 4) n with
  | none => false
  | some r =>
    let q := seqOf h r
    let landing := h.landings.any (fun l => match l.what with
      | .chan m _ => m == n
      | _ => false)
    let engine := (tget [] s.pushes g).any (fun p => p.chan == n)
    let writer := if n < 12 then (match chanWriter (g % 4) n with
        | some w => headPushes (seqOf h w) n
        | none => false)
      else headPushes (sqOf s (4 * (g / 4) + (n - 12)) .s) (12 + g % 4)
    q.stall == 4 && lackingChan h (headOperands q).2 == some n && !landing && !engine && !writer

/-- Whether C stands at a due landing that pushes to channel n (R71, R80). -/
def landingPushes (h : Hand) (n : Nat) : Bool :=
  (h.landings.find? (fun l => l.rem == 0)).any (fun l => match l.what with
    | .chan m _ => m == n
    | _ => false)

/-- A channel's byte in the record: the entries that its reader finds, PEND, and whether its writer stalls on it for want of room. C
stalls so at a landing, the others at an instruction. -/
def chanByte (s : State) (g n : Nat) : Byte :=
  let h := handOf s g
  if n = 12 + g % 4 then 0
  else
    let full := if 12 ≤ n then
        let q := sqOf s (4 * (g / 4) + (n - 12)) .s
        q.stall == 5 && headPushes q (12 + g % 4)
      else match chanWriter (g % 4) n with
        | none => false
        | some .c => h.c.stall == 5 && landingPushes h n
        | some w => (seqOf h w).stall == 5 && headPushes (seqOf h w) n
    BitVec.ofNat 8 ((visible (chanList h n)).length % 32 + at' (chanPend s g n).toNat 5 + at' full.toNat 6)

/-- The stall time of a sequencer in µs. -/
def stallUs (s : State) (q : Seqr) : Nat := match q.since with
  | some t => (s.time.toNat - t) / 1000
  | none => 0

/-- A 32-byte ENGHEAD entry: how many entries of the hand, the state of the oldest, its first 24 bytes. -/
def engHead (n st : Nat) (body : List Byte) : List Byte :=
  BitVec.ofNat 8 (min n 255) :: BitVec.ofNat 8 st :: List.replicate 6 0 ++ (body ++ List.replicate 24 0).take 24

/-- First bytes of an entry whose layout the spec does not give: free values. -/
def freeBytes (fresh n : Nat) : List Byte := (List.range n).map (fun i => Config.freeByte fresh i)

/-- State of a queued entry: 1 waiting on a tag, 2 waiting for its turn, 3 performing. -/
def entryState (tag : Tag) (busy : Bool) : Nat := if ¬tagEmpty tag then 1 else if busy then 3 else 2

/-- The ENGHEAD entry of an engine queue: a PUSHC command shows its words. -/
def engQueueHead (l : List EngCmd) (g fresh : Nat) : List Byte :=
  match l.filter (fun c => c.hand == g) with
  | [] => engHead 0 0 []
  | c :: r => engHead (r.length + 1) (entryState c.tag (c.phase != 0))
      (if c.fn.isNone then (c.words.take 3).flatMap (fun w => bytesOfNat 8 w.toNat) else freeBytes fresh 24)

def obHead (q : Seqr) (fresh : Nat) : List Byte :=
  match q.ob with
  | [] => engHead 0 0 []
  | e :: r => engHead (r.length + 1) (entryState e.tag (e.pieces.any (fun p => p.done || p.fwd.isSome))) (freeBytes fresh 24)

/-- Bytes 128-479 of the record. Commands of the glaze-control queue that their engine has taken are at work. -/
def engHeads (s : State) (g f : Nat) : List Byte :=
  let e := easelOf s (easelNo g)
  let h := handOf s g
  (match e.copyQ.filter (fun c => c.hand == g) with
   | [] => engHead 0 0 []
   | c :: r => engHead (r.length + 1) (entryState c.tag c.started)
       (if c.words != [] then (c.words.take 3).flatMap (fun w => bytesOfNat 8 w.toNat) else freeBytes f 24)) ++
  (match s.glazeJobs.filter (fun j => j.hand == g && j.cookie.isSome) with
   | [] => engQueueHead e.glazeQ g (f + 1)
   | j :: r => engHead (r.length + 1 + (e.glazeQ.filter (fun c => c.hand == g)).length) 3 ((j.words.take 3).flatMap (fun w => bytesOfNat 8 w.toNat))) ++
  engQueueHead e.frescoQ g (f + 2) ++ engQueueHead e.collQ g (f + 3) ++ engQueueHead e.syncQ g (f + 4) ++
  (match (e.mural.running.toList ++ e.mural.queue).filter (fun c => c.hand == g) with
   | [] => engHead 0 0 []
   | c :: r => engHead (r.length + 1) (if e.mural.running == some c then 3 else 2) (bytesOfNat 8 c.iw.toNat)) ++
  (match e.rc.filter (fun r => r.hand == g) with
   | [] => engHead 0 0 []
   | c :: r =>
     let atWork := e.copyQ.any (fun y => y.ticket == c.ticket && y.started) || e.mural.running.any (fun y => y.ticket == c.ticket) ||
       e.mural.spill == some c.ticket
     let tag := tagJoin c.tag (((e.copyQ.find? (fun y => y.ticket == c.ticket)).map (·.tag)).getD Tag.empty)
     engHead (r.length + 1) (entryState tag atWork) (freeBytes (f + 5) 24)) ++
  obHead h.x (f + 6) ++ obHead h.l (f + 7) ++ obHead h.s (f + 8) ++ engHead 0 0 []

/-- The pentimento record of R272. -/
def pentimento (s : State) (g : Nat) (q : SeqId) (seqno f : Nat) : List Byte :=
  let h := handOf s g
  let sqs := [h.x, h.l, h.c, h.s]
  let head := fun (x : Seqr) => bytesOfNat 8 (ptrWord x.pc).toNat ++
    bytesOfNat 4 (if x.line.isSome then (headWord x).toNat else 0) ++
    bytesOfNat 4 (if x.line.isSome ∧ isLong (headWord x) then (nextWord x).toNat else 0)
  bytesOfNat 8 s.time.toNat ++
  bytesOfNat 8 (at' (seqno % 2 ^ 32) 32 + at' 1 24 + at' (handPart s g % 64) 16 + at' (seqNo q) 9 + g) ++
  sqs.flatMap head ++
  sqs.flatMap (fun x => bytesOfNat 4 (at' (min (stallUs s x) (2 ^ 24 - 1)) 8 + x.stall)) ++
  [h.x.fwdQ, h.l.fwdQ, h.c.fwdQ, h.s.fwdQ, h.l.backQ, h.c.backQ, h.s.backQ, h.x.backQ].map (BitVec.ofNat 8) ++
  (List.range 16).map (chanByte s g) ++ List.replicate 8 0 ++ engHeads s g f ++ List.replicate 32 0

/-- The sequencer whose stall has reached the limit, the lowest first. -/
def timedOut (s : State) (g : Nat) : Option SeqId :=
  allSeqs.find? (fun q => canIssue s g q && (match (sqOf s g q).since with
    | some t => decide (t + 1000 * (handOf s g).waitlim.toNat ≤ s.time.toNat)
    | none => false))

/-- The dirty lines of a die cache. -/
def dirtyLines (s : State) (d : Nat) : List Nat :=
  (((dieOf s d).cache.filter (fun e => e.2.dirty)).map (fun e => e.1 / 128 * 128)).eraseDups

/-- The dirty bytes of a die cache written back, line by line. -/
def flushDie (s : State) (d : Nat) : State := (dirtyLines s d).foldl (fun s a => writeBackLine s d a) s

/-- A range written from a hand of die d at the points of performance of its pages, in supervisor state (R158). -/
def dieWrite (s : State) (d part : Nat) (types : List PageType) (va : Nat) (bs : List Byte) : Except (Nat × XlFault) State :=
  let ts := splitRange va bs.length
  match unitPages s part true false true types ts with
  | .error e => .error e
  | .ok ps => .ok ((List.zip ts ps).foldl (fun s (t, p) =>
      pointWrite (walkTouched s part t.va) d p.kind p.ptype (physOf p t.va) ((bs.drop (t.va - va)).take t.len)) s)

/-- What the record of a stall is written to, and how: the addresses that the write meets, and the lines that it brings into the die
cache. -/
def hangLines (s : State) (d part va : Nat) : List Nat :=
  (splitRange va 512).flatMap (fun t => match walk s part t.va with
    | .ok p => linesVia d p.kind p.ptype (physOf p t.va) t.len
    | .error _ => [])

/-- STALL_TIME_OUT (R270): the record is captured and written with a release at system scope, then the trap is taken at
the stalled instruction. It waits while a channel that it writes to takes no access. -/
def execStallTimeOut (g : Nat) (s : State) : Res :=
  match timedOut s g with
  | none => .next s
  | some q =>
    let p := handPart s g
    let n := (partOf s p).hangSeq
    let at_ := (partOf s p).hang.map (fun h => h.1 + 512 * (n.toNat % h.2))
    let addrs := fun (a : Nat) => unitAddrs s p a 512 ++ dirtyLines s (dieNo g)
    if ¬at_.all (fun a => unitsOpen s (addrs a) && linesRoom s (dieNo g) (hangLines s (dieNo g) p a)) then
      .next ((at_.map addrs).elim s (unitsKnock s))
    else
    let rec_ := pentimento s g q n.toNat s.fresh
    let reason := (sqOf s g q).stall
    let s := modPart { s with fresh := s.fresh + 9 } p (fun x => { x with hangSeq := n + 1 })
    let (s, lost) := match at_ with
      | none => (s, true)
      | some a =>
        match dieWrite s (dieNo g) p [.normal] a rec_ with
        | .error _ => (s, true)
        | .ok s => (flushDie s (dieNo g), false)
    let s := withdraw (if q = .c then dropGroup s g else s) g q (fun _ => true)
    let s := modPart s p (fun x => { x with regions := tmap x.regions (fun _ r => match r.wait with
      | some (w, _) => if w = g then { r with wait := none } else r
      | none => r) })
    .next (takeTrap (dropWalks s g q) g q 12 (BitVec.ofNat 64 (at' n.toNat 32 + at' lost.toNat 8 + reason)))

end Sys2Proof.Machine
end

