-- ==== Sys2Proof/Machine/HostIf.lean ====
section
/-! DEFINITION. The host's and the supervisor's side of submission (R35-R48, R52, R172): delivery contexts, RMA, tails,
queue descriptors, completion records, partitions and their resources. -/

namespace Sys2Proof.Machine

/-! ### Completion records (R343-R345) -/

/-- The 64 bytes of a completion record. -/
def recordBytes (status detail node queue : Nat) (va cookie tstart tend d0 d1 d2 : Word) : List Byte :=
  bytesOfNat 8 (at' 1 63 + at' node 32 + at' (detail % 65536) 16 + at' queue 8 + status) ++
  [va, cookie, tstart, tend, d0, d1, d2].flatMap (fun w => bytesOfNat 8 w.toNat)

/-- Fields of a queue descriptor (R37). -/
def qRing (d : BitVec 256) : Nat := fld d 255 192
def qHeadVa (d : BitVec 256) : Nat := fld d 191 128
def qComp (d : BitVec 256) : Nat := fld d 127 64
def qPart (d : BitVec 256) : Nat := fld d 47 40
def qPrio (d : BitVec 256) : Nat := fld d 39 35
def qCeil (d : BitVec 256) : Nat := fld d 34 30
def qLogN (d : BitVec 256) : Nat := fld d 29 26
def qHalted (d : BitVec 256) : Bool := bit d 1
def qEn (d : BitVec 256) : Bool := bit d 0

/-- A queue halted (R41, R42, R44). -/
def haltQueue (s : State) (q : Nat) : State := modQueue s q (fun x => { x with desc := x.desc ||| 2 })

/-- A queue halted with the event logged for the supervisor (R42, R44). -/
def haltLogged (s : State) (q arg : Nat) : State := emit (haltQueue s q) (.log 2 (at' q 32 + arg))

/-- Where the next record of a queue's completion ring goes (R345). -/
def ringAt (s : State) (q : Nat) : Nat := qComp (queueOf s q).desc + 64 * ((queueOf s q).count % 64)

/-- A record posted to a queue's completion ring (R345); a write that fails, or meets an uncorrectable memory error, is dropped and
halts the queue (R44). A record that is dropped takes no place in the ring: the count goes on with the next that is written,
which the spec leaves open (DESIGN CHOICE, log entry 39). -/
def postQueue (s : State) (q : Nat) (bad : Bool) (bs : List Byte) : State :=
  if bad then haltLogged s q ((queueOf s q).count % 64)
  else match unitWrite s (qPart (queueOf s q).desc) false dataTypes (ringAt s q) bs with
  | .error _ => haltLogged s q ((queueOf s q).count % 64)
  | .ok s => modQueue s q (fun y => { y with count := y.count + 1 })

/-- Whether the record of a launch is half written in a queue's ring: the next one waits until its first word stands (R343, R345). -/
def ringBusy (s : State) (q : Nat) : Bool := s.launches.any (fun l => l.2.queue == q && l.2.posted.any (·.1))

/-- Whether a queue's next record can be written now. -/
def ringOpen (s : State) (q : Nat) : Bool := !ringBusy s q && unitOpen s (qPart (queueOf s q).desc) (ringAt s q) 64

/-- Its writes waiting at channels in a power state. -/
def ringKnock (s : State) (q : Nat) : State := unitKnock s (qPart (queueOf s q).desc) (ringAt s q) 64

/-- A QUEUE-OVERRUN or TAIL-LOST record: only its status and detail fields, and those that R343 gives every record, are
stated (R43); the others are free values. -/
def postEvent (s : State) (q status : Nat) (bad : Bool) (t : Nat) : State :=
  let x := queueOf s q
  let n := s.fresh
  postQueue { s with fresh := n + 3 } q bad (recordBytes status 0 0xFFFF q (Config.freeWord n) (Config.freeWord (n + 1)) (Config.freeWord (n + 2))
    s.time (BitVec.ofNat 64 t) (x.head.zeroExtend 64) (x.taild.zeroExtend 64))

/-- A measurement appended to the log (R364): 0 management firmware, 1 the configuration record, 2 + n the firmware of link
processor n, 32 + n a fresco image of channel n. -/
def measure (s : State) (obj : Nat) (d : BitVec 256) : State := { s with pkg := { s.pkg with log := s.pkg.log ++ [(obj, d)] } }

/-! ### RMA (R172, R36) -/

def ctxGet (s : State) (c : Nat) : Option Delivery := (s.ctxs.find? (fun e => e.1 == c)).map (·.2)
def modDelivery (s : State) (c : Nat) (f : Delivery → Delivery) : State :=
  { s with ctxs := s.ctxs.map (fun e => if e.1 = c then (e.1, f e.2) else e) }

/-- Whether a port or half, numbered as in Delivery, exists and is ready (R15, R363), on a device whose configuration record has not
failed (R365). -/
def portReady (s : State) (p : Nat) : Bool :=
  decide (p < 32) && bit s.pkg.ready (19 + p / 2) && (p % 2 == 0 || Config.portSplit (p / 2)) && !s.pkg.rejected

/-- Whether it accepts packets (R361): no suspend is under way. -/
def portUp (s : State) (p : Nat) : Bool := portReady s p && (s.pkg.phase == 0 || s.pkg.phase == 5)

/-- The link processor that serves a port or half (R15). -/
def portLink (port : Nat) : Nat := port / 2

/-- Whether a port carries collective messages (R283, R294, R363): it and its link processor are ready, and a suspend has come no
further than the phase in which begun messages are finished. -/
def linkUp (s : State) (p : Nat) : Bool :=
  portReady s p && bit s.pkg.ready (35 + portLink p) && (s.pkg.phase == 0 || s.pkg.phase == 1 || s.pkg.phase == 5)

/-- Whether some port does. -/
def anyLink (s : State) : Bool := (List.range 32).any (linkUp s)

/-- The keys that a configuration record lists (R365): an entry of zeros lists none (log entry 30). -/
def keysOf (r : BitVec 4096) : List (BitVec 256) := ([0, 1, 2, 3].map (fun i => r.extractLsb' (768 + 256 * i) 256)).filter (· != 0)

/-- Whether a signature over a digest is by a key that the accepted configuration record lists, which the controller's firmware checks
(R364). -/
def keyed (s : State) (d : BitVec 256) (sig : BitVec 512) : Bool :=
  s.pkg.firmware && s.pkg.config.any (fun r => (keysOf r).any (fun k => Config.sm2Valid k d sig))

/-- Whether every channel of a translated range takes host accesses now: at a held bank one granule at a time (R311). -/
def rangeOpen (s : State) (va len : Nat) (ps : List Page) : Bool :=
  (List.zip (splitRange va len) ps).all (fun (t, p) => chanOpen s .unit (physOf p t.va) &&
    (!bankHeld s (physOf p t.va) || decide (t.va % 32 + t.len ≤ 32)))

/-- Host accesses waiting at channels that do not take them (R311, R358). -/
def hostKnock (s : State) (va len : Nat) (ps : List Page) : State :=
  unitsKnock s ((List.zip (splitRange va len) ps).map (fun (t, p) => physOf p t.va))

/-- The table entries that an access to a range reads. -/
def rangeTables (s : State) (part va len : Nat) : List Nat := (splitRange va len).flatMap (fun t => unitTables s part t.va)

/-- Bytes of a host write performed at the channel arbiters, or, while a bank or a channel does not take them or a read of its tables,
waiting there. -/
def hostStore (s : State) (part va : Nat) (bs : List Byte) : Except (Nat × XlFault) (Bool × State) :=
  if ¬unitsOpen s (rangeTables s part va bs.length) then .ok (false, unitsKnock s (rangeTables s part va bs.length))
  else match unitPages s part false false true dataTypes (splitRange va bs.length) with
  | .error e => .error e
  | .ok ps =>
    if ¬rangeOpen s va bs.length ps then .ok (false, hostKnock s va bs.length ps)
    else .ok (true, (List.zip (splitRange va bs.length) ps).foldl (fun (s : State) (x : Touch × Page) =>
      let pa := physOf x.2 x.1.va
      chanWrote { walkTouched s x.2.part x.1.va with mem := memWrite s.mem pa ((bs.drop (x.1.va - va)).take x.1.len) } pa) s)

/-- The next bytes of a host's write message performed; with its last byte the message is performed and counted in WDONE (R40,
R172). A failed translation is answered with a semantic-sublayer error. -/
def hostWrite (s : State) (ctx va : Nat) (bytes : List Byte) (last : Bool) : State :=
  match ctxGet s ctx with
  | none => s
  | some c =>
    if ¬portUp s c.port then s
    else match hostStore s c.part va bytes with
    | .error _ => modDelivery (emit s (.rmaError ctx)) ctx (fun c => { c with open_ := false })
    | .ok (false, s) => s
    | .ok (true, s) => modDelivery s ctx (fun c => { c with open_ := !last, wdone := if last then c.wdone + 1 else c.wdone })

/-- HOST_RMA_WRITE (R172). -/
def execHostRmaWrite (ctx va : Nat) (chunk : Chunk) (s : State) : Res := .next (hostWrite s ctx va chunk.bytes chunk.last)

/-- The bytes of a host's read, or some of them, as they stand at the channel arbiters: on a ROD context after every earlier write of
it is performed (R172). -/
def hostRead (s : State) (ctx va len : Nat) : State :=
  match ctxGet s ctx with
  | none => s
  | some c =>
    if ¬portUp s c.port ∨ (c.rod ∧ c.open_) then s
    else if ¬unitsOpen s (rangeTables s c.part va len) then unitsKnock s (rangeTables s c.part va len)
    else match unitPages s c.part false true false dataTypes (splitRange va len) with
    | .error _ => emit s (.rmaError ctx)
    | .ok ps =>
      if ¬rangeOpen s va len ps then hostKnock s va len ps
      else
        let bs := (List.zip (splitRange va len) ps).flatMap (fun (t, p) => memRead s.mem (physOf p t.va) t.len)
        emit (unitTouched s false va len ps) (.rmaRead ctx bs)

/-- HOST_RMA_READ (R172). -/
def execHostRmaRead (ctx va len : Nat) (s : State) : Res := .next (hostRead s ctx va len)

/-- UE_ATOMIC_REQUEST (R36): answered with an error, once the port of its context accepts it (R361). -/
def execUeAtomicRequest (ctx : Nat) (s : State) : Res :=
  .next (if (ctxGet s ctx).any (fun c => portUp s c.port) then emit s (.atomicError ctx) else s)

/-! ### Delivery contexts and tails (R36, R39-R43) -/

/-- DELIVERY_CONTEXT_ESTABLISHMENT (R36). -/
def execDeliveryContextEstablishment (ctx : Nat) (endpoint : Endpoint) (mode : CtxMode) (rccc secure : Bool) (s : State) : Res :=
  if mode = .rudi ∨ rccc ∨ ¬secure ∨ ¬portUp s endpoint.port ∨ ¬(partOf s endpoint.part).exists_ ∨ (ctxGet s ctx).isSome then .next (emit s (.refused 1))
  else .next { s with ctxs := (ctx, { part := endpoint.part, port := endpoint.port, rod := mode == .rod, wdone := 0, open_ := false, tails := [], begun := [] }) :: s.ctxs }

/-- Fields of a tail (R39). -/
def tailPrior (t : BitVec 128) : BitVec 32 := t.extractLsb' 96 32
def tailTail (t : BitVec 128) : BitVec 32 := t.extractLsb' 64 32
def tailQueue (t : BitVec 128) : Nat := fld t 7 0

/-- An error of an endpoint counted, by context. -/
def countError (s : State) (ctx : Nat) : State := { s with pkg := { s.pkg with errs := tmod 0 s.pkg.errs ctx (fun n => n + 1) } }

/-- TAIL_MESSAGE (R39): dropped and counted, or held. A tagged send with another tag than that of a tail is dropped and counted as
well: the spec says nothing of one (DESIGN CHOICE, log entry 39). -/
def execTailMessage (ctx : Nat) (tag : Word) (payload : BitVec 128) (s : State) : Res :=
  match ctxGet s ctx with
  | none => .next s
  | some c =>
    let d := (queueOf s (tailQueue payload)).desc
    if ¬portUp s c.port then .next s
    else if tag ≠ 0x000000005441494C ∨ fld payload 63 8 ≠ 0 ∨ ¬c.rod ∨ ¬qEn d ∨ qPart d ≠ c.part then .next (countError s ctx)
    else .next (modDelivery s ctx (fun c => { c with tails := c.tails ++ [payload] }))

/-- A presented tail (R41). A queue disabled since the tail was held takes it all the same: the spec checks EN as the tail arrives (R39)
and says nothing of a later change (DESIGN CHOICE, log entry 40). -/
def presentTail (s : State) (q : Nat) (bad : Bool) (t : BitVec 32) : State :=
  let x := queueOf s q
  if qHalted x.desc then modQueue s q (fun y => { y with drops := y.drops + 1 })
  else if 2 ^ qLogN x.desc < (t - x.head).toNat then postEvent (haltQueue s q) q 16 bad t.toNat
  else if (t - x.head).toNat < (x.taild - x.head).toNat then modQueue s q (fun y => { y with stale := y.stale + 1 })
  else modQueue s q (fun y => { y with taild := t })

/-- TAIL_PRESENT (R40, R41): the oldest held tail of a context, once the writes before it are done. The held tails of one context are
presented in the order of their arrival: the spec states none (DESIGN CHOICE, log entry 39). -/
def execTailPresent (ctx : Subject Bool) (s : State) : Res :=
  match ctxGet s ctx.no with
  | none => .next s
  | some c =>
    match c.tails with
    | [] => .next s
    | t :: r =>
      if 2 ^ 31 ≤ (c.wdone - tailPrior t).toNat then .next s
      else if ¬ringOpen s (tailQueue t) then .next (ringKnock s (tailQueue t))
      else .next (presentTail (modDelivery s ctx.no (fun c => { c with tails := r })) (tailQueue t) ctx.bad (tailTail t))

/-- DELIVERY_CONTEXT_CLOSE (R43): held tails are discarded, counted, and reported as TAIL-LOST; bad gives the places of those whose record
meets an uncorrectable memory error (R44). -/
def execDeliveryContextClose (ctx : Subject (List Nat)) (s : State) : Res :=
  match ctxGet s ctx.no with
  | none => .next s
  | some c =>
    if ¬c.tails.all (fun t => ringOpen s (tailQueue t)) then .next (c.tails.foldl (fun s t => ringKnock s (tailQueue t)) s)
    else .next ((List.zip (List.range c.tails.length) c.tails).foldl (fun s (i, t) =>
        postEvent (countError s ctx.no) (tailQueue t) 17 (ctx.bad.contains i) (tailTail t).toNat)
      { s with ctxs := s.ctxs.filter (fun e => e.1 != ctx.no) })

/-! ### Queue descriptors (R37, R41) -/

/-- Whether the controller rejects a descriptor. R37 gives RINGVA, HEADVA and QCOMPVA an alignment and does not list a misaligned one among
those it rejects: it is accepted, and its address used as it stands (DESIGN CHOICE, log entry 40). -/
def queueBad (d : BitVec 256) : Bool :=
  decide (39 < qPart d) || decide (qCeil d < qPrio d) || decide (qLogN d < 4) || decide (15 < qLogN d) || fld d 63 48 != 0 || fld d 25 2 != 0

/-- The tails held for a queue discarded and counted. -/
def dropTails (s : State) (q : Nat) : State :=
  s.ctxs.foldl (fun s e =>
    let gone := e.2.tails.filter (fun t => tailQueue t == q)
    if gone = [] then s
    else gone.foldl (fun s _ => countError s e.1) (modDelivery s e.1 (fun c => { c with tails := c.tails.filter (fun t => tailQueue t != q) }))) s

/-- QUEUE_DESCRIPTOR_WRITE (R37). The HALTED bit is taken as written, and a PARTID other than the partition that the queue was
composed with (R46) is accepted; the spec says neither (DESIGN CHOICE, log entry 39). -/
def execQueueDescriptorWrite (q : Nat) (desc : BitVec 256) (head : Option (BitVec 32)) (s : State) : Res :=
  asked s <|
  let old := (queueOf s q).desc
  let moved := qRing old != qRing desc || qComp old != qComp desc || qPart old != qPart desc || qLogN old != qLogN desc
  if 256 ≤ q ∨ queueBad desc ∨ (moved ∧ qEn old) then .next (emit s (.refused 2))
  else
    let s := modQueue s q (fun x => { x with desc := desc })
    let s := if moved then dropTails (modQueue s q (fun x => { x with head := 0, taild := 0, count := 0 })) q else s
    match head with
    | none => .next s
    | some h => .next (modQueue s q (fun x => { x with head := h, taild := h }))

/-- HALTED_CLEAR (R41). On a queue that is not halted it sets TAILD all the same: the spec gives the request for a halted queue
(DESIGN CHOICE, log entry 39). -/
def execHaltedClear (q : Nat) (taild : Option (BitVec 32)) (s : State) : Res :=
  asked s <|
  let x := queueOf s q
  let clear := fun (s : State) => modQueue s q (fun y => { y with desc := y.desc &&& ~~~(2 : BitVec 256) })
  match taild with
  | none => .next (clear s)
  | some t =>
    if 2 ^ qLogN x.desc < (t - x.head).toNat then .next (emit s (.refused 3))
    else .next (modQueue (clear s) q (fun y => { y with taild := t }))

/-! ### Partitions (R46, R48, R52) -/

/-- Whether a function is in service: its READY bit (R363), and its bit in the accepted configuration record (R365). -/
def easelReady (s : State) (e : Nat) : Bool :=
  bit s.pkg.ready (1 + e / 32) && (match s.pkg.config with
    | some c => bit c (128 + e)
    | none => false)

def channelReady (s : State) (c : Nat) : Bool :=
  bit s.pkg.ready (7 + c / 32) && (match s.pkg.config with
    | some k => bit k (256 + c)
    | none => false)

/-- A list names nothing twice. -/
def unique (l : List Nat) : Bool := l.eraseDups.length == l.length

/-- Reduction slots in service: 64 for each I/O die that is ready (R291, R363). -/
def slotsReady (s : State) : Nat := 64 * ([0, 1].filter (fun d => bit s.pkg.ready (5 + d))).length

/-- PARTITION_COMPOSITION (R46): refused where it breaks the rules, names what another partition owns, or includes a
function out of service. The range of collective counters is a number of at most 1,024, which nothing reads as every partition has
1,024 (R285); quotas of reduction slots that together exceed those in service are refused: the spec states neither (DESIGN
CHOICE, log entry 39). A scheduling word accepted for the number before stands, and with it the sum of R52, of which the spec says nothing
either (DESIGN CHOICE, log entry 40). -/
def execPartitionComposition (p : Nat) (pairs channels queues : List Nat) (counters quota : Nat) (s : State) : Res :=
  asked s <|
  let owned := s.parts.filter (fun e => e.2.exists_)
  let taken := fun (f : Part → List Nat) (l : List Nat) => owned.any (fun e => (f e.2).any (fun x => l.contains x))
  let total := (owned.map (fun e => e.2.quota)).sum
  if 40 ≤ p ∨ (partOf s p).exists_ ∨ pairs = [] ∨ channels.length < 8 ∨ queues = [] ∨
     ¬unique pairs ∨ ¬unique channels ∨ ¬unique queues ∨
     pairs.any (fun k => decide (64 ≤ k) || !easelReady s (2 * k) || !easelReady s (2 * k + 1)) ∨
     channels.any (fun c => decide (384 ≤ c) || !channelReady s c) ∨ queues.any (fun q => decide (256 ≤ q)) ∨
     taken Part.pairs pairs ∨ taken Part.chans channels ∨ taken Part.queues queues ∨
     slotsReady s < total + quota ∨ 1024 < counters then .next (emit s (.refused 4))
  else
    let s := modPart s p (fun _ => { Part.reset with sched := (partOf s p).sched, exists_ := true, pairs := pairs, chans := channels, queues := queues, nCounters := counters, quota := quota })
    let s := pairs.foldl (fun s k => modEasel (modEasel s (2 * k) (fun e => { e with owner := some p })) (2 * k + 1) (fun e => { e with owner := some p })) s
    .next (channels.foldl (fun s c => modChan s c (fun x => { x with owner := some p })) s)

/-- Whether nothing of a partition is under way (R48 step 1). -/
def partIdle (s : State) (p : Nat) : Bool :=
  !(s.launches.any (fun l => l.2.part == p && !l.2.ended)) &&
  !(s.easels.any (fun e => (e.2.copyQ.any (fun c => c.part == p)) ||
    ((e.2.frescoQ ++ e.2.collQ ++ e.2.glazeQ ++ e.2.syncQ).any (fun c => c.part == p)))) &&
  !(s.channels.any (fun c => c.2.ctx.any (fun x => x.2.part == p && x.2.state != .idle))) &&
  !(s.glazeJobs.any (fun j => j.part == p)) &&
  !((partOf s p).handles.any (fun h => h.2.running)) && (partOf s p).sends == []

/-- A hand with nothing in it. -/
def clearHand (s : State) (g : Nat) : State :=
  { s with hands := tdel s.hands g, preempts := s.preempts.filter (fun e => e.1 != g), pushes := tdel s.pushes g, slots := tdel s.slots g }

/-- An easel bulk-cleared and given to a partition (R48 step 2). -/
def clearEasel (s : State) (e p : Nat) : State :=
  setEasel ([4 * e, 4 * e + 1, 4 * e + 2, 4 * e + 3].foldl clearHand s) e { Easel.reset with owner := some p }

/-- A channel given to a partition and bound to its keys (R48 steps 2, 3): no cache holds a line of it. -/
def giveChannel (s : State) (c p : Nat) : State :=
  let s := { s with
    mem := memRekey s.mem c
    dies := tmap s.dies (fun _ d => { d with cache := d.cache.filter (fun e => chanNo e.1 != c), sram := d.sram.filter (fun l => chanNo (128 * l) != c) }) }
  { s with channels := tput s.channels c { Channel.reset with owner := some p } }

/-- The partition that owns a resource. -/
def ownerOf (s : State) (r : Resource) : Option Nat :=
  (s.parts.find? (fun e => e.2.exists_ && (match r with
    | .easelPair k => e.2.pairs.contains k
    | .channel c => e.2.chans.contains c
    | .queue q => e.2.queues.contains q
    | .counters o n => e.1 == o && decide (n ≤ e.2.nCounters)
    | .slots o n => e.1 == o && decide (n ≤ e.2.quota)))).map (·.1)

/-- A partition without a resource, and with it. -/
def without (p : Part) (r : Resource) : Part :=
  match r with
  | .easelPair k => { p with pairs := p.pairs.filter (fun x => x != k) }
  | .channel c => { p with chans := p.chans.filter (fun x => x != c) }
  | .queue q => { p with queues := p.queues.filter (fun x => x != q) }
  | .counters _ n => { p with nCounters := p.nCounters - n }
  | .slots _ n => { p with quota := p.quota - n }

def withRes (p : Part) (r : Resource) : Part :=
  match r with
  | .easelPair k => { p with pairs := p.pairs ++ [k] }
  | .channel c => { p with chans := p.chans ++ [c] }
  | .queue q => { p with queues := p.queues ++ [q] }
  | .counters _ n => { p with nCounters := p.nCounters + n }
  | .slots _ n => { p with quota := p.quota + n }

def partRules (p : Part) : Bool := p.pairs != [] && decide (8 ≤ p.chans.length) && p.queues != [] && decide (p.nCounters ≤ 1024)

/-- RESOURCE_REASSIGNMENT (R48): refused where either partition would break R46, and taken once the old owner is idle. -/
def execResourceReassignment (r : Resource) (p : Nat) (s : State) : Res :=
  asked s <|
  match ownerOf s r with
  | none => .next (emit s (.refused 5))
  | some o =>
    if o = p ∨ ¬(partOf s p).exists_ ∨ ¬partRules (without (partOf s o) r) ∨ ¬partRules (withRes (partOf s p) r) then .next (emit s (.refused 5))
    else if ¬partIdle s o then .next s
    else
      let s := modPart (modPart s o (fun x => without x r)) p (fun x => withRes x r)
      match r with
      | .easelPair k => .next (emit (clearEasel (clearEasel s (2 * k) p) (2 * k + 1) p) (.log 5 k))
      | .channel c => .next (emit (giveChannel s c p) (.log 6 c))
      | .queue q => .next (emit { dropTails s q with queues := tput s.queues q HwQueue.reset } (.log 7 q))
      | .counters _ n => .next (emit s (.log 14 n))
      | .slots _ n => .next (emit s (.log 15 n))

/-- Fields of the scheduling word (R52). -/
def swRlq (w : Word) : Nat := fld w 54 40
def swGap (w : Word) : Nat := fld w 39 32
def swAge (w : Word) : Nat := fld w 31 0

/-- SCHEDULING_WORD_WRITE (R52). -/
def execSchedulingWordWrite (p : Nat) (w : Word) (s : State) : Res :=
  asked s <|
  let rest := (((List.range 40).filter (fun i => i != p)).map (fun i => swRlq (partOf s i).sched)).sum
  if fld w 63 55 ≠ 0 ∨ 16384 < swRlq w ∨ 31 < swGap w ∨ (swAge w ≠ 0 ∧ (swAge w < 100 ∨ 1000000 < swAge w)) ∨ 16384 < rest + swRlq w then
    .next (emit s (.refused 6))
  else .next (modPart s p (fun x => { x with sched := w }))

end Sys2Proof.Machine
end

