-- ==== Sys2Proof/Machine/Fresco.lean ====
section
/-! DEFINITION. Fresco (R305-R327): micro-instructions, windows, spills and restores, jobs, and the commands FRGO, FRST,
FRSPL and FRLD with their PUSHC forms. -/

namespace Sys2Proof.Machine

/-! ### Rows and registers (R305, R307, R309) -/

/-- The physical address of a row of the context's group. -/
def rowPa (cx bank row : Nat) : Nat := cx / 4 * 2 ^ 31 + cx % 4 * 2 ^ 29 + bank * 2 ^ 27 + row % 2 ^ 17 * 1024

/-- Save row r of a bank of the group. -/
def savePa (cx bank r : Nat) : Nat := rowPa cx bank (131064 + r)

/-- Whether a physical address lies in the bank that a context holds. -/
def inBank (cx : Nat) (c : Context) (pa : Nat) : Bool :=
  decide (chanNo pa = cx / 4) && decide (bits pa 30 29 = cx % 4) && decide (bits pa 28 27 = c.curBank)

/-- Whether a row lies on pages of a job. -/
def onPages (ps : List Page) (pa : Nat) : Bool := ps.any (fun p => decide (p.pbase ≤ pa) && decide (pa < p.pbase + 4096))

/-- A table of n entries as a list. -/
def lanes {α : Type} (d : α) (t : Table α) (n : Nat) : List α := (List.range n).map (fun i => tget d t i)

/-- A list as a table from key k on. -/
def tableFrom {α : Type} (k : Nat) : List α → Table α
  | [] => []
  | x :: r => (k, x) :: tableFrom (k + 1) r

/-- Entries k on of a table replaced by a list. -/
def tputAll {α : Type} (t : Table α) (k : Nat) (l : List α) : Table α :=
  tableFrom k l ++ t.filter (fun e => decide (e.1 < k) || decide (k + l.length ≤ e.1))

/-- PlaneValue (R307): element i of half h with n planes, out of a row read as one number. -/
def planeValue (row h n i : Nat) : Int :=
  let b := fun (p : Nat) => bits row (8 * (512 * h + 128 * p + i / 8) + i % 8) (8 * (512 * h + 128 * p + i / 8) + i % 8)
  signed n ((List.range n).foldl (fun x p => x + b p * 2 ^ p) 0)

/-! ### Windows (R311) -/

/-- Whether a piece of an entry reaches its point of performance. -/
def pieceReach (s : State) (g : Nat) (e : ObEntry) (p : Piece) (tn : Turn) : Bool :=
  match e.op, p.ptype with
  | _, .sync => true
  | .glaze o _ _, _ => (o != 1 && o != 2) || glazeOpen s tn (handPart s g) p.va p.pa (o == 1)
  | .load _ _ _, .glaze => glazeOpen s tn (handPart s g) p.va p.pa true
  | .load _ _ _, _ => canReach s tn (dieNo g) false p.kind p.ptype p.pa p.len
  | .store none, .glaze => glazeOpen s tn (handPart s g) p.va p.pa false
  | .store none, _ => canReach s tn (dieNo g) true p.kind p.ptype p.pa p.len
  | _, _ => chanOpen s tn p.pa

/-- The state with a context's window shut: what waits at its bank is what does not get through then, and would if no bank were
held. -/
def shut (s : State) (cx : Nat) : State := modCtx s cx (fun c => { c with state := if c.state = .window then .running else c.state })

/-- The entries of an ordering buffer that wait at the bank. -/
def obWaiters (s z : State) (g : Nat) (q : SeqId) : List (Nat × Nat) :=
  let ob := (sqOf s g q).ob
  (List.range ob.length).flatMap (fun i => match ob[i]? with
    | none => []
    | some e => if e.pieces.any (fun p => !p.done && p.fwd.isNone && pieceReach s g e p .free && !pieceReach z g e p .unit &&
        mayPerform s g q (ob.take i) e p) then [(e.ticket, 0)] else [])

/-- The table walks of a hand that wait at the bank. -/
def walkWaiters (s z : State) (h : Hand) : List (Nat × Nat) :=
  allSeqs.flatMap (fun q => ((seqOf h q).walks.filter (fun w =>
    let a := w.table + 8 * levelIndex (4096 * w.va) w.level
    walkLive w && w.start.isSome && chanOpen s .free a && !chanOpen z .unit a)).map (fun w => (w.order, w.level + 1)))

/-- The accesses that State numbers and that wait at the bank a context holds (R311): entries of ordering buffers, walks, copies,
the oldest tick of the channel, transfers of images. -/
def waiters (s : State) (cx : Nat) : List (Nat × Nat) :=
  if ¬holds (ctxOf s cx) then []
  else
    let z := shut s cx
    s.hands.flatMap (fun h => [SeqId.x, .l, .s].flatMap (obWaiters s z h.1) ++ walkWaiters s z h.2) ++
    s.easels.flatMap (fun e => (e.2.copyQ.filter (fun y => copyEnabled s .free e.1 y && !copyEnabled z .unit e.1 y)).map (fun y => (y.ticket, 0))) ++
    ((chanOf s (cx / 4)).ticks.take 1).flatMap (fun t => match t.words with
      | (pa, _) :: _ => if chanOpen s .free pa && !chanOpen z .unit pa then [(t.ticket, 0)] else []
      | [] => []) ++
    (s.glazeJobs.filter (fun j => j.op != 0 && j.chans == [] && !jobBehind s j && jobOpen s .free j && !jobOpen z .unit j)).map (fun j => (j.ticket, 0))

/-- The accesses that wait at the bank which a context holds, in the order of their arrival (R312): those that have come, but for numbered
ones that wait no more, and then those that State shows waiting there. -/
def arrivals (s : State) (cx : Nat) : List (Nat × Nat) :=
  let w := waiters s cx
  let a := (ctxOf s cx).asked.filter (fun x => x.2 == 99 || w.contains x)
  a ++ w.filter (fun x => !a.contains x)

/-- Those of them that State shows and whose wait is not yet counted (R352). -/
def newWaits (s : State) (cx : Nat) : Nat :=
  ((waiters s cx).filter (fun x => !(ctxOf s cx).asked.contains x && !(ctxOf s cx).waited.contains x)).length

/-- The places of a window: the first four accesses; a copy among fewer than four takes further granules (R311). -/
def windowPlaces (s : State) (l : List (Nat × Nat)) : List (Nat × Nat) :=
  let copies := l.filter (fun x => s.easels.any (fun e => e.2.copyQ.any (fun c => c.ticket == x.1 && x.2 == 0)))
  (l ++ copies ++ copies ++ copies).take 4

/-- A window point: both counts restart, and a window opens if an access waits, for the first four that do. -/
def windowPoint (s : State) (cx : Nat) : State :=
  let w := arrivals s cx
  let s := count s 2 (cx / 4) 6 (newWaits s cx)
  let s := modCtx s cx (fun c => { c with
    wcnt := 0, since := 0, asked := w.drop 4, waited := windowPlaces s w, state := if w = [] then c.state else .window })
  if w = [] then s else count s 2 (cx / 4) 5 1

/-- The state a context returns to from a window. An access without a number in State that has not taken its place in the window has to
come again (log entry 40). -/
def afterWindow (c : Context) : Context :=
  { c with waited := [], state := if c.state = .window then (if c.spiller = 0 then .running else .draining) else c.state }

/-- Whether an open window has still to serve an access that it is open for. -/
def windowOwes (s : State) (cx : Nat) : Bool :=
  (waiters s cx).any (fun x => (ctxOf s cx).waited.contains x)

/-- WINDOW (R311): the open window of a context closes once it has served four of the accesses that waited, or all of them; then the
program resumes. -/
def execWindow (ch n : Nat) (s : State) : Res :=
  let cx := 4 * ch + n
  let c := ctxOf s cx
  if ¬c.hold ∨ c.state ≠ .window ∨ windowOwes s cx then .next s
  else .next (modCtx s cx afterWindow)

/-- A context's hold of its bank ended: the accesses that wait there have waited for it (R352). -/
def endHold (s : State) (cx : Nat) (f : Context → Context) : State :=
  modCtx (count s 2 (cx / 4) 6 (newWaits s cx)) cx (fun c => { f c with hold := false, asked := [], waited := [] })

/-! ### Answers to fresco commands (R322, R327) -/

/-- The two ch9 entries of a PUSHC command. -/
def frPush (s : State) (c : EngCmd) (status reason : Nat) (reply : Word) : State :=
  let w := BitVec.ofNat 64 (at' status 56 + at' 4 48 + at' (fld (c.words.getD 0 0) 31 16) 32 + reason)
  pushEng (pushEng s c.hand c.leaf 9 w) c.hand c.leaf 9 reply

def frLeave (s : State) (e : Nat) (c : EngCmd) : State :=
  modEasel s e (fun x => { x with frescoQ := x.frescoQ.filter (fun y => y.ticket != c.ticket) })

/-- A command answered: the CMD form's reply to its register, or the two entries. -/
def frAnswer (s : State) (e : Nat) (c : EngCmd) (status value : Nat) : State :=
  let v := BitVec.ofNat 64 (at' status 56 + value % 2 ^ 56)
  let s := frLeave s e c
  if c.fn.isSome then replyReg s c.hand c.leaf c.sq c.ticket c.dst v else frPush s c 0 0 v

/-- A command answered with a status for which no rule gives a VALUE: that is a free value (log entry 36). -/
def frStatusOnly (s : State) (e : Nat) (c : EngCmd) (status : Nat) : State :=
  let (n, s) := takeFresh s
  frAnswer s e c status (Config.freeWord n).toNat

/-- A failure of translation, protection or page count: a reply of the CMD form on C, or a failing PUSHC command. -/
def frFail (s : State) (e : Nat) (c : EngCmd) (status reason : Nat) : State :=
  if c.fn.isSome then frAnswer s e c status reason else frPush (frLeave s e c) c status reason 0

/-- The commands that wait for a context in a phase, each with its easel. -/
def frWaiting (s : State) (phase : Nat) : List (Nat × EngCmd) :=
  s.easels.flatMap (fun e => (e.2.frescoQ.filter (fun c => c.phase == phase)).map (fun c => (e.1, c)))

/-- Phases of a command that its engine has taken: it waits for a spill, for a restore, or for its job to start. -/
def phSpill (cx : Nat) : Nat := cx + 1
def phRestore (cx : Nat) : Nat := cx + 2001
def phStart (cx : Nat) : Nat := cx + 4001

def frAnswerAll (s : State) (phase status value : Nat) : State :=
  (frWaiting s phase).foldl (fun s x => frAnswer s x.1 x.2 status value) s

/-- Every command of a phase answered with a status alone. -/
def frStatusAll (s : State) (phase status : Nat) : State :=
  (frWaiting s phase).foldl (fun s x => frStatusOnly s x.1 x.2 status) s

/-! ### The end of a job (R317) -/

/-- A job ended: its bank is released, its context idle; with EVT its entry goes to ch9 of the issuing hand; a spill that
was asked for is answered with STATUS 1 (R325). -/
def endJob (s : State) (cx status kind : Nat) : State :=
  let c := ctxOf s cx
  let s := endHold s cx (fun c => { c with state := .idle, spiller := 0, abort := false, drained := false, phase := 0 })
  let w := BitVec.ofNat 64 (at' status 56 + at' kind 48 + at' c.cookie.toNat 32 + at' c.mpc 11 + cx)
  let s := if c.evt then pushEng s c.hand c.leaf 9 w else s
  frAnswerAll s (phSpill cx) 1 c.mpc

/-- A micro-instruction met an uncorrectable error: the job ends with STATUS 1 and a machine check (R317, R335). -/
def microError (s : State) : State :=
  let cx := s.microCx
  let c := ctxOf s cx
  reportMc (endJob s cx 1 3) c.hand c.leaf (rowPa cx c.curBank c.curRow / 4096) 3

/-! ### Micro-instructions (R320, R321) -/

/-- A micro-instruction of context microCx taken: nothing while the context does not run; a window point first if the
instruction would carry the time past 240 ns (R311); otherwise body with its time counted. -/
def micro (ns : Nat) (body : State → Nat → Context → State) (s : State) : Res :=
  let cx := s.microCx
  let c := ctxOf s cx
  if (c.state ≠ .running ∧ c.state ≠ .draining) ∨ ¬c.begun ∨ c.drained then .next s
  else if (chanOf s (cx / 4)).power ≠ .active then .next (wakeChan s (rowPa cx 0 0))
  else if 240 < c.since + ns then .next (windowPoint s cx)
  else
    let s := modCtx s cx (fun c => { c with since := c.since + ns })
    .next (body s cx (ctxOf s cx))

/-- The context past its instruction. -/
def mnext (c : Context) : Context := { c with mpc := (c.mpc + 1) % 1024 }

/-- A register operation: the context passed through f, and past the instruction. -/
def microOp (ns : Nat) (f : Context → Context) (s : State) : Res := micro ns (fun s cx _ => modCtx s cx (fun c => mnext (f c))) s

def mget (c : Context) (a : BitVec 3) : BitVec 32 := tget 0 c.m a.toNat
def mput (c : Context) (a : BitVec 3) (v : BitVec 32) : Context := { c with m := tput c.m a.toNat v }

/-- WSETM (R320). -/
def execWsetm (m : BitVec 3) (h : Bool) (i : BitVec 16) (s : State) : Res :=
  microOp 1 (fun c => mput c m (if h then i ++ (mget c m).extractLsb' 0 16 else i.signExtend 32)) s

/-- WMODE (R320). -/
def execWmode (i : BitVec 3) (s : State) : Res :=
  microOp (if bit i 2 then 4 else 1) (fun c => { c with w4 := bit i 0, sat := bit i 1, acc := if bit i 2 then [] else c.acc }) s

/-- WOPEN (R320): the job ends with STATUS 9 where the row is none of its own. -/
def execWopen (m : BitVec 3) (b : BitVec 2) (s : State) : Res :=
  micro 1 (fun s cx c =>
    let row := fld (mget c m) 16 0
    if ¬onPages (c.wpages ++ c.opages) (rowPa cx b.toNat row) then endJob s cx 9 3
    else modCtx s cx (fun c => mnext { c with curBank := b.toNat, curRow := row, hold := true, wcnt := 0, since := 0, asked := [], waited := [] })) s

/-- WCLOSE (R320). -/
def execWclose (s : State) : Res := micro 1 (fun s cx _ => endHold s cx mnext) s

/-- A row operation counted: the fourth since the last window point makes one (R311). -/
def rowDone (s : State) (cx : Nat) : State :=
  let s := count (touchChan s (rowPa cx 0 0)) 2 (cx / 4) 4 1
  if (ctxOf s cx).wcnt = 3 then windowPoint s cx else modCtx s cx (fun c => { c with wcnt := c.wcnt + 1 })

/-- The cursor moved by a signed count of rows. -/
def moveRow (c : Context) (i : BitVec 8) : Context := { c with curRow := (((c.curRow : Int) + i.toInt) % (2 : Int) ^ 17).toNat }

/-- WREAD (R320). -/
def execWread (sb : Bool) (i : BitVec 8) (s : State) : Res :=
  micro 48 (fun s cx c =>
    let pa := rowPa cx c.curBank c.curRow
    if ¬onPages (c.wpages ++ c.opages) pa then endJob s cx 9 3
    else
      let row := tableFrom 0 (memRead s.mem pa 1024)
      rowDone (modCtx s cx (fun c => mnext (moveRow (if sb then { c with sb := row } else { c with pb := row }) i))) cx) s

/-- The 1,024 bytes of OUT lanes from k on, and of ACC lanes from k on. -/
def outRow (c : Context) (k : Nat) : List Byte := ((List.range 512).map (fun i => tget 0 c.outB (k + i))).flatMap (fun v => bytesOfNat 2 v.toNat)
def accRow (c : Context) (k : Nat) : List Byte := ((List.range 256).map (fun i => tget 0 c.acc (k + i))).flatMap (fun v => bytesOfNat 4 v.toNat)

/-- WWRITE (R320). -/
def execWwrite (i : BitVec 8) (src : BitVec 3) (s : State) : Res :=
  micro 48 (fun s cx c =>
    let pa := rowPa cx c.curBank c.curRow
    let n := src.toNat
    if 6 ≤ n ∨ ¬onPages c.opages pa then endJob s cx 9 3
    else
      let bs := if n < 2 then outRow c (512 * n) else accRow c (256 * (n - 2))
      rowDone (modCtx { s with mem := memWrite s.mem pa bs } cx (fun c => mnext (moveRow c i))) cx) s

/-- WSCALE (R320). -/
def execWscale (m : BitVec 3) (i : BitVec 8) (s : State) : Res :=
  microOp 1 (fun c => mput { c with scale := tget 0 c.sb (fld (mget c m) 9 0) } m (mget c m + i.signExtend 32)) s

/-- WADD (R321). -/
def waddCtx (h : Bool) (c : Context) : Context :=
  let row := natOfBytes (lanes 0 c.pb 1024)
  let one := fun (i : Nat) =>
    let w := if c.w4 then planeValue row h.toNat 4 i else planeValue row 0 8 i
    let t := (tget 0 c.acc i).toInt + c.scale.toInt * w
    BitVec.ofInt 32 (if c.sat then max (-2147483648) (min 2147483647 t) else t)
  { c with acc := tableFrom 0 ((List.range 1024).map one) }

/-- WADD (R320): 8 ns under INT8, 4 ns under INT4. -/
def execWadd (h : Bool) (s : State) : Res := microOp (if (ctxOf s s.microCx).w4 then 4 else 8) (waddCtx h) s

/-- WDEQ (R321). -/
def wdeqCtx (c : Context) : Context :=
  let one := fun (i : Nat) =>
    let sc := (tget 0 c.pb (2 * (i / 32))).toNat + 256 * (tget 0 c.pb (2 * (i / 32) + 1)).toNat
    let a := (tget 0 c.acc i).toInt
    BitVec.ofNat 16 (convert (mulVal (.fin (decide (a < 0)) a.natAbs 0) (bf16.value sc)).1 bf16 .rne false).1
  { c with outB := tableFrom 0 ((List.range 1024).map one) }

/-- WDEQ (R320). -/
def execWdeq (s : State) : Res := microOp 16 wdeqCtx s

/-- A loop boundary passed (R318, R324): an abort takes effect, or a requested spill takes the next place. -/
def boundary (s : State) (cx : Nat) : State :=
  let c := ctxOf s cx
  if c.abort then endJob s cx 0 3
  else if c.spiller ≠ 0 then modCtx s cx (fun c => { c with drained := true })
  else s

/-- WLOOP (R320): a count of 0 runs the body once. -/
def execWloop (m : BitVec 3) (s : State) : Res :=
  micro 1 (fun s cx _ => boundary (modCtx s cx (fun c =>
    mnext { c with loops := c.loops ++ [((c.mpc + 1) % 1024, fld (mget c m) 15 0)] })) cx) s

/-- WNEXT (R320): back to the body while the count is above 1. -/
def execWnext (s : State) : Res :=
  micro 1 (fun s cx _ => boundary (modCtx s cx (fun c =>
    match c.loops.getLast? with
    | none => mnext c
    | some (start, n) =>
      if 1 < n then { c with mpc := start, loops := c.loops.dropLast ++ [(start, n - 1)] }
      else mnext { c with loops := c.loops.dropLast })) cx) s

/-- WWIN (R320). -/
def execWwin (s : State) : Res := micro 1 (fun s cx _ => windowPoint (modCtx s cx mnext) cx) s

/-- WEND (R320). -/
def execWend (s : State) : Res := micro 1 (fun s cx _ => endJob s cx 0 1) s

/-! ### Spill and restore (R318) -/

/-- The control record. -/
def controlBytes (c : Context) (mpc : Nat) : List Byte :=
  let lp := fun (i : Nat) => bytesOfNat 2 ((c.loops.getD i (0, 0)).1) ++ bytesOfNat 2 ((c.loops.getD i (0, 0)).2)
  (lanes 0 c.m 8).flatMap (fun v => bytesOfNat 4 v.toNat) ++ bytesOfNat 2 mpc ++
  bytesOfNat 1 (c.w4.toNat + 2 * c.sat.toNat + 4 * c.hold.toNat) ++ bytesOfNat 1 c.scale.toNat ++
  bytesOfNat 4 (c.curRow + at' c.curBank 17) ++ bytesOfNat 1 c.loops.length ++ bytesOfNat 1 c.wcnt ++ lp 0 ++ lp 1 ++
  [1] ++ List.replicate 973 0

/-- Where row k of a spill stands. -/
def spillPa (cx k : Nat) : Nat := if k < 8 then savePa cx 0 k else savePa cx 1 0

/-- Row k of a spill that saves mpc. -/
def spillRow (c : Context) (mpc k : Nat) : List Byte :=
  if k < 4 then accRow c (256 * k)
  else if k = 4 then lanes 0 c.pb 1024
  else if k = 5 then lanes 0 c.sb 1024
  else if k < 8 then outRow c (512 * (k - 6))
  else controlBytes c mpc

def writeSpillRow (s : State) (cx : Nat) (c : Context) (mpc k : Nat) : State :=
  { s with mem := memWrite s.mem (spillPa cx k) (spillRow c mpc k) }

/-- Row k of a restore taken into the context. -/
def restoreRow (c : Context) (k : Nat) (bs : List Byte) : Context :=
  if k < 4 then { c with acc := tputAll c.acc (256 * k) ((List.range 256).map (word32At bs)) }
  else if k = 4 then { c with pb := tableFrom 0 bs }
  else if k = 5 then { c with sb := tableFrom 0 bs }
  else if k < 8 then
    { c with outB := tputAll c.outB (512 * (k - 6)) ((List.range 512).map (fun i => BitVec.ofNat 16 (natOfBytes ((bs.drop (2 * i)).take 2)))) }
  else
    let n := fun (lo len : Nat) => natOfBytes ((bs.drop lo).take len)
    let lp := [(n 42 2, n 44 2), (n 46 2, n 48 2)]
    { c with
      m := tableFrom 0 ((List.range 8).map (word32At bs)), mpc := n 32 2 % 1024
      w4 := bits (n 34 1) 0 0 == 1, sat := bits (n 34 1) 1 1 == 1, hold := bits (n 34 1) 2 2 == 1
      scale := BitVec.ofNat 8 (n 35 1), curRow := bits (n 36 4) 16 0, curBank := bits (n 36 4) 18 17
      loops := lp.take (n 40 1), wcnt := 0, since := 0 }

/-- Whether a context's control record is valid. -/
def saveValid (s : State) (cx : Nat) : Bool := memGet s.mem (spillPa cx 8 + 50) == 1

def readSpillRow (s : State) (cx k : Nat) : List Byte := memRead s.mem (spillPa cx k) 1024

/-- WSAVE (R320): one row a time, so that window points fall among them (R311); after the ninth the program goes on. -/
def execWsave (s : State) : Res :=
  micro 48 (fun s cx c =>
    let s := writeSpillRow s cx c ((c.mpc + 1) % 1024) c.phase
    rowDone (modCtx s cx (fun c => if c.phase < 8 then { c with phase := c.phase + 1 } else mnext { c with phase := 0 })) cx) s

/-- WREST (R320): without a valid save the job ends with STATUS 10 before its first row; after the ninth row it continues
at the saved MPC. -/
def execWrest (s : State) : Res :=
  micro 48 (fun s cx c =>
    if c.phase = 0 ∧ ¬saveValid s cx then endJob s cx 10 3
    else
      let bs := readSpillRow s cx c.phase
      let done := decide (8 ≤ c.phase)
      let s := count (touchChan s (rowPa cx 0 0)) 2 (cx / 4) 4 1
      if done then modCtx s cx (fun c => { restoreRow c 8 bs with phase := 0 })
      else
        let s := modCtx s cx (fun c => { restoreRow c c.phase bs with phase := c.phase + 1 })
        if (ctxOf s cx).wcnt = 3 then windowPoint s cx else modCtx s cx (fun c => { c with wcnt := c.wcnt + 1 })) s

/-- A row operation of a spill or a restore, which no window meets. -/
def ownRow (s : State) (cx : Nat) : State := count (touchChan s (rowPa cx 0 0)) 2 (cx / 4) 4 1

/-- FRESCO_SPILL (R318): a drained context releases its bank, and then writes its nine rows, one a step. -/
def execFrescoSpill (cx : Nat) (s : State) : Res :=
  let c := ctxOf s cx
  if c.state ≠ .draining ∨ ¬c.drained then .next s
  else if (chanOf s (cx / 4)).power ≠ .active then .next (wakeChan s (rowPa cx 0 0))
  else if c.phase = 0 then
    .next (modCtx (count s 2 (cx / 4) 6 (newWaits s cx)) cx (fun c => { c with phase := 1, asked := [], waited := [] }))
  else
    let s := ownRow (writeSpillRow s cx c c.mpc (c.phase - 1)) cx
    if c.phase < 9 then .next (modCtx s cx (fun c => { c with phase := c.phase + 1 }))
    else .next (frAnswerAll (modCtx s cx (fun c => { c with state := .spilled, drained := false, hold := false, phase := 0 })) (phSpill cx) 0 c.mpc)

/-- FRESCO_RESTORE (R318): the nine rows are read, one a step; with the last the hold is taken again, and the job goes on. A hand that is
being pre-empted by now asks for the next spill. -/
def execFrescoRestore (cx : Nat) (s : State) : Res :=
  let c := ctxOf s cx
  if c.state ≠ .restoring then .next s
  else if (chanOf s (cx / 4)).power ≠ .active then .next (wakeChan s (rowPa cx 0 0))
  else
    let s := ownRow (modCtx s cx (fun c => restoreRow c c.phase (readSpillRow s cx c.phase))) cx
    if c.phase < 8 then .next (modCtx s cx (fun c => { c with phase := c.phase + 1 }))
    else
      let s := modCtx s cx (fun c => { c with state := .running, spiller := 0, drained := false, phase := 0 })
      let s := if stopsLeaf s c.hand c.leaf then requestSpill s 2 cx else s
      .next (frStatusAll s (phRestore cx) 0)

/-! ### Job records and images (R313-R315) -/

/-- Whether a job record breaks R315. -/
def jobBad (n : BitVec 512) : Bool :=
  fld n 239 234 != 0 || fld n 223 218 != 0 || fld n 215 212 == 0 || fld n 211 209 != 0 || fld n 127 81 != 0 ||
  decide (255 < fld n 208 192) || fld n 80 64 == 0 || decide (256 < fld n 80 64) || decide (256 < fld n 80 64 + fld n 208 192) ||
  fld n 63 0 % 4096 != 0 || fld n 191 128 % 4096 != 0

/-- The pages of a job's weight range, and of its output range. -/
def jobTouches (n : BitVec 512) : List Touch × List Touch :=
  let l := fun (va k : Nat) => (List.range k).map (fun i => ({ va := (va / 4096 + i) * 4096 % 2 ^ 64, len := 4096 } : Touch))
  (l (fld n 63 0) (fld n 80 64), l (fld n 191 128) (fld n 208 192))

/-- A page cut to 4 KiB. -/
def cutPage (t : Touch) (p : Page) : Page := { p with vbase := t.va, size := 12, pbase := physOf p t.va }
def cutPages (ts : List Touch) (ps : List Page) : List Page := (List.zip ts ps).map (fun (t, p) => cutPage t p)

/-- Fields of an image header. -/
def imWords (bs : List Byte) : Nat := natOfBytes ((bs.drop 4).take 2)
def imBad (bs : List Byte) : Bool :=
  decide (natOfBytes (bs.take 4) ≠ 0x4B5A4652) || decide (imWords bs < 1) || decide (1024 < imWords bs) ||
  decide (natOfBytes ((bs.drop 6).take 2) ≠ 0) || decide (natOfBytes ((bs.drop 104).take 24) ≠ 0)

/-- The words' pages of an image: none where NWORD is out of range. -/
def imTouches (va : Nat) (bs : List Byte) : List Touch :=
  if imWords bs < 1 ∨ 1024 < imWords bs then [] else splitRange (va + 128) (4 * imWords bs)

/-- OP of a micro-word. -/
def mop (w : IWord) : Nat := fld w 31 27

/-- The first word that fails reason 1 of R314. -/
def failOp (ws : List IWord) : Option Nat := (List.range ws.length).find? (fun i => match decodeMicro (ws.getD i 0) with
  | .ok _ => false
  | .error _ => true)

/-- Reason 2: the first word at which loops do not nest, or more than two are open; a loop left open fails at its WLOOP,
the innermost one. -/
def failNest (opens : List Nat) (i : Nat) : List IWord → Option Nat
  | [] => opens.head?
  | w :: r =>
    if mop w = 10 then (if 2 ≤ opens.length then some i else failNest (i :: opens) (i + 1) r)
    else if mop w = 11 then (match opens with
      | [] => some i
      | _ :: o => failNest o (i + 1) r)
    else failNest opens (i + 1) r

/-- Reason 3: a WEND within a loop, or a last word that is none. -/
def failEnd (depth i : Nat) : List IWord → Option Nat
  | [] => none
  | w :: r =>
    if mop w = 15 ∧ depth ≠ 0 then some i
    else if r = [] ∧ mop w ≠ 15 then some i
    else failEnd (if mop w = 10 then depth + 1 else if mop w = 11 then depth - 1 else depth) (i + 1) r

/-- Reason 4: the word that takes a run past 16 row units or 32 words. -/
def failRun (rows words i : Nat) : List IWord → Option Nat
  | [] => none
  | w :: r =>
    if mop w = 10 ∨ mop w = 11 ∨ mop w = 15 then failRun 0 0 (i + 1) r
    else
      let u := if mop w = 5 ∨ mop w = 6 ∨ mop w = 12 then 1 else if mop w = 13 ∨ mop w = 14 then 9 else 0
      if 16 < rows + u ∨ 32 < words + 1 then some i else failRun (rows + u) (words + 1) (i + 1) r

/-- The first failing structure rule of R314: its reason and word. -/
def structFault (ws : List IWord) : Option (Nat × Nat) :=
  match failOp ws, failNest [] 0 ws, failEnd 0 0 ws, failRun 0 0 0 ws with
  | some i, _, _, _ => some (1, i)
  | none, some i, _, _ => some (2, i)
  | none, none, some i, _ => some (3, i)
  | none, none, none, some i => some (4, i)
  | none, none, none, none => none

/-! ### Issue (R322, R323, R326) -/

/-- A CMD form at issue with nothing read: its command enters the queue. -/
def frEnter (s t : State) (k : Tok) (c : EngCmd) : Res :=
  let g := s.focus
  let q := s.focusSq
  if ¬room16 (easelOf s (easelNo g)).frescoQ then .next (stalled s g q 12)
  else
    let t := awaitDst t g q c.ticket c.dst Tag.empty
    let t := modEasel t (easelNo g) (fun e => { e with frescoQ := e.frescoQ ++ [c] })
    .next (finish (dropWalks t g q) g q k (fun y => advance y 1))

/-- A record of len bytes at va read at issue as a load of the issuing ordering buffer, for which it has room (R155), ordered after its
tag: k takes its bytes and the state; a wait or a
trap stands in s. -/
def recordRead (s t : State) (tag : Tag) (va len : Nat) (k : List Page → List Byte → State → Res) : Res :=
  let g := s.focus
  let q := s.focusSq
  if va % 64 ≠ 0 then .next (xlTrap s g q va false { cause := 6, reason := 5, level := 7 })
  else if q ≠ .c ∧ ¬tagEmpty tag then .next (stalled s g q 7)
  else if q ≠ .c ∧ ¬obRoom s g q then .next (stalled s g q 12)
  else
    let ts := splitPages va len
    withPages s g q true false [.normal] ts fun ps =>
      if q = .c then k ps [] t
      else
        let pcs := (List.zip ts ps).map (fun (x, p) =>
          pieceAt p x.va x.len 0)
        if ¬mayReadAll s g q pcs then .next (readWaits s g q pcs)
        else
          let (bs, t) := pcs.foldl (fun (x : List Byte × State) pc =>
            let (b, t) := pointRead x.2 (dieNo g) pc.kind pc.ptype pc.pa pc.len
            (x.1 ++ b, t)) ([], t)
          k ps bs t

/-- FRGO (R323): on C the engine reads the record and checks its ranges. -/
def execFrgo (k : Tok) (d a b : BitVec 5) (s : State) : Res :=
  issue s k (reqCP everywhere [d, a, b]) fun t _ id =>
    let g := s.focus
    let q := s.focusSq
    let x := sqOf s g q
    let c := mkCmd t g q id (tagJoin (tagGet x a) (tagGet x b)) (some 0x10) [regGet x a, regGet x b] (dstRef (.reg d))
    recordRead s t (tagGet x a) (regGet x a).toNat 64 fun ps bs t =>
      if q = .c then frEnter s t k { c with pages := ps }
      else
        let n := BitVec.ofNat 512 (natOfBytes bs)
        let (ws, os) := jobTouches n
        withPages s g q true false [.normal] ws fun pw =>
          withPages s g q true true [.normal] os fun po =>
            if 256 < ws.length + os.length then .next (takeTrap (dropWalks s g q) g q 7 (sizeInfo 1 (regGet x a).toNat))
            else frEnter s t k { c with extra := bs, pages := cutPages ws pw ++ cutPages os po }

/-- FRST (R324). -/
def execFrst (k : Tok) (d a : BitVec 5) (s : State) : Res :=
  issue s k (reqCP everywhere [d, a]) fun t _ id =>
    let x := sqOf s s.focus s.focusSq
    frEnter s t k (mkCmd t s.focus s.focusSq id (tagGet x a) (some 0x11) [regGet x a, 0] (dstRef (.reg d)))

/-- FRSPL (R325). -/
def execFrspl (k : Tok) (d a : BitVec 5) (s : State) : Res :=
  issue s k (reqCP everywhere [d, a]) fun t _ id =>
    let x := sqOf s s.focus s.focusSq
    frEnter s t k (mkCmd t s.focus s.focusSq id (tagGet x a) (some 0x12) [regGet x a, 0] (dstRef (.reg d)))

/-- FRLD (R326): on C the engine reads the image. -/
def execFrld (k : Tok) (d a b : BitVec 5) (s : State) : Res :=
  issue s k (reqCP everywhere [d, a, b]) fun t _ id =>
    let g := s.focus
    let q := s.focusSq
    let x := sqOf s g q
    let va := (regGet x a).toNat
    let c := mkCmd t g q id (tagJoin (tagGet x a) (tagGet x b)) (some 0x13) [regGet x a, regGet x b] (dstRef (.reg d))
    recordRead s t (tagGet x a) va 128 fun ps bs t =>
      if q = .c then frEnter s t k { c with pages := ps }
      else
        let ts := imTouches va bs
        withPages s g q true false [.normal] ts fun pw =>
          let pcs := (List.zip ts pw).map (fun (y, p) =>
            pieceAt p y.va y.len 0)
          if ¬mayReadAll s g q pcs then .next (readWaits s g q pcs)
          else
            let (ws, t) := pcs.foldl (fun (z : List Byte × State) pc =>
              let (r, t) := pointRead z.2 (dieNo g) pc.kind pc.ptype pc.pa pc.len
              (z.1 ++ r, t)) ([], t)
            frEnter s t k { c with extra := bs ++ ws, pages := ps ++ pw }

/-! ### The engine (R323-R327) -/

/-- The status of a failure that an engine finds (R323): 9 translation, 12 protection. -/
def frStatus (f : XlFault) : Nat := if f.cause = 5 then 9 else 12

/-- The function, and the operands a and b, of a command. -/
def frFn (c : EngCmd) : Nat := match c.fn with
  | some f => f - 0x10
  | none => fld (c.words.getD 0 0) 7 0
def frA (c : EngCmd) : Word := if c.fn.isSome then c.words.getD 0 0 else c.words.getD 1 0
def frB (c : EngCmd) : Word := if c.fn.isSome then c.words.getD 1 0 else c.words.getD 2 0

/-- Whether a PUSHC command is malformed (R327). -/
def frMalformed (w : Nat → Word) : Bool :=
  let op := fld (w 0) 7 0
  decide (3 < op) || fld (w 0) 15 8 != 0 || fld (w 0) 63 32 != 0 || ((op == 1 || op == 2) && w 2 != 0) ||
  w 3 != 0 || w 4 != 0 || w 5 != 0 || w 6 != 0 || w 7 != 0

/-- Bytes that an engine reads for a command at the channel arbiters (R158): through its captured pages, or translated here; none
while a channel does not take the read, or that of a table entry, and then the state with the accesses waiting there. -/
def frRead (s : State) (c : EngCmd) (va len : Nat) (captured : List Page) : Except XlFault (Option (List Byte) × State) :=
  let ts := splitRange va len
  let got := fun (ps : List Page) => (List.zip ts ps).flatMap (fun (t, p) => memRead s.mem (physOf p t.va) t.len)
  if captured != [] then
    let pas := (List.zip ts captured).map (fun (t, p) => physOf p t.va)
    if ¬unitsOpen s pas then .ok (none, unitsKnock s pas) else .ok (some (got captured), pas.foldl chanRead s)
  else if ¬unitOpen s c.part va len then .ok (none, unitKnock s c.part va len)
  else match unitPages s c.part false true false [.normal] ts with
  | .error (_, f) => .error f
  | .ok ps => .ok (some (got ps), unitTouched s false va len ps)

/-- The engine's last checks on a job, and its start (R323): 2 layouts, 3 banks, 5 entry, 4 context. -/
def jobTake (s : State) (e : Nat) (c : EngCmd) (n : BitVec 512) (ws os : List Page) : State :=
  let grp := fld n 217 216
  let ch := ((ws.map (fun p => chanNo p.pbase)).headD 0)
  let cx := 4 * ch + grp
  if ws.any (fun p => p.layout != fld n 215 212) ∨ os.any (fun p => p.layout != 0) then frStatusOnly s e c 2
  else if (ws ++ os).any (fun p => chanNo p.pbase != ch || bits p.pbase 30 29 != grp) then frStatusOnly s e c 3
  else if ¬(chanOf s ch).images.any (fun i => i.1 == fld n 233 224) then frStatusOnly s e c 5
  else if (ctxOf s cx).state ≠ .idle then frStatusOnly s e c 4
  else
    let s := modCtx s cx (fun _ => { Context.reset with
      m := tableFrom 0 ((List.range 8).map (fun i => n.extractLsb' (32 * i + 256) 32)), mpc := fld n 233 224, entry := fld n 233 224
      state := .running, part := c.part, hand := c.hand, leaf := c.leaf, evt := bit (frB c) 1, cookie := n.extractLsb' 240 16
      wpages := ws, opages := os })
    modEasel s e (fun x => { x with frescoQ := x.frescoQ.map (fun y => if y.ticket = c.ticket then { y with phase := phStart cx } else y) })

/-- FRGO at the engine. -/
def frgoEngine (s : State) (e : Nat) (c : EngCmd) : State :=
  let own := c.extra != []
  let va := (frA c).toNat
  if fld (frB c) 63 2 ≠ 0 then frStatusOnly s e c 8
  else if va % 64 ≠ 0 then frFail s e c 12 5
  else match (if own then Except.ok (some c.extra, s) else frRead s c va 64 c.pages) with
  | .error f => frFail s e c (frStatus f) f.reason
  | .ok (none, s) => s
  | .ok (some bs, s') =>
    let n := BitVec.ofNat 512 (natOfBytes bs)
    if jobBad n then frStatusOnly s' e c 8
    else
      let (ws, os) := jobTouches n
      let tables := (ws ++ os).flatMap (fun t => unitTables s c.part t.va)
      if own then jobTake s e c n (c.pages.take ws.length) (c.pages.drop ws.length)
      else if ¬unitsOpen s tables then unitsKnock s tables
      else
      let s := (ws ++ os).foldl (fun s t => walkTouched s c.part t.va) s'
      match unitPages s c.part false true false [.normal] ws with
      | .error (_, f) => frFail s e c (frStatus f) f.reason
      | .ok pw =>
        match unitPages s c.part false true true [.normal] os with
        | .error (_, f) => frFail s e c (frStatus f) f.reason
        | .ok po =>
          if 256 < ws.length + os.length then (if c.fn.isSome then frStatusOnly s e c 11 else frFail s e c 11 0)
          else jobTake s e c n (cutPages ws pw) (cutPages os po)

/-- The last checks of an image that is read whole, header and words, and its load (R314). -/
def imageTake (s : State) (e : Nat) (c : EngCmd) (bs : List Byte) : State :=
  let ch := fld (frB c) 8 0
  let off := fld (frB c) 25 16
  let nw := imWords bs
  let wb := bs.drop 128
  let hits := fun (i : Nat × Nat) => decide (i.1 < off + nw) && decide (off < i.1 + i.2)
  let img := (chanOf s ch).images.filter hits
  let digest := Config.sm3 (wb.take (4 * nw))
  let ws := (List.range nw).map (word32At wb)
  if 384 ≤ ch ∨ (chanOf s ch).owner ≠ some c.part then frStatusOnly s e c 3
  else if 1024 < off + nw then frStatusOnly s e c 5
  else if (chanOf s ch).ctx.any (fun x => x.2.state != .idle && img.any (fun i => i.1 == x.2.entry)) then frStatusOnly s e c 4
  else
  let s := measure s (32 + ch) digest
  if digest ≠ BitVec.ofNat 256 (natOfBytes ((bs.drop 8).take 32)) ∨
      ¬keyed s digest (BitVec.ofNat 512 (natOfBytes ((bs.drop 40).take 64))) then frStatusOnly s e c 6
  else match structFault ws with
  | some (r, i) => frAnswer s e c 7 (at' r 12 + i)
  | none =>
    let s := modChan s ch (fun x => { x with
      ibuf := tputAll x.ibuf off ws, images := (off, nw) :: x.images.filter (fun i => !hits i) })
    frAnswer s e c 0 nw

/-- The phase of an FRLD whose engine is reading the image. -/
def phLoad : Nat := 6001

/-- The bytes that an FRLD's engine reads next, of which it has n: the header, then up to 64 bytes of the words (R156). -/
def imageNext (bs : List Byte) : Nat := if bs = [] then 128 else min 64 (128 + 4 * imWords bs - bs.length)

/-- FRLD at the engine: one access of it a step. -/
def frldEngine (s : State) (e : Nat) (c : EngCmd) : State :=
  let own := c.phase == 0 && c.extra != []
  let va := (frA c).toNat
  let bs := c.extra
  if fld (frB c) 15 9 ≠ 0 ∨ fld (frB c) 63 26 ≠ 0 then frStatusOnly s e c 8
  else if va % 64 ≠ 0 then frFail s e c 12 5
  else if own then (if imBad bs then frStatusOnly s e c 8 else imageTake s e c bs)
  else match frRead s c (va + bs.length) (imageNext bs) (if bs = [] then c.pages else []) with
  | .error f => frFail s e c (frStatus f) f.reason
  | .ok (none, s) => s
  | .ok (some r, s) =>
    if imBad (bs ++ r) then frStatusOnly s e c 8
    else if 128 + 4 * imWords (bs ++ r) ≤ (bs ++ r).length then imageTake s e c (bs ++ r)
    else modEasel s e (fun x => { x with frescoQ := x.frescoQ.map (fun y => if y.ticket = c.ticket then { y with extra := bs ++ r, phase := phLoad } else y) })

/-- The context that FRST or FRSPL names, or the status that turns it down. -/
def frCtx (s : State) (c : EngCmd) : Except Nat Nat :=
  let a := frA c
  let cx := fld a 10 0
  if fld a 14 11 ≠ 0 ∨ fld a 63 16 ≠ 0 then .error 8
  else if 1536 ≤ cx ∨ (chanOf s (cx / 4)).owner ≠ some c.part then .error 3
  else .ok cx

/-- STATE of R324. -/
def ctxStateNo : CtxState → Nat
  | .idle => 0
  | .running => 1
  | .window => 2
  | .draining => 3
  | .spilled => 4
  | .restoring => 5

/-- FRST at the engine: the reply is taken, then the abort. Where no context is reached the named fields are free (log
entry 36). -/
def frstEngine (s : State) (e : Nat) (c : EngCmd) : State :=
  match frCtx s c with
  | .error st =>
    let (n, s) := takeFresh s
    frAnswer s e c st (Config.freeWord n &&& 0x00F8FFFF180FFDFF).toNat
  | .ok cx =>
    let x := ctxOf s cx
    let s := frAnswer s e c 0 (at' (ctxStateNo x.state) 53 + at' x.spiller 51 + at' x.cookie.toNat 32 + at' x.loops.length 27 + at' x.mpc 10 + x.hand)
    if ¬bit (frA c) 15 ∨ x.state = .idle then s
    else if x.state = .spilled ∨ x.state = .window ∨ x.drained then endJob s cx 0 3
    else modCtx s cx (fun x => { x with abort := true })

/-- A command that its engine has taken and that waits for a context. -/
def frPhase (s : State) (e : Nat) (c : EngCmd) (phase : Nat) : State :=
  modEasel s e (fun x => { x with frescoQ := x.frescoQ.map (fun y => if y.ticket = c.ticket then { y with phase := phase } else y) })

/-- FRSPL at the engine. A request that finds the context restoring waits for it. -/
def frsplEngine (s : State) (e : Nat) (c : EngCmd) : State :=
  match frCtx s c with
  | .error st => frStatusOnly s e c st
  | .ok cx =>
    let x := ctxOf s cx
    if ¬bit (frA c) 15 then
      match x.state with
      | .idle => frStatusOnly s e c 4
      | .spilled => frAnswer s e c 0 x.mpc
      | .restoring => s
      | _ => frPhase (requestSpill s 1 cx) e c (phSpill cx)
    else if x.state = .spilled ∧ x.spiller = 1 then
      frPhase (modCtx s cx (fun x => { x with state := .restoring })) e c (phRestore cx)
    else frStatusOnly s e c 4

/-- FRESCO_COMMAND (R322, R327): the command at a position of the easel's queue, once nothing holds it back. A command that has not
started waits for the save of its leaf (R337). -/
def execFrescoCommand (e ix : Nat) (s : State) : Res :=
  match (easelOf s e).frescoQ[ix]? with
  | none => .next s
  | some c =>
    if (c.phase ≠ 0 ∧ c.phase ≠ phLoad) ∨ (c.phase = 0 ∧ stopsCmd s c.hand c.sq c.leaf c.ticket) ∨ ¬cmdReady s c.hand c.sq c.ticket c.tag then .next s
    else if c.fn.isNone ∧ frMalformed (fun i => c.words.getD i 0) then .next (frPush (frLeave s e c) c 8 0 0)
    else match frFn c with
    | 0 => .next (frgoEngine s e c)
    | 1 => .next (frstEngine s e c)
    | 2 => .next (frsplEngine s e c)
    | _ => .next (frldEngine s e c)

/-- The release of an FRGO with REL (R316): everything earlier of its sequencer is performed at system scope. -/
def startReleased (s : State) (c : EngCmd) : Bool :=
  !bit (frB c) 0 ||
  (!((sqOf s c.hand c.sq).ob.any (fun x => decide (x.ticket < c.ticket) && !isFence x.op)) &&
   !((bufTickets s c.hand c.sq ++ cmdTickets s c.hand c.sq).any (fun t => decide (t < c.ticket))) && !anyDirty s (dieNo c.hand))

/-- JOB_START (R316): a job whose orderings are met may perform its row operations; its FRGO is answered. One whose leaf is being
pre-empted is saved unstarted (R337). -/
def execJobStart (cx : Nat) (s : State) : Res :=
  match frWaiting s (phStart cx) with
  | [] => .next s
  | (e, c) :: _ =>
    if ¬startReleased s c ∨ stopsCmd s c.hand c.sq c.leaf c.ticket then .next s
    else .next (frAnswer (modCtx s cx (fun x => { x with begun := true })) e c 0 cx)

end Sys2Proof.Machine
end

