-- ==== Sys2Proof/Machine/Collective.lean ====
section
/-! DEFINITION. Collectives across devices (R278-R304): the mesh, layout pairs and exchanges, counters, scoreboards and
triggers, sends, reductions and histograms, the commands CXLAY to CSLOT with their PUSHC forms, messages and pauses. -/

namespace Sys2Proof.Machine

/-! ### The mesh (R278) -/

def meshSize (w : Word) (a : Nat) : Nat := fld w (12 * a + 11) (12 * a) + 1
def meshRank (w : Word) : Nat := fld w 61 50
def meshAxes (w : Word) : Nat := fld w 49 48 + 1
def meshCount (w : Word) : Nat := meshSize w 0 * meshSize w 1 * meshSize w 2 * meshSize w 3

/-- The coordinate of a rank on an axis. -/
def meshCoord (w : Word) (rank a : Nat) : Nat := rank / prod ((List.range a).map (meshSize w)) % meshSize w a

/-- MESH_DESCRIPTOR_WRITE (R278). -/
def execMeshDescriptorWrite (p : Nat) (w : Word) (peers : List (Nat × Nat × Nat)) (s : State) : Res :=
  asked s <| if fld w 63 62 ≠ 0 ∨ [0, 1, 2, 3].any (fun a => decide (meshAxes w ≤ a) && meshSize w a != 1) ∨ 4096 < meshCount w ∨ meshCount w ≤ meshRank w then
    .next (emit s (.refused 7))
  else .next (modPart s p (fun x => { x with mesh := w, peers := peers }))

/-- The UE endpoint and the partition there that a partition's peer table names for a rank (R278). -/
def peerOf (s : State) (p rank : Nat) : Option (Nat × Nat) := ((partOf s p).peers.find? (fun e => e.1 == rank)).map (·.2)

/-- The ranks that differ from this device's on one axis alone. -/
def axisRanks (w : Word) (a : Nat) : List Nat :=
  (List.range (meshCount w)).filter (fun r => meshCoord w r a != meshCoord w (meshRank w) a &&
    [0, 1, 2, 3].all (fun b => b == a || meshCoord w r b == meshCoord w (meshRank w) b))

/-! ### Layout pairs (R279-R282) -/

def lpDims (n : BitVec 512) : Nat := fld n 2 0
def lpFmt (n : BitVec 512) : BitVec 24 := n.extractLsb' 24 24
def lpExtent (n : BitVec 512) (i : Nat) : Nat := fld n (32 * i + 319) (32 * i + 288)
def lpSrc (n : BitVec 512) : Nat := fld n 223 192
def lpDst (n : BitVec 512) : Nat := fld n 255 224
def lpOff (n : BitVec 512) : Int := signed 64 (fld n 511 448)
def lpRop (n : BitVec 512) : Nat := fld n 17 16

/-- The axis code of dimension i in a layout, and whether an axis is partial. -/
def layDim (l i : Nat) : Nat := bits l (3 * i + 2) (3 * i)
def layPart (l a : Nat) : Bool := bits l (16 + a) (16 + a) == 1

/-- The dimension below nd that an axis shards. -/
def layShard (l nd a : Nat) : Option Nat := (List.range nd).find? (fun i => layDim l i == a)

/-- A step of the planner along one axis (R281). -/
inductive Step where
  | none
  | reduceScatter (i : Nat)
  | allReduce
  | allToAll (i j : Nat)
  | allGather (i : Nat)
  | slice (i : Nat)
  | rejected
  deriving DecidableEq, Repr

def stepOf (n : BitVec 512) (a : Nat) : Step :=
  let nd := lpDims n
  let (s, d) := (lpSrc n, lpDst n)
  if layPart s a then
    if layPart d a then .none else match layShard d nd a with
      | some i => .reduceScatter i
      | none => .allReduce
  else if layPart d a then .rejected
  else match layShard s nd a, layShard d nd a with
  | some i, some j => if i = j then .none else .allToAll i j
  | some i, none => .allGather i
  | none, some i => .slice i
  | none, none => .none

def stepsOf (n : BitVec 512) : List Step := [0, 1, 2, 3].map (stepOf n)

def reduces (x : Step) : Bool := match x with
  | .reduceScatter _ => true
  | .allReduce => true
  | _ => false

def sendsAlong (x : Step) : Bool := match x with
  | .none => false
  | .slice _ => false
  | .rejected => false
  | _ => true

/-- A step's place in the planner's order: reductions, all-to-alls, all-gathers, slices. -/
def stepRank : Step → Nat
  | .reduceScatter _ => 0
  | .allReduce => 0
  | .allToAll _ _ => 1
  | .allGather _ => 2
  | _ => 3

/-- The axes of a layout pair in the order in which the planner performs their steps (R281): ascending within a kind. -/
def stepOrder (n : BitVec 512) : List Nat := [0, 1, 2, 3].flatMap (fun k => [0, 1, 2, 3].filter (fun a => stepRank (stepOf n a) == k))

/-- The message pattern of every step: WIRE, or the planner's own fixed function of the pair and the mesh without this device's rank,
so that every device picks the same (R281). -/
def wirePattern (w : Word) (n : BitVec 512) : Nat := if fld n 21 20 = 0 then Config.planner n (w &&& 0xC003FFFFFFFFFFFF) else fld n 21 20

/-- The extent and first index of a shard along a dimension under a layout (R280). -/
def shardExtent (w : Word) (n : BitVec 512) (l i : Nat) : Nat := if layDim l i = 7 then lpExtent n i else lpExtent n i / meshSize w (layDim l i)
def shardFirst (w : Word) (n : BitVec 512) (l i : Nat) : Nat :=
  if layDim l i = 7 then 0 else meshCoord w (meshRank w) (layDim l i) * shardExtent w n l i

/-- Bytes of an element, and of a shard. -/
def lpElem (n : BitVec 512) : Nat := ((fmtOf (lpFmt n)).map Fmt.cbits).getD 8 / 8
def shardBytes (w : Word) (n : BitVec 512) (l : Nat) : Nat := prod ((List.range (lpDims n)).map (shardExtent w n l)) * lpElem n

/-- The base of the destination shard. -/
def dstBase (n : BitVec 512) (base : Nat) : Nat := (((base : Int) + lpOff n) % (2 : Int) ^ 64).toNat

/-- Whether every page of a range is mapped, normal, permitted and owned (R282 detail 7, which does not name SUP); one step a leaf. -/
def rangeOk (s : State) (part : Nat) (wr : Bool) (va hi : Nat) : Nat → Bool
  | 0 => decide (hi ≤ va)
  | fuel + 1 =>
    if hi ≤ va then true
    else match walk s part va with
    | .error _ => false
    | .ok p => (pageFault p part true (!wr) wr [.normal] va 1).isNone && rangeOk s part wr (p.vbase + 2 ^ p.size) hi fuel

/-- The first failing detail of R282. -/
def pairFault (s : State) (part : Nat) (n : BitVec 512) (base : Nat) : Option Nat :=
  let w := (partOf s part).mesh
  let nd := lpDims n
  let five := [0, 1, 2, 3, 4]
  let four := [0, 1, 2, 3]
  let lays := [lpSrc n, lpDst n]
  let high := fun (i : Nat) => decide (nd ≤ i)
  let codeBad := fun (l i : Nat) => if high i then layDim l i != 0 else decide (4 ≤ layDim l i) && layDim l i != 7
  let steps := stepsOf n
  let shards := fun (l i : Nat) => if layDim l i < 4 then some (layDim l i) else none
  let used := fun (l : Nat) => (List.range nd).filterMap (shards l)
  let d0 := dstBase n base
  let sb := shardBytes w n (lpSrc n)
  let db := shardBytes w n (lpDst n)
  if fld n 287 256 ≠ 0 ∨ fld n 191 48 ≠ 0 ∨ fld n 23 22 ≠ 0 ∨ fld n 19 18 ≠ 0 ∨ fld n 15 3 ≠ 0 ∨ nd < 1 ∨ 5 < nd ∨ lpRop n = 3 ∨
     lays.any (fun l => bits l 15 15 != 0 || bits l 31 20 != 0 || five.any (codeBad l)) ∨
     five.any (fun i => if high i then lpExtent n i != 0 else lpExtent n i == 0) then some 1
  else if (match fmtOf (lpFmt n) with
      | none => true
      | some .e8m0 => true
      | some .sct16 => true
      | some f => decide (f.width ≤ 4) || (steps.any reduces && f != fp32 && f != bf16 && f != fp16 && f != int32)) then some 2
  else if lays.any (fun l => (used l).any (fun a => decide (meshAxes w ≤ a) || layPart l a) || !unique (used l) ||
      four.any (fun a => layPart l a && decide (meshAxes w ≤ a))) then some 3
  else if lays.any (fun l => (List.range nd).any (fun i => layDim l i != 7 && lpExtent n i % meshSize w (layDim l i) != 0)) then some 4
  else if steps.any (fun x => x == .rejected) then some 5
  else if decide (base < d0 + db) && decide (d0 < base + sb) &&
      !(lpOff n == 0 && steps.all (fun x => x == .none || x == .allReduce)) then some 6
  else if ¬rangeOk s part false base (base + sb) (sb / 4096 + 2) ∨ ¬rangeOk s part true d0 (d0 + db) (db / 4096 + 2) then some 7
  else none

/-! ### Counters, scoreboards and triggers (R285-R287) -/

/-- Fields of a trigger record (R286). -/
def trCond (r : BitVec 512) : Nat := fld r 1 0
def trAct (r : BitVec 512) : Nat := fld r 3 2
def trCidx (r : BitVec 512) : Nat := fld r 13 4
def trCookie (r : BitVec 512) : Nat := fld r 47 32
def trEvt (r : BitVec 512) : Bool := bit r 48
def trThresh (r : BitVec 512) : Word := r.extractLsb' 64 64
def trArg (r : BitVec 512) : Word := r.extractLsb' 128 64
def trInc (r : BitVec 512) : Word := r.extractLsb' 192 64

/-- Whether a target operand of CADD or CCNT has a bit set that must be zero (R300). -/
def targetBad (a : Word) (upd : Bool) : Bool :=
  fld a 63 16 != 0 || (if bit a 15 then fld a 13 8 != 0 || (!upd && bit a 14) else fld a 14 10 != 0)

/-- The value that an operand of CADD or CCNT names. -/
def targetGet (x : Part) (a : Word) : Word := if bit a 15 then tget 0 x.boards (fld a 7 0) else tget 0 x.counters (fld a 9 0)

/-- An update applied: an addition, an OR, or an AND-NOT. -/
def targetPut (x : Part) (a v : Word) : Part :=
  if bit a 15 then { x with boards := tmod 0 x.boards (fld a 7 0) (fun o => if bit a 14 then o &&& ~~~v else o ||| v) }
  else { x with counters := tmod 0 x.counters (fld a 9 0) (fun o => o + v) }

/-- Whether a trigger record is malformed, its send record apart (R298). -/
def triggerBad (r : BitVec 512) : Bool :=
  decide (1 < trCond r) || fld r 511 256 != 0 || fld r 63 49 != 0 || fld r 31 14 != 0 || (trCond r == 1 && fld r 13 12 != 0) ||
  (match trAct r with
   | 0 => (trArg r).toNat % 64 != 0
   | 1 => fld (trArg r) 63 6 != 0
   | 2 => targetBad (trArg r) true
   | _ => trArg r != 0)

/-- The value that a trigger watches, and whether its condition holds. -/
def watched (x : Part) (r : BitVec 512) : Word := if trCond r = 0 then tget 0 x.counters (trCidx r) else tget 0 x.boards (trCidx r % 256)
def condHolds (x : Part) (r : BitVec 512) : Bool :=
  if trCond r = 0 then decide ((trThresh r).toNat ≤ (watched x r).toNat) else watched x r &&& trThresh r == trThresh r

/-- An event of R292. -/
def collEvent (s : State) (g : Nat) (leaf : Option Bound) (status kind cookie value : Nat) : State :=
  pushEng s g leaf 8 (BitVec.ofNat 64 (at' status 56 + at' kind 48 + at' (cookie % 65536) 32 + value % 2 ^ 32))

/-! ### Exchanges (R291, R297) -/

/-- The I/O dies whose ports an exchange uses: those that are ready themselves (R363), with a port that is. -/
def slotDies (s : State) : List Nat := [0, 1].filter (fun d => bit s.pkg.ready (5 + d) && (List.range 8).any (fun i => bit s.pkg.ready (19 + 8 * d + i)))

/-- Whether an exchange planner is in service: that of a ready I/O die (R6, R363). -/
def plannerUp (s : State) : Bool := bit s.pkg.ready 5 || bit s.pkg.ready 6

/-- Reduction slots in use of an I/O die, and of a partition. -/
def slotsBusy (s : State) (d : Nat) : Nat := tget 0 s.pkg.slotsUsed d
def quotaBusy (s : State) (p : Nat) : Nat := ((partOf s p).handles.map (fun h => h.2.slots.length)).sum

/-- The slots that a reducing exchange is granted, or none where a die has no free slot or the quota is spent. -/
def grantSlots (s : State) (p : Nat) : Option (List Nat) :=
  let ds := slotDies s
  if ds.any (fun d => decide (64 ≤ slotsBusy s d)) ∨ (partOf s p).quota < quotaBusy s p + ds.length then none else some ds

def addSlots (s : State) (ds : List Nat) : State := { s with pkg := { s.pkg with slotsUsed := ds.foldl (fun t d => tmod 0 t d (fun n => n + 1)) s.pkg.slotsUsed } }
def freeSlots (s : State) (ds : List Nat) : State := { s with pkg := { s.pkg with slotsUsed := ds.foldl (fun t d => tmod 0 t d (fun n => n - 1)) s.pkg.slotsUsed } }

def handleOf (s : State) (p h : Nat) : Option Handle := ((partOf s p).handles.find? (fun e => e.1 == h)).map (·.2)
def modHandle (s : State) (p h : Nat) (f : Handle → Handle) : State :=
  modPart s p (fun x => { x with handles := x.handles.map (fun e => if e.1 = h then (e.1, f e.2) else e) })

/-- The axes along which an exchange has traffic, in the order of the steps. -/
def trafficAxes (w : Word) (n : BitVec 512) : List Nat := (stepOrder n).filter (fun a => sendsAlong (stepOf n a) && axisRanks w a != [])

/-- The messages of an exchange: step by step in the planner's order, one to each device that differs on the step's axis (R281). -/
def stepSends (w : Word) (n : BitVec 512) : List (Nat × Nat) := (trafficAxes w n).flatMap (fun a => (axisRanks w a).map (fun r => (a, r)))

/-- A run of a handle begun: its messages are still to be started. -/
def beginRun (w : Word) (slots : List Nat) (x : Handle) : Handle :=
  { x with running := true, slots := slots, sends := stepSends w x.record, msg := [], own := [], out := none, newHist := none }

/-- A prepared exchange started under an algorithm: 0 or the STATUS of R297. -/
def startExchange (s : State) (p h algo : Nat) (f : Handle → Handle) : Nat × State :=
  match handleOf s p h with
  | none => (4, s)
  | some x =>
    if x.running then (4, s)
    else
      let w := (partOf s p).mesh
      let want := algo != 2 && (stepsOf x.record).any reduces
      let got := if want then grantSlots s p else some []
      match got with
      | none => if algo = 1 then (1, s) else (0, modHandle s p h (fun x => beginRun w [] (f x)))
      | some ds => (0, addSlots (modHandle s p h (fun x => beginRun w ds (f x))) ds)

/-! ### Sends (R288) -/

def sdLcv (r : BitVec 512) : Bool := bit r 266
def sdBytes (r : BitVec 512) : Nat := fld r 159 128
def sdPeer (r : BitVec 512) : Nat := fld r 175 160

/-- Whether a send record breaks R288. -/
def sendBad (w : Word) (r : BitVec 512) : Bool :=
  fld r 511 449 != 0 || fld r 447 433 != 0 || fld r 415 384 != 0 || fld r 319 267 != 0 || fld r 191 188 != 0 ||
  (bit r 187 && fld r 185 184 != 0) || decide (meshCount w ≤ sdPeer r) || decide (2 ^ 30 < sdBytes r)

/-- A send accepted. -/
def addSend (s : State) (p : Nat) (r : BitVec 512) (g : Nat) (q : SeqId) (leaf : Option Bound) (ticket : Nat) : State :=
  let x : Send := { ticket := s.nextId, record := r, hand := g, sq := q, leaf := leaf, data := [], sent := false
                    after := if bit r 448 then some ticket else none }
  modPart { s with nextId := s.nextId + 1 } p (fun y => { y with sends := y.sends ++ [x] })

/-! ### Firing (R287) -/

/-- The action of a fired entry, and its event. -/
def fireAction (s : State) (p k : Nat) (t : Trigger) : State :=
  let r := t.record
  let (st, s) := match trAct r with
    | 0 => (0, addSend s p t.send t.hand t.sq t.leaf t.ticket)
    | 1 => startExchange s p (fld (trArg r) 5 0) 0 (fun x => { x with hand := t.hand, leaf := t.leaf, cookie := 0, evt := false, doneCnt := none })
    | 2 => (0, modPart s p (fun x => targetPut x (trArg r) (trInc r)))
    | _ => (0, s)
  if trEvt r then collEvent s t.hand t.leaf st 2 (trCookie r) k else s

/-- Whether a partition's collectives are paused: by the supervisor, or by a suspend under way (R294, R360). -/
def collPaused (s : State) (p : Nat) : Bool := (partOf s p).paused || (decide (1 ≤ s.pkg.phase) && decide (s.pkg.phase ≤ 4))

/-- Entries in ascending number. -/
def byNumber (l : Table Trigger) : List (Nat × Trigger) :=
  l.foldl (fun a e => a.filter (fun x => decide (x.1 < e.1)) ++ [e] ++ a.filter (fun x => decide (e.1 < x.1))) []

/-- An evaluation (R287): the armed entries whose condition holds fire, all of them, and become free. During a pause their actions
are kept for the resume (R294). -/
def takeFired (s : State) (p : Nat) : List (Nat × Trigger) × State :=
  let l := byNumber ((partOf s p).triggers.filter (fun e => condHolds (partOf s p) e.2.record))
  let s := modPart s p (fun x => { x with triggers := x.triggers.filter (fun e => !condHolds (partOf s p) e.2.record) })
  if collPaused s p then ([], modPart s p (fun x => { x with deferred := x.deferred ++ l })) else (l, s)

/-- The actions of fired entries, one after another: what one of them changes is evaluated before the next acts (R287). Fuel bounds
them; every fired entry has left the armed ones. -/
def fireAll (p : Nat) : Nat → State → List (Nat × Trigger) → State
  | 0, s, _ => s
  | _ + 1, s, [] => s
  | n + 1, s, (k, t) :: r =>
    let (l, s) := takeFired (fireAction s p k t) p
    fireAll p n s (r ++ l)

/-- An evaluation, with all that it fires. -/
def settle (s : State) (p : Nat) : State :=
  let n := (partOf s p).triggers.length
  let (l, s) := takeFired s p
  fireAll p (n + 1) s l

/-- A change taken by the counter arbiter, with what it fires. -/
def update (s : State) (p : Nat) (a v : Word) : State := settle (modPart s p (fun x => targetPut x a v)) p

/-- COUNTER_SUPERVISOR_WRITE (R285). -/
def execCounterSupervisorWrite (p : Nat) (sb : Bool) (ix : Nat) (v : Word) (s : State) : Res :=
  asked s <| .next (settle (modPart s p (fun x =>
    if sb then { x with boards := tput x.boards (ix % 256) v } else { x with counters := tput x.counters (ix % 1024) v })) p)

/-- COLLECTIVE_PAUSE (R294). -/
def execCollectivePause (p : Nat) (s : State) : Res := asked s <| .next (modPart s p (fun x => { x with paused := true }))

/-- The entries that fired during a pause act, once it is over. -/
def fireDeferred (s : State) (p : Nat) : State :=
  if collPaused s p then s
  else
    let l := (partOf s p).deferred
    fireAll p (l.length + (partOf s p).triggers.length + 1) (modPart s p (fun x => { x with deferred := [] })) l

/-- A partition resumed by the supervisor. -/
def resumeColl (s : State) (p : Nat) : State := fireDeferred (modPart s p (fun x => { x with paused := false })) p

/-- COLLECTIVE_RESUME (R294): during a suspend the partition stays paused until the device resumes (R362). -/
def execCollectiveResume (p : Nat) (s : State) : Res := asked s <| .next (if (partOf s p).paused then resumeColl s p else s)

/-! ### Completion of sends and exchanges (R284, R288-R292, R297) -/

def dropSend (s : State) (p ticket : Nat) : State := modPart s p (fun x => { x with sends := x.sends.filter (fun y => y.ticket != ticket) })

/-- The end of a send: LINC where it delivered, and its event. -/
def endSend (s : State) (p : Nat) (x : Send) (status value : Nat) : State :=
  let r := x.record
  let s := dropSend s p x.ticket
  let s := if status = 0 ∧ sdLcv r then update s p (BitVec.ofNat 64 (fld r 265 256)) (r.extractLsb' 320 64) else s
  if bit r 432 then collEvent s x.hand x.leaf status 3 (fld r 431 416) value else s

/-- The earlier commands of a sequencer of a leaf that its pre-emption has saved (R337). -/
def savedTickets (s : State) (g : Nat) (q : SeqId) (leaf : Option Bound) : List Nat :=
  match savedOf s g leaf with
  | none => []
  | some x => ((x.copies.filter (fun c => c.1.sq == q)).map (fun c => c.1.ticket)) ++ ((x.cmds.filter (fun c => c.2.sq == q)).map (fun c => c.2.ticket))

/-- Everything earlier of a leaf's sequencer is performed at system scope, what its pre-emption has saved among it. -/
def earlierDone (s : State) (g : Nat) (q : SeqId) (leaf : Option Bound) (t : Nat) : Bool :=
  !((sqOf s g q).ob.any (fun x => decide (x.ticket < t) && !isFence x.op)) &&
  !((bufTickets s g q ++ cmdTickets s g q ++ savedTickets s g q leaf).any (fun u => decide (u < t))) && !anyDirty s (dieNo g)

/-- A link processor's firmware has run (R283): its registers hold what it left in them. x0 stays 0. -/
def linkRan (n : Nat) (l : LinkProc) : LinkProc :=
  { l with
    x := (List.range 31).map (fun r => (r + 1, Config.linkWord n 0 (r + 1)))
    f := (List.range 32).map (fun r => (r, Config.linkWord n 1 r))
    v := (List.range 32).map (fun r => (r, Config.linkVec n r))
    csr := [1, 2, 3, 8, 9, 10, 15, 0xC20, 0xC21].map (fun r => (r, Config.linkWord n 2 r))
    pc := Config.linkWord n 3 0 }

/-- A message of a partition goes to a rank by a link processor of a port that carries it, which its firmware chooses (R283), and which
moves its position with the peer (R294). -/
def linkSent (s : State) (p rank : Nat) : State :=
  let (n, s) := takeFresh s
  let ports := (List.range 32).filter (linkUp s)
  let lp := portLink (ports.getD ((Config.freeWord n).toNat % ports.length) 0)
  let l := linkRan n (tget LinkProc.reset s.links lp)
  let k := 65536 * p + rank
  { s with links := tput s.links lp { l with seq := tput l.seq k (tget 0 l.seq k + 1) } }

/-! ### Accesses of the collective engine and of link processors (R293, R158) -/

/-- What comes of a read: it waits at a channel, it fails, or the bytes have come from a physical address. -/
inductive Fetched where
  | wait
  | fault (f : XlFault)
  | got (pa : Nat) (bytes : List Byte)
  deriving DecidableEq, Repr

/-- A read of n bytes within a page, translated by the unit: table reads and data at the channel arbiters, the address translated
before its alignment is looked at (R128). -/
def unitFetch (s : State) (part va n align : Nat) : Fetched × State :=
  let ts := unitTables s part va
  if ¬unitsOpen s ts then (.wait, unitsKnock s ts)
  else match unitPages s part false true false [.normal] [{ va := va, len := if va % align = 0 then n else 1 }] with
  | .error (_, f) => (.fault f, walkTouched s part va)
  | .ok [] => (.fault { cause := 5, reason := 2, level := 0 }, s)
  | .ok (p :: _) =>
    let pa := physOf p va
    if va % align ≠ 0 then (.fault { cause := 6, reason := 5, level := levelOf p.size }, walkTouched s part va)
    else if ¬unitsOpen s (ts ++ [pa]) then (.wait, unitsKnock s (ts ++ [pa]))
    else (.got pa (memRead s.mem pa n), chanRead (walkTouched s part va) pa)

/-- The same through a page that the command has captured. -/
def pageFetch (s : State) (p : Page) (va n : Nat) : Fetched × State :=
  let pa := physOf p va
  if chanOpen s .unit pa then (.got pa (memRead s.mem pa n), chanRead s pa) else (.wait, knock s pa)

/-- A write within a page: whether it waits, the failure of its translation, or the physical address written. -/
def unitStore (s : State) (part va : Nat) (bs : List Byte) : Fetched × State :=
  let ts := unitTables s part va
  if ¬unitsOpen s ts then (.wait, unitsKnock s ts)
  else match unitPages s part false false true [.normal] [{ va := va, len := bs.length }] with
  | .error (_, f) => (.fault f, walkTouched s part va)
  | .ok [] => (.fault { cause := 5, reason := 2, level := 0 }, s)
  | .ok (p :: _) =>
    let pa := physOf p va
    if ¬unitsOpen s (ts ++ [pa]) then (.wait, unitsKnock s (ts ++ [pa]))
    else (.got pa [], chanWrote { walkTouched s part va with mem := memWrite s.mem pa bs } pa)

/-- A range in pieces of one granule of 32 bytes (R169). -/
def granuleList (va len : Nat) : List (Nat × Nat) :=
  if len = 0 then [] else
  (List.range ((va % 32 + len + 31) / 32)).map (fun i =>
    let lo := max va (32 * (va / 32 + i))
    (lo, min (va + len) (32 * (va / 32 + i + 1)) - lo))

/-- The granule of some ranges to be read next once k bytes are. -/
def nextGranule : List (Nat × Nat) → Nat → Option (Nat × Nat)
  | [], _ => none
  | (va, len) :: r, k => if len ≤ k then nextGranule r (k - len) else (granuleList (va + k) (len - k)).head?

/-- The bytes of a send that its event says were delivered where it fails: a free value. -/
def failSend (s : State) (p : Nat) (x : Send) (status : Nat) : State :=
  let (f, s) := takeFresh s
  endSend s p x status (fld (Config.freeWord f) 31 0)

def modSend (s : State) (p ticket : Nat) (f : Send → Send) : State :=
  modPart s p (fun x => { x with sends := x.sends.map (fun y => if y.ticket = ticket then f y else y) })

/-- The next access of a send (R288, R294): a granule of its source, or, with all of it read, its message to the peer. One that has
read nothing starts neither during a pause nor, with REL, before what is earlier. An error of the access ends it with STATUS 3 and
a machine check (R334). -/
def sendStep (s : State) (p : Nat) (x : Send) (bad : Bool) : State :=
  let r := x.record
  let held : Bool := x.data == [] && (collPaused s p || x.after.any (fun t => !earlierDone s x.hand x.sq x.leaf t))
  if x.sent ∨ held ∨ ¬anyLink s then s
  else match nextGranule [(fld r 63 0, sdBytes r)] x.data.length with
  | none => emit (linkSent (modSend s p x.ticket (fun y => { y with sent := true })) p (sdPeer r))
      (.send p (sdPeer r) (peerOf s p (sdPeer r)) (fld r 127 64) x.data r)
  | some (va, n) =>
    match unitFetch s p va n 1 with
    | (.wait, s) => s
    | (.fault _, s) => failSend s p x 9
    | (.got pa bs, s) =>
      if bad then failSend (reportMc s x.hand x.leaf (pa / 4096) 5) p x 3
      else modSend s p x.ticket (fun y => { y with data := y.data ++ bs })

/-- SEND_COMPLETE (R288): the send with this ticket goes on by an access; once its message is sent, it completes with STATUS 0, 3 or 9
of its peer. -/
def execSendComplete (ix : Nat) (how : Progress) (s : State) : Res :=
  match s.parts.findSome? (fun e => (e.2.sends.find? (fun x => x.ticket == ix)).map (fun x => (e.1, x))) with
  | none => .next s
  | some (p, x) =>
    match how with
    | .access bad => .next (sendStep s p x bad)
    | .peer status =>
      if ¬x.sent ∨ (status ≠ 0 ∧ status ≠ 3 ∧ status ≠ 9) then .next s
      else if status = 0 then .next (endSend s p x 0 (sdBytes x.record))
      else .next (failSend s p x status)

/-- Two elements combined (R289). -/
def reduceElem (rop : Nat) (f : Fmt) (a b : Nat) : Nat :=
  match f with
  | .int _ _ _ =>
    (match rop with
     | 0 => (a + b) % 2 ^ 32
     | 1 => if signed 32 a < signed 32 b then b else a
     | _ => if signed 32 b < signed 32 a then b else a)
  | f =>
    match rop with
    | 0 => (convert (sumVal (f.value a) (f.value b)) f .rne false).1
    | 1 => maxPat f a b
    | _ => if f.value a = .nan ∨ f.value b = .nan then f.nan.getD 0 else if fcmp true (f.value b) (f.value a) = .lt then b else a

/-- Bytes placed on the same bytes of a shard: an element for which every byte has come is combined with, where they combine; the
first that comes stands (R289). -/
def placed (comb : Bool) (rop : Nat) (f : Fmt) (w : Nat) (old : List (Option Byte)) (new : List Byte) : List (Option Byte) :=
  if ¬comb then new.map some
  else (List.range ((new.length + w - 1) / w)).flatMap (fun i =>
    let a := (old.drop (w * i)).take w
    let b := (new.drop (w * i)).take w
    if b.length = w ∧ a.all (·.isSome) then
      (bytesOfNat w (reduceElem rop f (natOfBytes (a.map (·.getD 0))) (natOfBytes b))).map some
    else b.map some)

/-- The rows of a box of indices that stands in two shards: along each dimension the extents of the shards, the first index in each and
how many; of each row an element offset in either shard and a length. -/
def boxRows (dims : List (Nat × Nat × Nat × Nat × Nat)) : List (Nat × Nat × Nat) :=
  match dims with
  | [] => []
  | (se, de, so, do_, len) :: r =>
    let rows := prod (r.map (fun d => d.2.2.2.2))
    if len = 0 then [] else
    (List.range rows).map (fun k =>
      let go := r.foldl (fun (x : Nat × Nat × Nat × Nat × Nat) (d : Nat × Nat × Nat × Nat × Nat) =>
        let (rest, sOff, dOff, sMul, dMul) := x
        let c := rest % d.2.2.2.2
        (rest / d.2.2.2.2, sOff + (d.2.2.1 + c) * sMul, dOff + (d.2.2.2.1 + c) * dMul, sMul * d.1, dMul * d.2.1)) (k, so, do_, se, de)
      (go.2.1, go.2.2.1, len))

/-- The rows of the part that a device holds of both shards (R281): a source address, a place in the destination shard, a length. -/
def sharedRows (w : Word) (n : BitVec 512) (base : Nat) : List (Nat × Nat × Nat) :=
  let es := lpElem n
  (boxRows ((List.range (lpDims n)).map (fun i =>
    let (se, de) := (shardExtent w n (lpSrc n) i, shardExtent w n (lpDst n) i)
    let (sf, df) := (shardFirst w n (lpSrc n) i, shardFirst w n (lpDst n) i)
    let lo := max sf df
    (se, de, lo - sf, lo - df, min (sf + se) (df + de) - lo)))).map (fun x => (base + es * x.1, es * x.2.1, es * x.2.2))

/-- The rows of the source shard that a step along an axis sends to a rank (R281): a dimension that the step scatters is cut to that
rank's slice, the others go whole. In the example of R281 they are 256 KiB. -/
def portionRows (w : Word) (n : BitVec 512) (base a rank : Nat) : List (Nat × Nat) :=
  let es := lpElem n
  (boxRows ((List.range (lpDims n)).map (fun i =>
    let (se, sf) := (shardExtent w n (lpSrc n) i, shardFirst w n (lpSrc n) i)
    let de := shardExtent w n (lpDst n) i
    let df := meshCoord w rank a * de
    if layDim (lpDst n) i = a ∧ layDim (lpSrc n) i ≠ a then (se, 0, max sf df - sf, 0, min (sf + se) (df + de) - max sf df)
    else (se, 0, 0, 0, se)))).map (fun x => (base + es * x.1, es * x.2.2))

/-- A shard with bytes placed in it from a place on; what falls outside it is left out. -/
def placeIn (comb : Bool) (rop : Nat) (f : Fmt) (w : Nat) (l : List (Option Byte)) (lo : Nat) (bs : List Byte) : List (Option Byte) :=
  let bs := bs.take (l.length - lo)
  l.take lo ++ placed comb rop f w ((l.drop lo).take bs.length) bs ++ l.drop (lo + bs.length)

/-- The device's own rows placed, in their order, from the bytes read of them. -/
def placeOwn (l : List (Option Byte)) : List (Nat × Nat × Nat) → List Byte → List (Option Byte)
  | [], _ => l
  | (_, lo, len) :: r, bs => placeOwn (placeIn false 0 fp32 1 l lo (bs.take len)) r (bs.drop len)

/-- The destination shard of a run: the device's own part, then every message in the order of arrival (log entry 16). A byte that none
of them brings is absent. -/
def exShard (w : Word) (h : Handle) : List (Option Byte) :=
  let n := h.record
  let d0 := dstBase n h.base
  let own := placeOwn (List.replicate (shardBytes w n (lpDst n)) none) (sharedRows w n h.base) h.own
  h.inbox.foldl (fun l m => placeIn m.combine (lpRop n) ((fmtOf (lpFmt n)).getD fp32) (lpElem n) l (m.va - d0) (m.bytes.drop (d0 - m.va))) own

/-- Whether what this device waits for along an axis has come: under pattern 3 a message of every device of it, under a ring or a tree
of some (R281). -/
def axisIn (w : Word) (h : Handle) (a : Nat) : Bool :=
  let has := fun (r : Nat) => h.inbox.any (fun m => m.rank == r && m.last)
  if wirePattern w h.record = 3 then (axisRanks w a).all has else (axisRanks w a).any has

/-- Whether the steps before an axis's have had their messages, so that its own can start. -/
def stepReady (w : Word) (h : Handle) (a : Nat) : Bool := ((trafficAxes w h.record).takeWhile (· != a)).all (axisIn w h)

/-- The class of an element in a histogram (R290): bins 0-63, then ZERO, SUBNORMAL, INFINITY and NAN. -/
def histBin (f : Fmt) (x : Nat) : Nat :=
  match f with
  | .int _ _ _ => let v := (signed 32 x).natAbs; if v = 0 then 64 else Nat.log2 v
  | .flt _ ew mw _ bias =>
    let e := x / 2 ^ mw % 2 ^ ew
    let m := x % 2 ^ mw
    if e = 0 then (if m = 0 then 64 else 65)
    else if e = 2 ^ ew - 1 then (if m = 0 then 66 else 67)
    else (((e : Int) - bias + 126) / 4).toNat
  | _ => 64

/-- The 72 words of a histogram over the elements of a shard. -/
def histogram (hd : Nat) (fmt : BitVec 24) (f : Fmt) (elems : List Nat) : List (BitVec 32) :=
  let cap := fun (n : Nat) => BitVec.ofNat 32 (min n (2 ^ 32 - 1))
  let bins := elems.map (histBin f)
  [BitVec.ofNat 32 (at' fmt.toNat 8 + hd), cap elems.length, 0, 0] ++ (List.range 68).map (fun b => cap (bins.countP (fun x => x == b)))

/-- The elements of a shard's bytes. -/
def elemsOf (es : Nat) (bs : List Byte) : List Nat := (List.range (bs.length / es)).map (fun i => natOfBytes ((bs.drop (es * i)).take es))

/-- The end of an exchange: slots released, DONECNT, histogram and event where it is done; a node's work is done and its
handle free. -/
def endExchange (s : State) (p hd : Nat) (h : Handle) (status : Nat) : State :=
  let s := freeSlots s h.slots
  match h.node with
  | some n => workDone (modPart s p (fun x => { x with handles := tdel x.handles hd })) (some n) (if status = 0 then 0 else 7)
      (if status = 0 then 0 else 0x200 + status) 0
  | none =>
    let s := modHandle s p hd (fun x => { x with
      running := false, slots := [], inbox := [], sends := [], msg := [], own := [], out := none, newHist := none
      hist := if status = 0 ∧ h.newHist.isSome then h.newHist else h.hist })
    let s := match h.doneCnt with
      | some c => if status = 0 then update s p (BitVec.ofNat 64 c) 1 else s
      | none => s
    if h.evt then collEvent s h.hand h.leaf status 1 h.cookie.toNat hd else s

/-- An access of a run that has failed here: its translation, which the controller logs, or an uncorrectable memory error, with a machine
check (R51, R292, R334). -/
def exFault (s : State) (p hd : Nat) (h : Handle) : State := emit (endExchange s p hd h 9) (.log 9 (meshRank (partOf s p).mesh))
def exError (s : State) (p hd : Nat) (h : Handle) (pa : Nat) : State :=
  let s := match h.node with
    | some _ => emit s (.log 13 (mcInfo (pa / 4096) 5).toNat)
    | none => reportMc s h.hand h.leaf (pa / 4096) 5
  endExchange s p hd h 3

/-- A granule of the source read for a run. -/
def exRead (s : State) (p hd : Nat) (h : Handle) (bad : Bool) (x : Nat × Nat) (f : List Byte → Handle → Handle) : State :=
  match unitFetch s p x.1 x.2 1 with
  | (.wait, s) => s
  | (.fault _, s) => exFault s p hd h
  | (.got pa bs, s) => if bad then exError s p hd h pa else modHandle s p hd (f bs)

/-- The next message of a run, to a rank of an axis (R281, R283): along the first axis with traffic it carries its part of the source
shard, read granule by granule; along a later one what the schedule firmware has formed of the messages before it (log entry 16). -/
def exSend (s : State) (p hd : Nat) (h : Handle) (bad : Bool) (a r : Nat) : State :=
  let w := (partOf s p).mesh
  let wire := wirePattern w h.record
  let first := (trafficAxes w h.record).head? == some a
  let sent := fun (b : Option (List Byte)) => emit (linkSent (modHandle s p hd (fun x => { x with sends := x.sends.drop 1, msg := [] })) p r) (.exchange p hd a wire r (peerOf s p r) b)
  if ¬anyLink s ∨ ¬stepReady w h a then s
  else if ¬first then sent none
  else match nextGranule (portionRows w h.record h.base a r) h.msg.length with
  | none => sent (some h.msg)
  | some x => exRead s p hd h bad x (fun bs y => { y with msg := y.msg ++ bs })

/-- The shard of a run formed, once the device's own part is read and every message that it waits for has come: the writes that place
it, and for a reducing exchange its histogram (R290). -/
def exForm (s : State) (p hd : Nat) (h : Handle) : State :=
  let w := (partOf s p).mesh
  let n := h.record
  let sh := exShard w h
  if ¬(trafficAxes w n).all (axisIn w h) ∨ ¬sh.all (·.isSome) then s
  else
    let bs := sh.map (·.getD 0)
    let d0 := dstBase n h.base
    let hist := if (stepsOf n).any reduces then
        some (histogram hd (lpFmt n) ((fmtOf (lpFmt n)).getD fp32) (elemsOf (lpElem n) bs)) else none
    modHandle s p hd (fun x => { x with newHist := hist, out := some ((granuleList d0 bs.length).map (fun g => (g.1, (bs.drop (g.1 - d0)).take g.2))) })

/-- The next access or message of a run: its messages, the device's own part, the writes of the formed shard, and its end, after all of
them. A pause holds what starts a message or a shard, not what is begun (R294). -/
def exStep (s : State) (p hd : Nat) (h : Handle) (bad : Bool) : State :=
  if ¬(s.pkg.phase == 0 || s.pkg.phase == 1 || s.pkg.phase == 5) ∨ (collPaused s p ∧ h.msg = [] ∧ h.out = none) then s
  else match h.sends with
  | (a, r) :: _ => exSend s p hd h bad a r
  | [] =>
    match h.out with
    | some [] => endExchange s p hd h 0
    | some ((va, bs) :: rest) =>
      (match unitStore s p va bs with
       | (.wait, s) => s
       | (.fault _, s) => exFault s p hd h
       | (.got pa _, t) => if bad then exError s p hd h pa else modHandle t p hd (fun x => { x with out := some rest }))
    | none =>
      match nextGranule ((sharedRows (partOf s p).mesh h.record h.base).map (fun x => (x.1, x.2.2))) h.own.length with
      | some x => exRead s p hd h bad x (fun bs y => { y with own := y.own ++ bs })
      | none => exForm s p hd h

/-- EXCHANGE_COMPLETE (R297, R292): a run goes on by an access or a message, and completes when its shard is written; a peer that fails to
take a message ends it with STATUS 3 or 9. -/
def execExchangeComplete (p hd : Nat) (how : Progress) (s : State) : Res :=
  match handleOf s p hd with
  | none => .next s
  | some h =>
    if ¬h.running then .next s
    else match how with
    | .access bad => .next (exStep s p hd h bad)
    | .peer status => if status = 3 ∨ status = 9 then .next (endExchange s p hd h status) else .next s

/-- Whether an exchange sends to or receives from a rank: one that differs on a single axis along which a step has
traffic (R281). -/
def exchangesWith (w : Word) (n : BitVec 512) (rank : Nat) : Bool :=
  [0, 1, 2, 3].any (fun a => sendsAlong (stepOf n a) && (axisRanks w a).contains rank)

/-- PEER_UNREACHABLE (R292): what is under way with a peer ends with STATUS 2. -/
def execPeerUnreachable (p rank : Nat) (s : State) : Res :=
  let x := partOf s p
  let s := (x.sends.filter (fun y => sdPeer y.record == rank)).foldl (fun s y => failSend s p y 2) s
  .next ((x.handles.filter (fun h => h.2.running && exchangesWith x.mesh h.2.record rank)).foldl (fun s h =>
    match handleOf s p h.1 with
    | some y => if y.running then endExchange s p h.1 y 2 else s
    | none => s) s)

/-- The bytes of a message written as far as they can be: those before a page that fails, or before an uncorrectable error, and
whether all are; none while a channel does not take them. -/
def messageStore (s : State) (m : Message) : Option Bool × State :=
  let bs := (m.bad.map (fun n => m.bytes.take n)).getD m.bytes
  match hostStore s m.part m.va bs with
  | .ok (true, s) => (some m.bad.isNone, s)
  | .ok (false, s) => (none, s)
  | .error (va, _) =>
    match hostStore s m.part m.va (bs.take (va - m.va)) with
    | .ok (true, s) => (some false, s)
    | .ok (false, s) => (none, s)
    | .error _ => (some false, s)

/-- A link processor keeps a message of an exchange in its SRAM, where its firmware puts it, and moves its position with the
message's sender (R283, R294). -/
def linkTook (s : State) (lp p rank : Nat) (bytes : List Byte) : State :=
  let (n, s) := takeFresh s
  let l := linkRan n (tget LinkProc.reset s.links lp)
  let at_ := (Config.freeWord n).toNat
  let k := 65536 * p + rank
  let sram := (List.zip (List.range bytes.length) bytes).foldl (fun m (i, b) => memWrite m ((at_ + i) % 2 ^ 20) [b]) l.sram
  { s with links := tput s.links lp { l with sram := sram, seq := tput l.seq k (tget 0 l.seq k + 1) } }

/-- A part of a message taken on its context: the message is begun, and over with its last part. -/
def partTaken (s : State) (m : Message) (failed : Bool) : State :=
  modDelivery s m.ctx (fun d => { d with begun := (if m.last then [] else [(m.id, failed)]) ++ d.begun.filter (fun b => b.1 != m.id) })

/-- COLLECTIVE_MESSAGE (R278, R284): on a RUD context of the partition it addresses, its bytes are performed, with the last of them its
update is applied; a message of an exchange, from a device that a step of it exchanges with, is kept for it. One of which a part has
failed applies no update and writes no further part, and is logged; what it has written stays. During a pause a message that is begun
is finished and none is begun (R294). The model counts none of its writes in the context's WDONE, of which the spec says nothing
(DESIGN CHOICE, log entry 40). -/
def execCollectiveMessage (m : Message) (s : State) : Res :=
  let x := partOf s m.part
  match ctxGet s m.ctx with
  | none => .next s
  | some d =>
    let begun := (d.begun.find? (fun b => b.1 == m.id)).map (·.2)
    if ¬x.exists_ ∨ d.part ≠ m.part ∨ d.rod ∨ ¬linkUp s d.port ∨ (begun.isNone ∧ collPaused s m.part) then .next s
    else if begun = some true then .next (partTaken s m true)
    else match m.handle with
    | some h =>
      match handleOf s m.part h with
      | none => .next s
      | some y =>
        if ¬exchangesWith x.mesh y.record m.rank then .next s
        else if m.bad.isSome then .next (emit (partTaken s m true) (.log 9 m.rank))
        else .next (modHandle (linkTook (partTaken s m false) (portLink d.port) m.part m.rank m.bytes) m.part h (fun y =>
          { y with inbox := y.inbox ++ [{ rank := m.rank, va := m.va, bytes := m.bytes, combine := m.combine, last := m.last }] }))
    | none =>
      match messageStore s m with
      | (none, s) => .next s
      | (some false, s) => .next (emit (partTaken s m true) (.log 9 m.rank))
      | (some true, s) =>
        let s := partTaken s m false
        if ¬(m.upd && m.last) then .next s
        else .next (update s m.part (if m.sb then BitVec.ofNat 64 (32768 + m.ix % 256) else BitVec.ofNat 64 (m.ix % 1024)) m.inc)

/-- FIRMWARE_IMAGE_LOAD (R283, R363, R364): for a link processor that is ready, an image is measured, and loaded where a key of the
accepted configuration record has signed it. -/
def execFirmwareImageLoad (lp : Nat) (image : List Byte) (sig : BitVec 512) (s : State) : Res :=
  let d := Config.sm3 image
  asked s <| if 16 ≤ lp ∨ ¬s.pkg.firmware ∨ ¬bit s.pkg.ready (35 + lp) then .next (emit s (.refused 8))
  else
    let s := measure s (2 + lp) d
    if ¬keyed s d sig then .next (emit s (.refused 8))
    else .next { s with links := tmod LinkProc.reset s.links lp (fun l => { l with fw := some d }) }

/-! ### Issue (R295) -/

/-- A collective command enters its queue. -/
def collEnter (s t : State) (k : Tok) (c : EngCmd) : Res :=
  let g := s.focus
  let q := s.focusSq
  if ¬room16 (easelOf s (easelNo g)).collQ then .next (stalled s g q 12)
  else
    let t := awaitDst t g q c.ticket c.dst Tag.empty
    let t := modEasel t (easelNo g) (fun e => { e with collQ := e.collQ ++ [c] })
    .next (finish (dropWalks t g q) g q k (fun y => advance y 1))

/-- A command of registers alone. -/
def collIssue (k : Tok) (fn : Nat) (d a b : BitVec 5) (s : State) : Res :=
  issue s k (reqCP everywhere [d, a, b]) fun t _ id =>
    let x := sqOf s s.focus s.focusSq
    collEnter s t k (mkCmd t s.focus s.focusSq id (tagJoin (tagGet x a) (tagGet x b)) (some fn) [regGet x a, regGet x b] (dstRef (.reg d)))

/-- A command whose A5 is the address of a 64-byte record, translated at issue, before its alignment is looked at (R128). -/
def recordIssue (k : Tok) (fn : Nat) (d a b : BitVec 5) (s : State) : Res :=
  issue s k (reqCP everywhere [d, a, b]) fun t _ id =>
    let g := s.focus
    let q := s.focusSq
    let x := sqOf s g q
    let va := (regGet x a).toNat
    let c := mkCmd t g q id (tagJoin (tagGet x a) (tagGet x b)) (some fn) [regGet x a, regGet x b] (dstRef (.reg d))
    withPages s g q true false [.normal] [{ va := va, len := if va % 64 = 0 then 64 else 1 }] fun ps =>
      if va % 64 ≠ 0 then
        .next (xlTrap s g q va false { cause := 6, reason := 5, level := levelOf ((ps.head?.map (·.size)).getD 12) })
      else collEnter s t k { c with pages := ps }

/-- CXLAY (R296). -/
def execCxlay (k : Tok) (d a b : BitVec 5) (s : State) : Res := recordIssue k 0x20 d a b s
/-- CXGO (R297). -/
def execCxgo (k : Tok) (d a b : BitVec 5) (s : State) : Res := collIssue k 0x21 d a b s
/-- CARM (R298). -/
def execCarm (k : Tok) (d a b : BitVec 5) (s : State) : Res := recordIssue k 0x22 d a b s
/-- CDIS (R299). -/
def execCdis (k : Tok) (d a : BitVec 5) (s : State) : Res := collIssue k 0x23 d a 0 s
/-- CCNT (R300). -/
def execCcnt (k : Tok) (d a : BitVec 5) (s : State) : Res := collIssue k 0x24 d a 0 s
/-- CADD (R300). -/
def execCadd (k : Tok) (d a b : BitVec 5) (s : State) : Res := collIssue k 0x25 d a b s
/-- CSEND (R301). -/
def execCsend (k : Tok) (d a : BitVec 5) (s : State) : Res := recordIssue k 0x26 d a 0 s
/-- CHIST (R302). -/
def execChist (k : Tok) (d a b : BitVec 5) (s : State) : Res := collIssue k 0x27 d a b s
/-- CSLOT (R303). -/
def execCslot (k : Tok) (d : BitVec 5) (s : State) : Res := collIssue k 0x28 d 0 0 s

/-! ### The engine (R296-R304) -/

def collLeave (s : State) (e : Nat) (c : EngCmd) : State :=
  modEasel s e (fun x => { x with collQ := x.collQ.filter (fun y => y.ticket != c.ticket) })

/-- The two ch8 entries of a PUSHC command. -/
def collPush (s : State) (c : EngCmd) (status reason : Nat) (reply : Word) : State :=
  let w := BitVec.ofNat 64 (at' status 56 + at' 4 48 + at' (fld (c.words.getD 0 0) 31 16) 32 + reason)
  pushEng (pushEng s c.hand c.leaf 8 w) c.hand c.leaf 8 reply

/-- A command answered. -/
def collAnswer (s : State) (e : Nat) (c : EngCmd) (status value : Nat) : State :=
  let v := BitVec.ofNat 64 (at' status 56 + value % 2 ^ 56)
  let s := collLeave s e c
  if c.fn.isSome then replyReg s c.hand c.leaf c.sq c.ticket c.dst v else collPush s c 0 0 v

/-- A command answered with a status for which no rule gives a VALUE: that is a free value (log entry 36). -/
def collStatus (s : State) (e : Nat) (c : EngCmd) (status : Nat) : State :=
  let (n, s) := takeFresh s
  collAnswer s e c status (Config.freeWord n).toNat

/-- The function and operands of a command. -/
def collFn (c : EngCmd) : Nat := match c.fn with
  | some f => f
  | none => fld (c.words.getD 0 0) 7 0

/-- Whether a PUSHC command is malformed (R304). -/
def collMalformed (w : Nat → Word) : Bool :=
  let op := fld (w 0) 7 0
  decide (op < 0x20) || decide (0x28 < op) || fld (w 0) 15 8 != 0 || fld (w 0) 63 32 != 0 ||
  ((op == 0x23 || op == 0x24 || op == 0x26 || op == 0x28) && w 2 != 0) || (op == 0x28 && w 1 != 0) ||
  w 3 != 0 || w 4 != 0 || w 5 != 0 || w 6 != 0 || w 7 != 0

/-- A command with what it has fetched. -/
def setColl (s : State) (e : Nat) (c : EngCmd) : State := modEasel s e (fun x => { x with collQ := x.collQ.map (fun y => if y.ticket = c.ticket then c else y) })

/-- The 64-byte record of a command read through its captured page, or translated by the engine. -/
def collRecord (s : State) (c : EngCmd) (va : Nat) : Fetched × State :=
  match c.pages with
  | p :: _ => pageFetch s p va 64
  | [] => unitFetch s c.part va 64 64

/-- The record that a command holds. -/
def heldRecord (c : EngCmd) : BitVec 512 := BitVec.ofNat 512 (natOfBytes c.extra)

/-- A command whose record cannot be translated: only a PUSHC command comes here. -/
def collFail (s : State) (e : Nat) (c : EngCmd) (f : XlFault) : State := collPush (collLeave s e c) c (frStatus f) f.reason 0

/-- A handle prepared from a record. -/
def newHandle (n : BitVec 512) (base : Nat) (node : Option (Nat × Nat)) : Handle :=
  { record := n, base := base, running := false, hand := 0, leaf := none, cookie := 0, evt := false, doneCnt := none, slots := [],
    hist := none, inbox := [], sends := [], msg := [], own := [], out := none, newHist := none, node := node }

/-- The lowest free handle. -/
def freeHandle (s : State) (p : Nat) : Option Nat := (List.range 64).find? (fun h => (handleOf s p h).isNone)

/-- The table entries that the check of a pair's ranges reads (R282 detail 7). -/
def pairTables (s : State) (part : Nat) (n : BitVec 512) (base : Nat) : List Nat :=
  let w := (partOf s part).mesh
  let (sb, db, d0) := (shardBytes w n (lpSrc n), shardBytes w n (lpDst n), dstBase n base)
  match pairFault s part n base with
  | some 7 => bindTables s part (base + sb) (sb / 4096 + 2) base ++ bindTables s part (d0 + db) (db / 4096 + 2) d0
  | none => bindTables s part (base + sb) (sb / 4096 + 2) base ++ bindTables s part (d0 + db) (db / 4096 + 2) d0
  | some _ => []

/-- CXLAY at the planner (R296): its record is read, and then checked. -/
def cxlayEngine (s : State) (e : Nat) (c : EngCmd) (n : BitVec 512) (base : Nat) : State :=
  let ts := pairTables s c.part n base
  let t := ts.foldl chanRead s
  if ¬unitsOpen s ts then unitsKnock s ts
  else match pairFault s c.part n base with
  | some d => collAnswer t e c 8 d
  | none =>
    match freeHandle s c.part with
    | none => collAnswer t e c 4 0
    | some h => collAnswer (modPart t c.part (fun x => { x with handles := tput x.handles h (newHandle n base none) })) e c 0 h

/-- CXGO at the engine (R297). -/
def cxgoEngine (s : State) (e : Nat) (c : EngCmd) (a b : Word) : State :=
  let algo := fld a 9 8
  if fld a 7 6 ≠ 0 ∨ fld a 63 10 ≠ 0 ∨ algo = 3 ∨ fld b 63 29 ≠ 0 then collStatus s e c 8
  else if bit b 17 ∧ ¬earlierDone s c.hand c.sq c.leaf c.ticket then s
  else
    let (st, s) := startExchange s c.part (fld a 5 0) algo (fun x => { x with
      hand := c.hand, leaf := c.leaf, cookie := b.extractLsb' 0 16, evt := bit b 16, doneCnt := if bit b 28 then some (fld b 27 18) else none })
    collStatus s e c st

/-- The 64 bytes of a send record, whatever their alignment, in one step. -/
def sendRecord (s : State) (part va : Nat) : Fetched × State :=
  let ts := rangeTables s part va 64
  let touched := ts.foldl chanRead s
  if ¬unitsOpen s ts then (.wait, unitsKnock s ts)
  else match unitPages s part false true false [.normal] (splitRange va 64) with
  | .error (_, f) => (.fault f, touched)
  | .ok ps =>
    let l := (List.zip (splitRange va 64) ps).map (fun (t, p) => (physOf p t.va, t.len))
    if ¬unitsOpen s (ts ++ l.map (·.1)) then (.wait, unitsKnock s (ts ++ l.map (·.1)))
    else (.got ((l.map (·.1)).headD 0) (l.flatMap (fun x => memRead s.mem x.1 x.2)), l.foldl (fun s x => chanRead s x.1) touched)

/-- The two checks of a CARM that come before its records (R298). -/
def carmFirst (s : State) (c : EngCmd) (b : Word) : Option Nat :=
  if fld b 63 9 ≠ 0 then some 8
  else if (partOf s c.part).triggers.any (fun t => t.1 == fld b 8 0) then some 2
  else none

/-- A CARM whose records are both read: malformed, or armed and evaluated (R298, R287). -/
def carmArm (s : State) (e : Nat) (c : EngCmd) (r sr : BitVec 512) (b : Word) : State :=
  let x := partOf s c.part
  if triggerBad r ∨ (trAct r = 0 ∧ sendBad x.mesh sr) then collStatus s e c 8
  else
    let t : Trigger := { record := r, send := sr, hand := c.hand, sq := c.sq, leaf := c.leaf, ticket := c.ticket }
    let s := modPart s c.part (fun x => { x with triggers := tput x.triggers (fld b 8 0) t })
    settle (collAnswer s e c (if condHolds x r then 1 else 0) (watched x r).toNat) c.part

/-- CARM at the engine (R298), its trigger record read. bad is the page of an uncorrectable memory error in either record. -/
def carmEngine (s : State) (e : Nat) (c : EngCmd) (r : BitVec 512) (b : Word) (bad : Option Nat) : State :=
  match carmFirst s c b with
  | some st => collStatus s e c st
  | none =>
    if trAct r ≠ 0 then carmArm s e c r 0 b
    else match sendRecord s c.part (trArg r).toNat with
    | (.wait, s) => s
    | (.fault f, s) => collAnswer s e c 9 (f.reason + (if f.cause = 6 then 128 else 0))
    | (.got _ bs, s) =>
      if bad.isSome then reportMc (collStatus s e c 3) c.hand c.leaf (bad.getD 0) 5
      else carmArm s e c r (BitVec.ofNat 512 (natOfBytes bs)) b

/-- CDIS at the engine (R299). -/
def cdisEngine (s : State) (e : Nat) (c : EngCmd) (a : Word) : State :=
  if bit a 15 then
    if fld a 14 6 ≠ 0 ∨ fld a 63 16 ≠ 0 then collStatus s e c 8
    else
      let h := fld a 5 0
      if (handleOf s c.part h).any (·.running) then collStatus s e c 4
      else collStatus (modPart s c.part (fun x => { x with handles := tdel x.handles h })) e c 0
  else if fld a 14 9 ≠ 0 ∨ fld a 63 16 ≠ 0 then collStatus s e c 8
  else
    let k := fld a 8 0
    if (partOf s c.part).triggers.any (fun t => t.1 == k) then
      collStatus (modPart s c.part (fun x => { x with triggers := tdel x.triggers k })) e c 0
    else collStatus s e c 1

/-- CCNT and CADD at the counter arbiter (R300). -/
def ccntEngine (s : State) (e : Nat) (c : EngCmd) (a : Word) : State :=
  if targetBad a false then collStatus s e c 8
  else discardClean (collAnswer s e c 0 (targetGet (partOf s c.part) a).toNat) (e / 32)

def caddEngine (s : State) (e : Nat) (c : EngCmd) (a b : Word) : State :=
  if targetBad a true then collStatus s e c 8
  else if ¬earlierDone s c.hand c.sq c.leaf c.ticket then s
  else update (collAnswer s e c 0 (targetGet (partOf s c.part) a).toNat) c.part a b

/-- CSEND at the engine (R301). -/
def csendEngine (s : State) (e : Nat) (c : EngCmd) (r : BitVec 512) : State :=
  if sendBad (partOf s c.part).mesh r then collStatus s e c 8
  else addSend (collStatus s e c 0) c.part r c.hand c.sq c.leaf c.ticket

/-- The next granule of a CHIST's range written, and its answer with the last. -/
def chistWrite (s : State) (e : Nat) (c : EngCmd) (va : Nat) : State :=
  match unitStore s c.part (va + 32 * c.phase) ((c.extra.drop (32 * c.phase)).take 32) with
  | (.wait, s) => s
  | (.fault _, s) => collStatus s e c 9
  | (.got _ _, s) => if c.phase = 8 then collStatus s e c 0 else setColl s e { c with phase := c.phase + 1 }

/-- CHIST at the engine (R302): the histogram as it stands when the command begins is written, a granule at a time. -/
def chistEngine (s : State) (e : Nat) (c : EngCmd) (a b : Word) : State :=
  match (handleOf s c.part (fld a 5 0)).bind (·.hist) with
  | none => if c.phase = 0 then collStatus s e c 4 else chistWrite s e c b.toNat
  | some ws =>
    if c.phase ≠ 0 then chistWrite s e c b.toNat
    else if b.toNat % 64 ≠ 0 then collStatus s e c 9
    else chistWrite s e { c with extra := ws.flatMap (fun w => bytesOfNat 4 w.toNat) } b.toNat

/-- The free slots of an I/O die: none of one that is out of service (R363). -/
def slotsFree (s : State) (d : Nat) : Nat := if bit s.pkg.ready (5 + d) then 64 - slotsBusy s d else 0

/-- CSLOT at the slot arbiters (R303). -/
def cslotEngine (s : State) (e : Nat) (c : EngCmd) : State :=
  collAnswer s e c 0 (at' ((partOf s c.part).quota - quotaBusy s c.part) 16 + at' (slotsFree s 1) 8 + slotsFree s 0)

/-- Functions that reach the counter arbiter, in the order of their sequencer (R285). -/
def arbitered (fn : Nat) : Bool := fn == 0x22 || fn == 0x23 || fn == 0x24 || fn == 0x25

/-- The functions whose operand a is the address of a record, which they read first. -/
def recorded (fn : Nat) : Bool := fn == 0x20 || fn == 0x22 || fn == 0x26

/-- The record of a command read, once (R296, R298, R301); a CARM that its first two checks refuse reads none, and one whose record
meets an uncorrectable memory error ends with STATUS 3. -/
def collFetch (s : State) (e : Nat) (c : EngCmd) (bad : Option Nat) : State :=
  match (if collFn c = 0x22 then carmFirst s c (frB c) else none) with
  | some st => collStatus s e c st
  | none =>
    match collRecord s c (frA c).toNat with
    | (.wait, s) => s
    | (.fault f, s) => collFail s e c f
    | (.got _ bs, s) =>
      if collFn c = 0x22 ∧ bad.isSome then reportMc (collStatus s e c 3) c.hand c.leaf (bad.getD 0) 5
      else setColl s e { c with extra := bs, phase := 1 }

/-- COLLECTIVE_COMMAND (R295, R304): the next access of the command at a position of the easel's queue, once nothing holds it back.
The planner acts on an I/O die that is ready (R363). bad names the page of an uncorrectable memory error that a CARM meets in its
records. -/
def execCollectiveCommand (e ix : Nat) (bad : Option Nat) (s : State) : Res :=
  let l := (easelOf s e).collQ
  match l[ix]? with
  | none => .next s
  | some c =>
    let fn := collFn c
    let behind := arbitered fn && (l.take ix).any (fun x => x.hand == c.hand && x.sq == c.sq && arbitered (collFn x))
    if (c.phase = 0 ∧ (¬cmdReady s c.hand c.sq c.ticket c.tag ∨ stopsCmd s c.hand c.sq c.leaf c.ticket)) ∨ behind then .next s
    else if c.fn.isNone ∧ collMalformed (fun i => c.words.getD i 0) then .next (collPush (collLeave s e c) c 8 0 0)
    else if recorded fn ∧ c.phase = 0 then .next (collFetch s e c bad)
    else
      let (a, b) := (frA c, frB c)
      match fn with
      | 0x20 => .next (if plannerUp s then cxlayEngine s e c (heldRecord c) b.toNat else s)
      | 0x21 => .next (cxgoEngine s e c a b)
      | 0x22 => .next (carmEngine s e c (heldRecord c) b bad)
      | 0x23 => .next (cdisEngine s e c a)
      | 0x24 => .next (ccntEngine s e c a)
      | 0x25 => .next (caddEngine s e c a b)
      | 0x26 => .next (csendEngine s e c (heldRecord c))
      | 0x27 => .next (chistEngine s e c a b)
      | _ => .next (cslotEngine s e c)

/-- The exchange of a collective node (R296, R51): its record is read and checked, a handle is taken and the exchange
starts; without a free handle, or while a channel or the planner does not take it, the node waits. A record that cannot be read ends
the node as a copy node's would. -/
def nodeExchange (s : State) (p ln tk : Nat) (n : BitVec 512) : State :=
  let va := fld n 127 64
  let base := fld n 191 128
  let started := fun (s : State) => modTask s ln tk (fun t => { t with placed := 1 })
  if ¬plannerUp s then s
  else match unitFetch s p va 64 64 with
  | (.wait, s) => s
  | (.fault f, s) => workDone (started s) (some (ln, tk)) 7 f.cause (xlInfo va false f)
  | (.got _ bs, s) =>
    let r := BitVec.ofNat 512 (natOfBytes bs)
    let ts := pairTables s p r base
    if ¬unitsOpen s ts then unitsKnock s ts
    else
      let s := ts.foldl chanRead s
      match pairFault s p r base with
      | some d => workDone (started s) (some (ln, tk)) 7 (0x100 + d) 0
      | none =>
        match freeHandle s p with
        | none => s
        | some h =>
          let s := modPart (started s) p (fun x => { x with handles := tput x.handles h (newHandle r base (some (ln, tk))) })
          (startExchange s p h 0 id).2

end Sys2Proof.Machine
end

