-- ==== Sys2Proof/Machine/Launch.lean ====
section
/-! DEFINITION. Launch records and their checks (R17-R28, R33), the tasks of a launch and their readiness (R29-R32, R49-R51),
and the acceptance of queue entries (R42, R44). -/

namespace Sys2Proof.Machine

/-! ### The header and the levels (R18-R21) -/

def hdMagic (h : BitVec 512) : Nat := fld h 31 0
def hdVersion (h : BitVec 512) : Nat := fld h 95 64
def hdNlev (h : BitVec 512) : Nat := fld h 111 104
def hdNnode (h : BitVec 512) : Nat := fld h 127 112
def hdNedge (h : BitVec 512) : Nat := fld h 143 128
def hdRank (h : BitVec 512) : Nat := fld h 159 144
def hdLen (h : BitVec 512) : Nat := fld h 191 160
def hdCode (h : BitVec 512) : Nat := fld h 255 192
def hdNode (h : BitVec 512) : Nat := fld h 319 256
def hdEdge (h : BitVec 512) : Nat := fld h 383 320
def hdComp (h : BitVec 512) : Nat := fld h 511 448

def lvCount (w : Word) : Nat := fld w 23 0
def lvDomain (w : Word) : Nat := fld w 26 24
def lvScope (w : Word) : Nat := fld w 29 27
def lvSpread (w : Word) : Bool := bit w 30
def lvGang (w : Word) : Bool := bit w 31

/-- Leaves within one instance of level i. -/
def instSize (lv : List Word) (i : Nat) : Nat := prod ((lv.take i).map lvCount)

/-- Leaves of a node on this device: a mesh level runs one instance (R21). -/
def leafTotal (lv : List Word) : Nat := prod ((lv.filter (fun w => lvDomain w != 6)).map lvCount)

/-- The unit of a domain in which a hand stands (R13, R56). -/
def unitOf (domain g : Nat) : Nat :=
  let e := g / 4
  match domain with
  | 0 => g
  | 1 => e
  | 2 => e / 16 * 4 + e % 16 / 4 / 2 * 2 + e % 4 / 2
  | 3 => e / 16
  | 4 => e / 32
  | _ => 0

/-- The hands of a partition, ascending. -/
def partHands (s : State) (p : Nat) : List Nat :=
  (List.range 512).filter (fun g => (partOf s p).pairs.contains (g / 8))

/-- The hands of a partition in the unit of a domain that holds the most of them. -/
def unitCapacity (s : State) (p domain : Nat) : Nat :=
  let us := (partHands s p).map (unitOf domain)
  us.eraseDups.foldl (fun m u => max m (us.countP (fun x => x == u))) 0

/-! ### Nodes and edges (R22-R24, R27, R28) -/

def ndKind (n : BitVec 512) : Nat := fld n 3 0
def ndScope (n : BitVec 512) : Nat := fld n 6 4
def ndSplit (n : BitVec 512) : Bool := bit n 7
def ndPref (n : BitVec 512) : Nat := fld n 11 8

def egFrom (e : BitVec 32) : Nat := fld e 9 0
def egTo (e : BitVec 32) : Nat := fld e 19 10
def egInst (e : BitVec 32) : Bool := bit e 20
def egSel (e : BitVec 32) : Nat := fld e 25 22

/-- The entry of sequencer number q of a kernel node. -/
def ndEntry (n : BitVec 512) (q : Nat) : Nat := fld n (351 + 32 * q) (320 + 32 * q)

/-- Base and size of buffer u's window on hand h4 of an easel, in units of 64 KiB (R24). -/
def ndWindow (n : BitVec 512) (u h4 : Nat) : Nat × Nat :=
  let size := fld n (271 + 16 * u) (264 + 16 * u)
  (fld n (263 + 16 * u) (256 + 16 * u) + (if ndSplit n then h4 * size else 0), size)

def ndWindows (n : BitVec 512) (h4 : Nat) : List (Nat × Nat) := [0, 1, 2].map (fun u => ndWindow n u h4)

/-- Whether a node kind has selectors. -/
def selector (k : Nat) : Bool := k == 4 || k == 5 || k == 6

/-- The fields that a node of a kind uses, as ranges of bits. -/
def ndFields (k : Nat) : List (Nat × Nat) :=
  match k with
  | 0 => [(3, 0), (6, 4), (7, 7), (11, 8), (303, 128), (350, 320), (351, 351), (382, 352), (383, 383), (414, 384), (415, 415), (446, 416), (447, 447), (511, 448)]
  | 1 => [(6, 0), (315, 64), (323, 320)]
  | 2 => [(6, 0), (87, 64)]
  | 3 => [(6, 0), (191, 64)]
  | 4 => [(6, 0), (191, 64), (255, 192), (258, 256)]
  | 5 => [(6, 0), (191, 64), (255, 192), (258, 256), (273, 272), (319, 288)]
  | _ => [(6, 0), (191, 64), (269, 264)]

/-- A mask of ranges of bits. -/
def maskOf (l : List (Nat × Nat)) : BitVec 512 := l.foldl (fun m r => m ||| BitVec.ofNat 512 (2 ^ (r.1 + 1) - 2 ^ r.2)) 0

/-! ### Checks (R33) -/

/-- Check 6 on a node. NPREF 9-15 on a kernel node lies outside R22's range, and no check of R33 names it: it is turned down here, as
a reserved value (DESIGN CHOICE, log entry 39). -/
def nodeReserved (n : BitVec 512) : Bool :=
  let k := ndKind n
  decide (6 < k) || (n &&& ~~~(maskOf (ndFields k))) != 0 ||
  (k == 0 && (decide (8 < ndPref n) || (ndPref n == 0 && fld n 511 448 != 0) || [0, 1, 2, 3].any (fun q => bits (ndEntry n q) 30 24 != 0))) ||
  (k == 1 && fld n 323 322 == 3) || ((k == 4 || k == 5) && decide (5 < fld n 258 256))

/-- Check 7 on a node. -/
def nodeEntries (n : BitVec 512) (len : Nat) : Bool :=
  ndKind n == 0 && (!([0, 1, 2, 3].any (fun q => bits (ndEntry n q) 31 31 == 1)) ||
    [0, 1, 2, 3].any (fun q => bits (ndEntry n q) 31 31 == 1 && decide (len ≤ bits (ndEntry n q) 23 0)))

/-- Check 8 on a node. -/
def nodeWindows (n : BitVec 512) : Bool :=
  ndKind n == 0 && [0, 1, 2].any (fun u =>
    let w := ndWindow n u 0
    let last := ndWindow n u 3
    w.2 == 0 || decide ((if u = 2 then 64 else 96) < last.1 + last.2))

/-- Check 10 on a node. -/
def nodeAlign (n : BitVec 512) : Bool :=
  (ndKind n == 0 && ndPref n != 0 && fld n 511 448 % 32 != 0) || (selector (ndKind n) && fld n 127 64 % 8 != 0)

/-- The nodes that a list of nodes reaches, itself included; fuel bounds the number of passes. -/
def reach (edges : List (BitVec 32)) : Nat → List Nat → List Nat
  | 0, l => l
  | fuel + 1, l =>
    let new := ((edges.filter (fun e => l.contains (egFrom e) && !l.contains (egTo e))).map egTo).eraseDups
    if new = [] then l else reach edges fuel (l ++ new)

/-- The body of a loop (R32). -/
def bodyOf (edges : List (BitVec 32)) (n loop : Nat) : List Nat :=
  reach edges n (((edges.filter (fun e => egFrom e == loop && egSel e == 0)).map egTo).eraseDups)

/-- Whether every node can be taken in an order in which edges go forward; fuel bounds the number of passes. -/
def acyclic (edges : List (BitVec 32)) : Nat → List Nat → Bool
  | 0, left => left == []
  | fuel + 1, left =>
    let next := left.filter (fun i => edges.any (fun e => egTo e == i && left.contains (egFrom e)))
    if next.length = left.length then left == [] else acyclic edges fuel next

/-- Check 9. -/
def edgeFault (nodes : List (BitVec 512)) (edges : List (BitVec 32)) : Bool :=
  let n := nodes.length
  let kind := fun (i : Nat) => ndKind (nodes.getD i 0)
  edges.any (fun e => decide (n ≤ egFrom e) || decide (n ≤ egTo e) || egFrom e == egTo e ||
    (egInst e && (kind (egFrom e) != 0 || kind (egTo e) != 0)) || (egSel e != 0 && !selector (kind (egFrom e))) ||
    ((kind (egFrom e) == 4 || kind (egFrom e) == 5) && decide (1 < egSel e))) ||
  !acyclic edges (n + 1) (List.range n) ||
  ((List.range n).filter (fun i => kind i == 5)).any (fun l =>
    let b := bodyOf edges n l
    edges.any (fun e => b.contains (egFrom e) && !b.contains (egTo e)))

/-- What acceptance has read of a launch: the block and the tables, as far as they could be read. -/
structure LaunchText where
  va     : Nat
  header : BitVec 512
  levels : List Word
  nodes  : Option (List (BitVec 512))
  edges  : Option (List (BitVec 32))
  deriving DecidableEq, Repr

/-- Whether the header's check 1 fails. -/
def badHeader (h : BitVec 512) (lv8 : List Word) : Bool :=
  hdMagic h != 0x4B5A4C44 || hdVersion h != 1 || fld h 63 32 != 0 || fld h 103 96 != 0 ||
  (lv8.drop (hdNlev h)).any (fun w => w != 0) || (lv8.take (hdNlev h)).any (fun w => fld w 63 32 != 0)

/-- The tables of a launch read in its partition's tree; none where a read fails or a count is out of range. -/
def readTables (s : State) (p : Nat) (va : Nat) (h : BitVec 512) (lv8 : List Word) : LaunchText × Bool :=
  let nn := hdNnode h
  let ne := hdNedge h
  let base : LaunchText := { va := va, header := h, levels := lv8.take (hdNlev h), nodes := none, edges := none }
  if nn < 1 ∨ 1024 < nn ∨ 4096 < ne then (base, false)
  else match unitRead s p false dataTypes (hdNode h) (64 * nn) with
  | .error _ => (base, true)
  | .ok nb =>
    let nodes := (List.range nn).map (fun i => BitVec.ofNat 512 (natOfBytes ((nb.drop (64 * i)).take 64)))
    match (if ne = 0 then .ok [] else unitRead s p false dataTypes (hdEdge h) (4 * ne)) with
    | .error _ => ({ base with nodes := some nodes }, true)
    | .ok eb => ({ base with nodes := some nodes, edges := some ((List.range ne).map (word32At eb)) }, false)

/-- The code of the first failing check of R33, the block being readable; fault says that a table is not. -/
def launchFault (s : State) (p : Nat) (t : LaunchText) (lv8 : List Word) (fault : Bool) : Option Nat :=
  let h := t.header
  let lv := t.levels
  let nodes := t.nodes.getD []
  let edges := t.edges.getD []
  let n := lv.length
  let ix := List.range n
  let dom := fun (i : Nat) => lvDomain (lv.getD i 0)
  let cover := fun (d : Nat) => match d with
    | 0 => 0
    | 1 => 1
    | 2 => 2
    | 3 => 2
    | 4 => 3
    | 5 => 4
    | _ => 5
  if badHeader h lv8 then some 1
  else if hdNlev h < 1 ∨ 8 < hdNlev h ∨ hdNnode h < 1 ∨ 1024 < hdNnode h ∨ 4096 < hdNedge h ∨ hdLen h < 1 ∨ 16777216 < hdLen h ∨
      lv.any (fun w => lvCount w == 0) ∨ 2 ^ 32 < prod (lv.map lvCount) ∨
      nodes.any (fun x => ndKind x == 2 && fld x 87 72 == 0) ∨ swRlq (partOf s p).sched < 4 * hdNnode h then some 2
  else if dom 0 ≠ 0 ∨ ix.any (fun i => dom i == 7 || (decide (0 < i) && decide (dom i < dom (i - 1))) || (dom i == 6 && decide (i + 1 < n))) ∨
      (dom (n - 1) = 6 ∧ lvCount (lv.getD (n - 1) 0) ≤ hdRank h) then some 3
  else if lv.any (fun w => decide (5 < lvScope w) || decide (lvScope w < cover (lvDomain w))) ∨ nodes.any (fun x => decide (5 < ndScope x)) then some 4
  else if ix.any (fun i => lvGang (lv.getD i 0) && (dom i == 6 || decide (unitCapacity s p (dom i) < instSize lv i))) then some 5
  else if nodes.any nodeReserved ∨ edges.any (fun e => fld e 31 26 != 0 || bit e 21 || decide (8 < egSel e)) then some 6
  else if nodes.any (fun x => nodeEntries x (hdLen h)) then some 7
  else if nodes.any nodeWindows then some 8
  else if t.nodes.isSome ∧ t.edges.isSome ∧ edgeFault nodes edges then some 9
  else if t.va % 128 ≠ 0 ∨ hdNode h % 64 ≠ 0 ∨ hdEdge h % 4 ≠ 0 ∨ hdCode h % 64 ≠ 0 ∨ hdComp h % 64 ≠ 0 ∨ nodes.any nodeAlign then some 10
  else if fault then some 11
  else none

/-! ### Tasks (R29, R32, R49) -/

def nodeOf (l : Launch) (n : Nat) : BitVec 512 := l.nodes.getD n 0
def kindOf (l : Launch) (n : Nat) : Nat := ndKind (nodeOf l n)

def taskEnded (t : Task) : Bool := t.state == .complete || t.state == .skipped

/-- The loops around a node, outermost first. -/
def loopsOf (l : Launch) (n : Nat) : List Nat :=
  let nn := l.nodes.length
  let all := ((List.range nn).filter (fun i => kindOf l i == 5)).filterMap (fun i =>
    let b := bodyOf l.edges nn i
    if b.contains n then some (b.length, i) else none)
  (all.foldl (fun (acc : List (Nat × Nat)) x =>
    (acc.filter (fun y => decide (x.1 < y.1) || (x.1 == y.1 && decide (y.2 < x.2)))) ++ [x] ++
    (acc.filter (fun y => !(decide (x.1 < y.1) || (x.1 == y.1 && decide (y.2 < x.2)))))) []).map (·.2)

/-- The task of a node at given iterations. -/
def findTask (l : Launch) (n : Nat) (it : List Nat) : Option Task := l.tasks.find? (fun t => t.node == n && t.iter == it)

/-- The edges into a node that do not lead from a loop to its own body. A loop's exit edge to a node of its body breaks no check of R33 as
R32 is written; it is left out with its body edges, and such a node waits for the loop's iterations alone (DESIGN CHOICE, log entry 17). -/
def edgesInto (l : Launch) (n : Nat) : List (BitVec 32) :=
  let ls := loopsOf l n
  l.edges.filter (fun e => egTo e == n && !ls.contains (egFrom e))

/-- The scopes of a task's acquires (R22, R29): the SCOPE of each predecessor that the test f finds live, and of each loop around it
whose edge leads to it. -/
def acquireScopes (l : Launch) (t : Task) (ps : List (BitVec 32 × Option Task)) (f : BitVec 32 → Task → Bool) : List Nat :=
  (ps.filter (fun (e, x) => x.any (f e))).map (fun (e, _) => ndScope (l.nodes.getD (egFrom e) 0)) ++
  ((loopsOf l t.node).filter (fun i => l.edges.any (fun e => egTo e == t.node && egFrom e == i))).map (fun i => ndScope (l.nodes.getD i 0))

/-- A task's predecessors: the edge, and the task it comes from. -/
def predsOf (l : Launch) (t : Task) : List (BitVec 32 × Option Task) :=
  (edgesInto l t.node).map (fun e => (e, findTask l (egFrom e) (t.iter.take (loopsOf l (egFrom e)).length)))

/-- Whether an edge from a task is live (R29). -/
def edgeLive (l : Launch) (e : BitVec 32) (x : Task) : Bool :=
  x.state == .complete && (!selector (kindOf l x.node) || x.sel == some (egSel e))

/-- Whether the previous iteration's instance of a task's node, if any, has not ended (R32). -/
def holdsBack (l : Launch) (t : Task) : Bool :=
  match t.iter.getLast? with
  | none => false
  | some 0 => false
  | some (j + 1) => match findTask l t.node (t.iter.dropLast ++ [j]) with
    | some x => !taskEnded x
    | none => false

/-- Whether leaf j of a kernel task may run as far as its instance edges go (R50). -/
def leafReady (ps : List (BitVec 32 × Option Task)) (j : Nat) : Bool :=
  ps.all (fun (e, x) => !egInst e || match x with
    | some x => taskEnded x || x.retired.contains j
    | none => true)

/-- What a waiting task becomes now: ready, skipped, or neither. -/
def evalTask (l : Launch) (t : Task) : Option TaskState :=
  if t.state ≠ .waiting ∨ holdsBack l t then none
  else
    let ps := predsOf l t
    let over_ := fun (x : Option Task) => (x.map taskEnded).getD true
    let done := ps.all (fun p => over_ p.2)
    let inBody := (l.edges.filter (fun e => egTo e == t.node)).length != ps.length
    let live := ps == [] || inBody || ps.any (fun (e, x) => (x.map (edgeLive l e)).getD false)
    if done then some (if live then .ready else .skipped)
    else if kindOf l t.node ≠ 0 then none
    else
      let begun := live || ps.any (fun (e, x) => egInst e && (x.map (fun x => x.retired != [])).getD false)
      if begun ∧ ps.all (fun (e, x) => egInst e || over_ x) ∧
         (List.range (leafTotal l.levels)).any (fun j => leafReady ps j) then some .ready
      else none

/-- A fresh task. -/
def newTask (n : Nat) (it : List Nat) : Task :=
  { node := n, iter := it, state := .waiting, readyAt := 0, order := 0, sel := none, placed := 0, retired := [], stopped := false,
    status := 0, detail := 0, detail1 := 0, iters := 0, exited := false, lastPlaced := 0 }

/-- The nodes whose innermost loop is given. -/
def nodesIn (l : Launch) (loop : Option Nat) : List Nat := (List.range l.nodes.length).filter (fun n => (loopsOf l n).getLast? == loop)

/-- The first status of a launch in the order of the event arbiter (R344). -/
def noteStatus (l : Launch) (status node detail : Nat) (ds : List Word) : Launch :=
  if status = 0 ∨ l.status ≠ 0 then l else { l with status := status, node := node, detail := detail, dwords := ds }

/-- A copy, tick, collective or control task started as it becomes ready (R50). -/
def startTask (s : State) (ln tk : Nat) (p : Nat) (n : BitVec 512) : State :=
  let s := modTask s ln tk (fun t => { t with state := .running })
  match ndKind n with
  | 2 =>
    let r := fld n 71 64
    let d := (regionOf (partOf s p) r).desc
    if ¬rgValid d then workDone s (some (ln, tk)) 7 10 (glazeInfo 3 0 r)
    else if ¬rgPerTick d then workDone s (some (ln, tk)) 7 10 (glazeInfo 4 0 r)
    else acceptJob { s with nextId := s.nextId + 1 }
      { ticket := s.nextId, part := p, region := r, op := 0, n := fld n 87 72, image := [], imgVa := 0, hand := 0, sq := .x, leaf := none,
        dst := .none, cookie := none, node := some (ln, tk), chans := [], holds := [], pos := 0, held := [], desc := 0, words := [] }
  | 3 => nodeExchange s p ln tk n
  | _ => s

/-- Skipped tasks followed to the end; fuel bounds the passes. -/
def skipAll (l : Launch) : Nat → Launch
  | 0 => l
  | fuel + 1 =>
    let dead := (List.range l.tasks.length).filter (fun i => (l.tasks[i]?.map (evalTask l)) == some (some .skipped))
    if dead = [] then l
    else skipAll { l with tasks := dead.foldl (fun ts i => lmod ts i (fun t => { t with state := .skipped })) l.tasks } fuel

/-- Whether task a comes before task b among those that one event makes ready (R55). -/
def taskBefore (a b : Task) : Bool :=
  decide (a.node < b.node) || (a.node == b.node && (List.zip a.iter b.iter).foldr (fun (x : Nat × Nat) (r : Bool) =>
    decide (x.1 < x.2) || (x.1 == x.2 && r)) false)

/-- Tasks whose readiness an event has decided: skipped ones, then ready ones in order (R29, R55). -/
def settleGraph (s : State) (ln : Nat) : State :=
  match launchOf s ln with
  | none => s
  | some l0 =>
    let l := skipAll l0 (l0.tasks.length + 1)
    let s := modLaunch s ln (fun _ => l)
    let ready := (List.range l.tasks.length).filter (fun i => (l.tasks[i]?.map (evalTask l)) == some (some .ready))
    let sorted := ready.foldl (fun (acc : List Nat) i =>
      let t := l.tasks.getD i (newTask 0 [])
      acc.filter (fun j => taskBefore (l.tasks.getD j (newTask 0 [])) t) ++ [i] ++
      acc.filter (fun j => !taskBefore (l.tasks.getD j (newTask 0 [])) t)) []
    sorted.foldl (fun s i =>
      let s := modTask { s with nextId := s.nextId + 1 } ln i (fun t =>
        { t with state := .ready, readyAt := s.time.toNat, lastPlaced := s.time.toNat, order := s.nextId })
      let n := nodeOf l (l.tasks.getD i (newTask 0 [])).node
      if ndKind n = 0 then s else startTask s ln i l.part n) s

/-! ### Acceptance (R42, R44) -/

/-- Whether the scheduler works (R360, R363). -/
def schedUp (s : State) : Bool := bit s.pkg.ready 51 && (s.pkg.phase == 0 || s.pkg.phase == 5)

/-- Ready-list entries that a partition's launches hold (R49). -/
def rlqUsed (s : State) (p : Nat) : Nat := ((s.launches.filter (fun l => l.2.part == p)).map (fun l => 4 * l.2.nodes.length)).sum

/-- Which of the scheduler's accesses meets an uncorrectable memory error (R42, R44): the read of a ring entry, the writes at
HEADVA, COMPVA and QCOMPVA, the reads of the launch block and of its tables. -/
def badEntry : Nat := 0
def badHead : Nat := 1
def badComp : Nat := 2
def badRing : Nat := 3
def errBlock : Nat := 4
def errTable : Nat := 5

/-- A record written at COMPVA, or at the queue's ring where it cannot be (R44). -/
def postRecord (s : State) (q : Nat) (comp : Option Nat) (bad : List Nat) (bs : List Byte) : State :=
  let ring := postQueue s q (bad.contains badRing) bs
  match comp with
  | none => ring
  | some c =>
    if bad.contains badComp then ring
    else match unitWrite s (qPart (queueOf s q).desc) false dataTypes c bs with
    | .error _ => ring
    | .ok s => s

/-- A record of a launch that was not started (R33, R44). -/
def rejectLaunch (s : State) (q code : Nat) (va cookie : Word) (comp : Option Nat) (bad : List Nat) : State :=
  postRecord s q comp bad (recordBytes 1 code 0xFFFF q va cookie s.time s.time 0 0 0)

/-- HEAD advanced and written at HEADVA (R42); a write that fails halts the queue (R44). -/
def advanceHead (s : State) (q : Nat) (bad : List Nat) : State :=
  let s := modQueue s q (fun x => { x with head := x.head + 1 })
  let x := queueOf s q
  if bad.contains badHead then haltLogged s q x.head.toNat
  else match unitWrite s (qPart x.desc) false dataTypes (qHeadVa x.desc) (bytesOfNat 8 x.head.toNat) with
  | .error _ => haltLogged s q x.head.toNat
  | .ok s => s

/-- A launch accepted, with the tasks outside every loop. -/
def startLaunch (s : State) (q p entry : Nat) (va cookie : Word) (t : LaunchText) : State :=
  let ln := s.nextId
  let l : Launch :=
    { part := p, queue := q, entry := entry, va := va.toNat, cookie := cookie, header := t.header, levels := t.levels,
      nodes := t.nodes.getD [], edges := t.edges.getD [], tstart := s.time, tasks := [], units := [], status := 0, node := 0xFFFF,
      detail := 0, dwords := [0, 0, 0], cut := false, posted := none, ended := false }
  let l := { l with tasks := (nodesIn l none).map (fun n => newTask n []) }
  settleGraph { s with nextId := s.nextId + 1, launches := tput s.launches ln l } ln

/-- Where the next entry of a queue stands in its ring (R38). -/
def entryAt (x : HwQueue) : Nat := qRing x.desc + 32 * (x.head.toNat % 2 ^ qLogN x.desc)

/-- The ranges that the acceptance of a queue's next entry reads or may write: the entry, HEADVA, the completion ring, the block, its
tables, COMPVA. -/
def acceptRanges (s : State) (q : Nat) : List (Nat × Nat) :=
  let x := queueOf s q
  let p := qPart x.desc
  [(entryAt x, 32), (qHeadVa x.desc, 8), (ringAt s q, 64)] ++
  (match unitRead s p false dataTypes (entryAt x) 32 with
   | .error _ => []
   | .ok eb =>
     let va := (wordAt eb 3).toNat
     (va, 128) :: (match unitRead s p false dataTypes va 128 with
       | .error _ => []
       | .ok hb =>
         let h := BitVec.ofNat 512 (natOfBytes (hb.take 64))
         [(hdNode h, 64 * min (hdNnode h) 1024), (hdEdge h, 4 * min (hdNedge h) 4096), (hdComp h, 64)]))

/-- Whether the channels take the accesses of an acceptance now. -/
def acceptOpen (s : State) (q : Nat) : Bool := !ringBusy s q && (acceptRanges s q).all (fun r => unitOpen s (qPart (queueOf s q).desc) r.1 r.2)

/-- What acceptance has read of the tables, and whether a table could not be read: an uncorrectable memory error on it leaves them
unread. -/
def acceptTables (s : State) (p : Nat) (va : Nat) (h : BitVec 512) (lv8 : List Word) (bad : List Nat) : LaunchText × Bool :=
  let r := readTables s p va h lv8
  if bad.contains errTable ∧ (r.1.nodes.isSome ∨ r.2) then ({ r.1 with nodes := none, edges := none }, true) else r

/-- QUEUE_ENTRY_ACCEPT (R42); bad says which of its accesses meet an uncorrectable memory error. R33 and R44 say nothing of one in the
read of the block or of a table: it counts as a read that fails, with code 11 (DESIGN CHOICE, log entry 40). -/
def execQueueEntryAccept (queue : Subject (List Nat)) (s : State) : Res :=
  let q := queue.no
  let bad := queue.bad
  let x := queueOf s q
  let p := qPart x.desc
  if ¬schedUp s ∨ fld s.pkg.ready 34 19 = 0 ∨ ¬qEn x.desc ∨ qHalted x.desc ∨ x.head = x.taild then .next s
  else if ¬acceptOpen s q then .next ((acceptRanges s q).foldl (fun s r => unitKnock s p r.1 r.2) s)
  else if bad.contains badEntry then .next (haltLogged s q x.head.toNat)
  else match unitRead s p false dataTypes (entryAt x) 32 with
  | .error _ => .next (haltLogged s q x.head.toNat)
  | .ok eb =>
    let s := unitTook s p (entryAt x) 32
    let va := wordAt eb 3
    let cookie := wordAt eb 2
    if wordAt eb 0 ≠ 0 ∨ wordAt eb 1 ≠ 0 then .next (rejectLaunch (advanceHead s q bad) q 1 va cookie none bad)
    else match (if bad.contains errBlock then .error (0, { cause := 5, reason := 0, level := 0 }) else unitRead s p false dataTypes va.toNat 128) with
    | .error _ => .next (rejectLaunch (advanceHead s q bad) q (if va.toNat % 128 = 0 then 11 else 10) va cookie none bad)
    | .ok hb =>
      let s := unitTook s p va.toNat 128
      let h := BitVec.ofNat 512 (natOfBytes (hb.take 64))
      let lv8 := (List.range 8).map (fun i => wordAt hb (8 + i))
      let (t, fault) := acceptTables s p va.toNat h lv8 bad
      match launchFault s p t lv8 fault with
      | some code =>
        let comp := if code = 1 ∨ hdComp h % 64 ≠ 0 then none else some (hdComp h)
        .next (rejectLaunch (advanceHead s q bad) q code va cookie comp bad)
      | none =>
        if swRlq (partOf s p).sched < rlqUsed s p + 4 * hdNnode h then .next s
        else
          let s := unitTook (unitTook s p (hdNode h) (64 * hdNnode h)) p (hdEdge h) (4 * hdNedge h)
          .next (startLaunch (advanceHead s q bad) q p x.head.toNat va cookie t)

/-! ### Conditions and loops (R31, R32) -/

/-- Compare of R31. -/
def compareCc (v c : Word) (cc : Nat) : Bool :=
  match cc with
  | 0 => v == c
  | 1 => v != c
  | 2 => decide (v.toNat < c.toNat)
  | 3 => decide (c.toNat ≤ v.toNat)
  | 4 => v.slt c
  | _ => !v.slt c

/-- Whether every task of an iteration of a loop task has ended. -/
def iterationDone (l : Launch) (t : Task) (j : Nat) : Bool :=
  l.tasks.all (fun x => !(x.iter == t.iter ++ [j] && (loopsOf l x.node).getLast? == some t.node) || taskEnded x)

/-- What the read of a condition word comes to: the word, masked, and its page's type and number; the state in which it waits at
its channel or at its synchronisation engine; or a failure. -/
inductive WordRead where
  | word (v : Word) (ptype : PageType) (pfn : Nat) (s : State)
  | wait (s : State)
  | fail (va : Nat) (f : XlFault)

/-- A condition word read as an acquire at the node's scope: on a sync page by its home die's engine (R17, R262, R263). -/
def conditionWord (s : State) (l : Launch) (n : BitVec 512) : WordRead :=
  let va := fld n 127 64
  match unitPages s l.part false true false [.normal, .code, .sync] [{ va := va, len := 8 }] with
  | .error (va, f) => .fail va f
  | .ok ps => match ps with
    | [] => .wait s
    | p :: _ =>
      let pa := physOf p va
      let v := fun (s : State) => BitVec.ofNat 64 (memNat s.mem pa 8) &&& n.extractLsb' 128 64
      if p.ptype = .sync then
        match syncTouch s pa with
        | none => .wait s
        | some s => .word (v s) .sync (pa / 4096) s
      else if ¬unitOpen s l.part va 8 then .wait (unitKnock s l.part va 8)
      else .word (v s) p.ptype (pa / 4096) (unitTouched s false va 8 ps)

/-- A conditional or switch task completed with its selector. -/
def controlDone (s : State) (ln tk : Nat) (sel : Option Nat) : State :=
  settleGraph (modTask s ln tk (fun t => { t with state := .complete, sel := sel })) ln

/-- A control task whose word cannot be read (R51): the cause and its TINFO word. -/
def controlFault (s : State) (ln tk : Nat) (t : Task) (kind cause : Nat) (info : Word) : State :=
  let s := modLaunch s ln (fun l => noteStatus l 7 t.node cause [0, info, 0])
  if kind = 5 then modTask s ln tk (fun t => { t with exited := true, sel := none })
  else controlDone s ln tk none

/-- CONDITION_EVALUATION (R31): a running control task reads its word. A loop waits for iteration j - OVERLAP, and for
ready-list entries of its launch (R49). bad says that the word has an uncorrectable memory error, which is logged (R51); R335 names no
source for the scheduler: that of the synchronisation engine stands for a sync page, a free value for another (log entry 38). -/
def execConditionEvaluation (ln : Nat) (task : Subject Bool) (s : State) : Res :=
  let tk := task.no
  match launchOf s ln with
  | none => .next s
  | some l =>
    match l.tasks[tk]? with
    | none => .next s
    | some t =>
      let n := nodeOf l t.node
      let k := ndKind n
      let j := t.iters
      let ov := fld n 273 272 + 1
      let used := l.tasks.countP (fun x => !taskEnded x)
      let body := nodesIn l (some t.node)
      if ¬schedUp s ∨ l.cut ∨ t.state ≠ .running ∨ ¬selector k then .next s
      else if k = 5 ∧ (t.exited ∨ (ov ≤ j ∧ ¬iterationDone l t (j - ov))) then .next s
      else match conditionWord s l n with
      | .fail va f => .next (controlFault s ln tk t k f.cause (xlInfo va false f))
      | .wait s => .next s
      | .word v ty pfn s =>
        if task.bad then
          let (f, s) := takeFresh s
          let info := mcInfo pfn (if ty = .sync then 4 else (Config.freeWord f).toNat % 256)
          .next (controlFault (emit s (.log 13 info.toNat)) ln tk t k 13 info)
        else if k = 4 then .next (controlDone s ln tk (some (compareCc v (n.extractLsb' 192 64) (fld n 258 256)).toNat))
        else if k = 6 then
          let c := v.toNat / 2 ^ fld n 269 264
          let has := l.edges.any (fun e => egFrom e == t.node && egSel e == c)
          .next (controlDone s ln tk (some (if c ≤ 7 ∧ has then c else 8)))
        else
          let maxit := fld n 319 288
          if compareCc v (n.extractLsb' 192 64) (fld n 258 256) ∧ (maxit = 0 ∨ j < maxit) then
            if 4 * l.nodes.length < used + body.length then .next s
            else
              let s := modLaunch s ln (fun l => { l with
                tasks := lmod l.tasks tk (fun t => { t with iters := j + 1 }) ++ body.map (fun n => newTask n (t.iter ++ [j])) })
              .next (settleGraph s ln)
          else .next (modTask s ln tk (fun t => { t with exited := true, sel := some 1 }))

end Sys2Proof.Machine
end

