-- ==== Sys2Proof/Machine/Sched.lean ====
section
/-! DEFINITION. The scheduler and the dispatch controllers (R52-R61): effective priority, the dispatch choice, placement,
prefetches, binding and gang starts, and priority pre-emption. -/

namespace Sys2Proof.Machine

/-! ### Releases (R173) and what a task has left running -/

/-- The hands on which leaves of a task were placed, and the dies that a copy node used. -/
def usedHands (l : Launch) (tk lo hi : Nat) : List Nat :=
  (l.units.filter (fun u => u.1 == tk && u.2.1 == 0 && decide (lo ≤ u.2.2.1) && decide (u.2.2.1 < hi))).map (·.2.2.2)

/-- Whether a leaf is one of leaves lo to hi - 1 of a task. -/
def leafIn (ln tk lo hi : Nat) (b : Option Bound) : Bool :=
  match b with
  | some b => b.launch == ln && b.task == tk && decide (lo ≤ b.leaf) && decide (b.leaf < hi)
  | none => false

/-- Whether a release of leaves lo to hi - 1 of a task at a scope is performed: their fresco jobs, glaze jobs, exchanges and
engine commands have ended, and at a wide scope the dies they used hold no dirty bytes (R173). -/
def released (s : State) (l : Launch) (ln tk lo hi scope : Nat) : Bool :=
  let mine := leafIn ln tk lo hi
  !(s.channels.any (fun c => c.2.ctx.any (fun x => x.2.state != .idle && mine x.2.leaf))) &&
  !(s.easels.any (fun e => e.2.copyQ.any (fun c => mine c.leaf) ||
    (e.2.frescoQ ++ e.2.collQ ++ e.2.glazeQ ++ e.2.syncQ).any (fun c => mine c.leaf))) &&
  !(s.glazeJobs.any (fun j => mine j.leaf)) &&
  !((partOf s l.part).handles.any (fun h => h.2.running && mine h.2.leaf)) &&
  !((partOf s l.part).sends.any (fun x => mine x.leaf)) &&
  (decide (scope < 4) || !((usedHands l tk lo hi).any (fun g => anyDirty s (dieNo g))))

/-! ### Units and room (R56) -/

/-- Whether two leaves' windows are disjoint in every buffer. -/
def windowsApart (a b : List (Nat × Nat)) : Bool :=
  (List.zip a b).all (fun (x, y) => decide (x.1 + x.2 ≤ y.1) || decide (y.1 + y.2 ≤ x.1))

def slotsOf (s : State) (g : Nat) : List Slot := tget [] s.slots g

/-- The windows that each pre-empted leaf keeps on a hand (R61). -/
def keptWindows (s : State) (g : Nat) : List (List (Nat × Nat)) :=
  (s.preempts.filter (fun e => e.1 == g)).filterMap (fun e => e.2.leaf.map (·.windows))

/-- Whether windows meet those that a pre-empted leaf keeps on a hand: no leaf with them is fetched for or bound there. -/
def blocked (s : State) (g : Nat) (ws : List (Nat × Nat)) : Bool := (keptWindows s g).any (fun w => !windowsApart w ws)

/-- Whether a hand stays reserved for a leaf that a suspend or a stop has pre-empted (R350, R361). -/
def reserved (s : State) (g : Nat) : Bool := s.preempts.any (fun e => e.1 == g && decide (3 ≤ e.2.by_))

/-- What a choice assumes: hands whose running leaf counts as pre-empted (R60), and hands already taken in this choice. -/
structure Assume where
  freed : List Nat
  taken : List Nat
  deriving DecidableEq, Repr

/-- Room on a hand for a leaf with these windows (R56), or for the resumption of its own pre-empted leaf. -/
def room (s : State) (a : Assume) (own : Bool) (g : Nat) (ws : List (Nat × Nat)) : Bool :=
  let sl := (slotsOf s g).filter (fun x => !(a.freed.contains g && x.state == .bound))
  !a.taken.contains g && sl.all (fun x => x.state == .bound) && decide (sl.length < 2) &&
  (a.freed.contains g || !stopping s g) && !reserved s g &&
  (own || !blocked s g ws) &&
  (!a.freed.contains g || match (handOf s g).bound with
    | some b => windowsApart b.windows ws
    | none => true)

/-! ### Placement of a leaf (R57, R58) -/

/-- The levels that a leaf is placed at, from the top down: a mesh level is fixed by DEVRANK. -/
def placedLevels (lv : List Word) : List Nat := ((List.range lv.length).reverse).filter (fun i => lvDomain (lv.getD i 0) != 6)

/-- Whether an instance of a level is complete: its leaves have retired and its release at SCOPE is performed (R21). -/
def instanceDone (s : State) (l : Launch) (ln tk : Nat) (t : Task) (i k : Nat) : Bool :=
  let n := instSize l.levels i
  (List.range n).all (fun j => t.retired.contains (n * k + j)) && released s l ln tk (n * k) (n * k + n) (lvScope (l.levels.getD i 0))

/-- One level of the placement of leaf j: the unit of its instance, taken if it has none, and the hands left. -/
def placeLevel (s : State) (a : Assume) (l : Launch) (ln tk : Nat) (t : Task) (j : Nat)
    (x : Option (List Nat × List (Nat × Nat × Nat × Nat))) (i : Nat) : Option (List Nat × List (Nat × Nat × Nat × Nat)) :=
  match x with
  | none => none
  | some (pool, units) =>
    let w := l.levels.getD i 0
    let k := j / instSize l.levels i
    let n := nodeOf l t.node
    match units.find? (fun u => u.1 == tk && u.2.1 == i && u.2.2.1 == k) with
    | some u => some (pool.filter (fun g => unitOf (lvDomain w) g == u.2.2.2), units)
    | none =>
      let us := ((pool.filter (fun g => room s a false g (ndWindows n (g % 4)))).map (unitOf (lvDomain w))).eraseDups
      let parent := k / lvCount w
      let load := fun (u : Nat) => units.countP (fun v => v.1 == tk && v.2.1 == i && v.2.2.2 == u && v.2.2.1 / lvCount w == parent &&
        !instanceDone s l ln tk t i v.2.2.1)
      let better := fun (u v : Nat) => if lvSpread w then decide (load u < load v) || (load u == load v && decide (u < v)) else decide (u < v)
      match us with
      | [] => none
      | u :: r =>
        let u := r.foldl (fun b v => if better v b then v else b) u
        some (pool.filter (fun g => unitOf (lvDomain w) g == u), (tk, i, k, u) :: units)

/-- Leaf j placed: its hand, and the units fixed. -/
def placeLeaf (s : State) (a : Assume) (l : Launch) (ln tk : Nat) (t : Task) (j : Nat) (units : List (Nat × Nat × Nat × Nat)) :
    Option (Nat × List (Nat × Nat × Nat × Nat)) :=
  match (placedLevels l.levels).foldl (placeLevel s a l ln tk t j) (some (partHands s l.part, units)) with
  | some (g :: _, us) => if room s a false g (ndWindows (nodeOf l t.node) (g % 4)) then some (g, us) else none
  | _ => none

/-- The highest level with GANG set, if any. -/
def gangLevel (lv : List Word) : Option Nat := ((List.range lv.length).filter (fun i => lvGang (lv.getD i 0))).getLast?

/-- The leaves that a task's next placement takes: its next leaf, or its next whole gang instance (R54, R58). -/
def nextLeaves (l : Launch) (t : Task) : List Nat :=
  match gangLevel l.levels with
  | none => [t.placed]
  | some i => (List.range (instSize l.levels i)).map (fun j => t.placed + j)

/-- A plan: leaves with their hands, and the units fixed. -/
abbrev Plan := List (Nat × Nat) × List (Nat × Nat × Nat × Nat)

/-- The plan of a task's next placement, or none where it has no room or its leaves may not run yet. -/
def planNext (s : State) (freed : List Nat) (l : Launch) (ln tk : Nat) (t : Task) : Option Plan :=
  let js := nextLeaves l t
  let ps := predsOf l t
  if l.cut ∨ js.any (fun j => !leafReady ps j) then none
  else js.foldl (fun (x : Option Plan) j => match x with
    | none => none
    | some (out, units) => match placeLeaf s { freed := freed, taken := out.map (·.2) } l ln tk t j units with
      | none => none
      | some (g, us) => some (out ++ [(j, g)], us)) (some ([], l.units))

/-! ### Candidates and effective priority (R53, R54) -/

/-- EP of a task or a pre-empted leaf that has waited since a TIME. -/
def effPrio (s : State) (p q since : Nat) : Nat :=
  let d := (queueOf s q).desc
  let age := swAge (partOf s p).sched
  if age = 0 then qPrio d else min (qCeil d) (qPrio d + (s.time.toNat - since) / 1000 / age)

/-- A candidate: its queue, its EP, and a task or a group of pre-empted leaves with their hands in the order of their pre-emption. -/
inductive Cand where
  | task (q ep ln tk : Nat)
  | resume (q ep : Nat) (leaves : List (Nat × Option Bound))
  deriving DecidableEq, Repr

def Cand.queue (c : Cand) : Nat := match c with
  | .task q _ _ _ => q
  | .resume q _ _ => q

def Cand.ep (c : Cand) : Nat := match c with
  | .task _ e _ _ => e
  | .resume _ e _ => e

/-- Whether a kernel task still has leaves to place. -/
def offers (l : Launch) (t : Task) : Bool :=
  ndKind (nodeOf l t.node) == 0 && (t.state == .ready || t.state == .running) && !t.stopped && decide (t.placed < leafTotal l.levels)

/-- The head of a queue: its earliest task, in queue order, that still has unplaced leaves (R54, R55). -/
def headOf (s : State) (q : Nat) : Option (Nat × Nat) :=
  let l := (s.launches.filter (fun e => e.2.queue == q)).flatMap (fun e =>
    (List.range e.2.tasks.length).filterMap (fun i => match e.2.tasks[i]? with
      | some t => if offers e.2 t then some (e.1, t.order, i) else none
      | none => none))
  (l.foldl (fun (b : Option (Nat × Nat × Nat)) x => match b with
    | none => some x
    | some y => if x.1 < y.1 ∨ (x.1 = y.1 ∧ x.2.1 < y.2.1) then some x else some y) none).map (fun x => (x.1, x.2.2))

/-- A gang instance's key in a pre-empted leaf. -/
def gangKey (p : Preempt) : Option (Nat × Nat × Nat × Nat) :=
  match p.slot with
  | some x => x.gang.map (fun g => (x.launch, x.task, g.1, g.2))
  | none => none

/-- The leaf that an entry carries. -/
def slotLeaf (s : State) (x : Slot) : Bound :=
  match launchOf s x.launch with
  | some l => { launch := x.launch, task := x.task, leaf := x.leaf, codeBase := hdCode l.header, codeLen := hdLen l.header, windows := x.windows }
  | none => { launch := x.launch, task := x.task, leaf := x.leaf, codeBase := 0, codeLen := 0, windows := x.windows }

/-- Whether a saved leaf waits for its resumption. -/
def waitsResume (s : State) (g : Nat) (p : Preempt) : Bool :=
  p.saved && decide (p.by_ < 3) && p.image.ending.isNone && !((slotsOf s g).any (fun x => x.resume && p.leaf == some (slotLeaf s x)))

/-- The groups of pre-empted leaves of a queue that may be resumed, in the order of their pre-emption. -/
def resumable (s : State) (q : Nat) : List (Nat × List (Nat × Option Bound)) :=
  let ofQ := s.preempts.filter (fun e => match e.2.leaf with
    | some b => match launchOf s b.launch with
      | some l => l.queue == q && !l.cut
      | none => false
    | none => false)
  let sorted := ofQ.foldl (fun (acc : List (Nat × Preempt)) x =>
    acc.filter (fun y => decide (y.2.order < x.2.order)) ++ [x] ++ acc.filter (fun y => !decide (y.2.order < x.2.order))) []
  let groups := sorted.foldl (fun (acc : List (List (Nat × Preempt))) x =>
    if (gangKey x.2).isSome ∧ acc.any (fun gr => gr.any (fun y => gangKey y.2 == gangKey x.2)) then
      acc.map (fun gr => if gr.any (fun y => gangKey y.2 == gangKey x.2) then gr ++ [x] else gr)
    else acc ++ [[x]]) []
  (groups.filter (fun gr => gr.all (fun x => waitsResume s x.1 x.2))).map (fun gr => ((gr.map (fun x => x.2.time)).foldl max 0, gr.map (fun x => (x.1, x.2.leaf))))

/-- The candidates of a partition (R54). -/
def candidates (s : State) (p : Nat) : List Cand :=
  ((partOf s p).queues.filter (fun q => qEn (queueOf s q).desc && qPart (queueOf s q).desc == p)).flatMap (fun q =>
    (resumable s q).map (fun x => Cand.resume q (effPrio s p q x.1) x.2) ++
    (match headOf s q with
     | none => []
     | some (ln, tk) => match launchOf s ln with
       | none => []
       | some l => match l.tasks[tk]? with
         | none => []
         | some t => [Cand.task q (effPrio s p q t.readyAt) ln tk]))

/-! ### The dispatch choice (R54-R59) -/

/-- A leaf placed on a hand: it takes a scoreboard entry. -/
def addSlot (s : State) (ln tk j g : Nat) (ws : List (Nat × Nat)) (gang : Option (Nat × Nat)) (resume : Bool) : State :=
  let x : Slot := { launch := ln, task := tk, leaf := j, windows := ws, state := .placed, gang := gang, start := none, resume := resume, order := s.nextId }
  { s with slots := tput s.slots g (slotsOf s g ++ [x]), nextId := s.nextId + 1 }

/-- A plan carried out. -/
def place (s : State) (l : Launch) (ln tk : Nat) (t : Task) (plan : Plan) : State :=
  let gang := (gangLevel l.levels).map (fun i => (i, t.placed / instSize l.levels i))
  let s := modLaunch s ln (fun l => { l with
    units := plan.2
    tasks := lmod l.tasks tk (fun t => { t with placed := t.placed + plan.1.length, state := .running, lastPlaced := s.time.toNat }) })
  plan.1.foldl (fun s (x : Nat × Nat) => addSlot s ln tk x.1 x.2 (ndWindows (nodeOf l t.node) (x.2 % 4)) gang false) s

/-- A pre-empted group placed again, each leaf on its own hand (R61). A resumption does not count as a placement of its task's leaf for
the aging quantum of R60 (DESIGN CHOICE, log entry 40). -/
def placeResume (s : State) (leaves : List (Nat × Option Bound)) : State :=
  leaves.foldl (fun s (g, b) => match b, savedOf s g b with
    | some b, some p => addSlot s b.launch b.task b.leaf g b.windows (p.slot.bind (·.gang)) true
    | _, _ => s) s

/-- A candidate placed if it has room. -/
def tryCand (s : State) (c : Cand) : Option State :=
  match c with
  | .task _ _ ln tk =>
    match launchOf s ln with
    | none => none
    | some l => match l.tasks[tk]? with
      | none => none
      | some t => (planNext s [] l ln tk t).map (place s l ln tk t)
  | .resume _ _ leaves =>
    if leaves.all (fun x => room s { freed := [], taken := [] } true x.1 []) then some (placeResume s leaves) else none

/-- The round-robin pointer of a level: its distance to a queue. -/
def rrDistance (ptr q : Nat) : Nat := (q + 255 - ptr) % 256

/-- The first candidate placed, in the order of R54: level by level, queue by queue, resumptions before the head. -/
def choose (s : State) (p : Nat) (cs : List Cand) : List Nat → Option State
  | [] => none
  | lvl :: r =>
    let here := cs.filter (fun c => c.ep == lvl)
    let ptr := tget 255 (partOf s p).rrptr lvl
    let qs := (here.map Cand.queue).eraseDups
    let sorted := qs.foldl (fun (acc : List Nat) q =>
      acc.filter (fun x => decide (rrDistance ptr x < rrDistance ptr q)) ++ [q] ++ acc.filter (fun x => !decide (rrDistance ptr x < rrDistance ptr q))) []
    match (sorted.flatMap (fun q => here.filter (fun c => c.queue == q))).findSome? (fun c => (tryCand s c).map (fun t => (c.queue, t))) with
    | some (q, t) => some (modPart t p (fun x => { x with rrptr := tput x.rrptr lvl q }))
    | none => choose s p cs r

/-- Choices repeated until none can be made; fuel bounds them. -/
def chooseAll (s : State) (p : Nat) : Nat → State
  | 0 => s
  | fuel + 1 => match choose s p (candidates s p) ((List.range 32).reverse) with
    | some t => chooseAll t p fuel
    | none => s

/-- Collective tasks that wait for a free exchange handle, tried again (R50). -/
def retryExchanges (s : State) (p : Nat) : State :=
  s.launches.foldl (fun s e => if e.2.part ≠ p ∨ e.2.cut then s
    else (List.range e.2.tasks.length).foldl (fun s i => match e.2.tasks[i]? with
      | some t =>
        if ndKind (nodeOf e.2 t.node) = 3 ∧ t.state = .running ∧ t.placed = 0 ∧ t.retired = [] then nodeExchange s p e.1 i (nodeOf e.2 t.node) else s
      | none => s) s) s

/-- DISPATCH_CHOICE (R54). Each placement takes one of the partition's at most 512 hands. -/
def execDispatchChoice (p : Nat) (s : State) : Res :=
  if ¬schedUp s ∨ ¬(partOf s p).exists_ then .next s else .next (chooseAll (retryExchanges s p) p 513)

/-! ### Priority pre-emption (R60) -/

/-- PRIO of the queue whose leaf a hand runs. -/
def handPrio (s : State) (b : Bound) : Nat := match launchOf s b.launch with
  | some l => qPrio (queueOf s l.queue).desc
  | none => 0

/-- The hands whose leaf may be pre-empted for a task of effective priority ep: the lowest PRIO first, the most recently
bound first among those. -/
def victims (s : State) (p ep : Nat) (n : BitVec 512) : List Nat :=
  let gap := swGap (partOf s p).sched
  let order := fun (g : Nat) => ((boundSlot s g).map (·.order)).getD 0
  let prio := fun (g : Nat) => match (handOf s g).bound with
    | some b => handPrio s b
    | none => 0
  let ok := (partHands s p).filter (fun g => (handOf s g).bound.isSome && (boundSlot s g).isSome && !stopping s g &&
    decide (prio g + gap ≤ ep) && room s { freed := [g], taken := [] } false g (ndWindows n (g % 4)))
  ok.foldl (fun (acc : List Nat) g =>
    let before := fun (x : Nat) => decide (prio x < prio g) || (prio x == prio g && decide (order g < order x))
    acc.filter before ++ [g] ++ acc.filter (fun x => !before x)) []

/-- The hands to pre-empt: victims taken in order, gang instances whole, until the task's next placement has room. -/
def pickVictims (s : State) (l : Launch) (ln tk : Nat) (t : Task) (freed : List Nat) : List Nat → Option (List Nat)
  | [] => none
  | g :: r =>
    let freed := (freed ++ gangHands s g).eraseDups
    match planNext s freed l ln tk t with
    | some plan => some (freed.filter (fun g => (gangHands s g).any (fun x => (plan.1.map (·.2)).contains x)))
    | none => pickVictims s l ln tk t freed r

/-- PRIORITY_PREEMPTION (R60): for the waiting head of highest effective priority that can be helped. Hands that are being
pre-empted already count as free. -/
def execPriorityPreemption (p : Nat) (s : State) : Res :=
  let w := (partOf s p).sched
  let wait := 1000 * (if swAge w = 0 then 1000 else swAge w)
  if ¬schedUp s ∨ swGap w = 0 then .next s
  else
    let heads := candidates s p
    let sorted := heads.foldl (fun (acc : List Cand) c =>
      acc.filter (fun x => decide (c.ep < x.ep) || (x.ep == c.ep && decide (x.queue < c.queue))) ++ [c] ++
      acc.filter (fun x => !(decide (c.ep < x.ep) || (x.ep == c.ep && decide (x.queue < c.queue))))) []
    let going := (s.preempts.filter (fun e => !e.2.saved && e.2.by_ == 0)).map (·.1)
    match sorted.findSome? (fun c => match c with
      | .resume _ _ _ => none
      | .task _ ep ln tk => match launchOf s ln with
        | none => none
        | some l => match l.tasks[tk]? with
          | none => none
          | some t =>
            if s.time.toNat < t.lastPlaced + wait ∨ (planNext s going l ln tk t).isSome then none
            else pickVictims s l ln tk t going (victims s p ep (nodeOf l t.node))) with
    | none => .next s
    | some gs => .next (gs.foldl (fun s g => requestPreempt s 0 g) s)

/-! ### Prefetches (R26, R59) -/

/-- The scoreboard entry of a hand that is placed and not yet bound; a resumption comes first. -/
def waitingSlot (s : State) (g : Nat) : Option Slot :=
  let l := (slotsOf s g).filter (fun x => x.state != .bound)
  match l.find? (fun x => x.resume) with
  | some x => some x
  | none => l.head?

def setSlot (s : State) (g : Nat) (x : Slot) : State :=
  { s with slots := tput s.slots g ((slotsOf s g).map (fun y => if y.order = x.order then x else y)) }

/-- A prefetch as a copy-in command of the dispatch controller. Its hand number, 512 and up, is no hand's. -/
def prefetchCmd (s : State) (part g : Nat) (x : Slot) (bs : List Byte) : CopyCmd :=
  let w2 := (wordAt bs 1).toNat
  { mkGlobal s (512 + g) .l s.nextId Tag.empty [] with
    part := part, leaf := some (slotLeaf s x), kind := .prefetch g x.order, acq := bits w2 26 26 == 1, scope := scopeOf (bits w2 29 27)
    buf := bufOfNo (bits w2 31 30), baddr := bits w2 63 32, src := 0 }

/-- The address of a prefetch's shape record, and whether a field of its entry that must be zero is not, or one is reserved. -/
def entryTsr (bs : List Byte) : Nat := (wordAt bs 3).toNat
def entryBad (bs : List Byte) : Bool :=
  let w2 := (wordAt bs 1).toNat
  bits w2 31 30 == 3 || decide (5 < bits w2 29 27) || bits w2 25 0 != 0 || wordAt bs 0 != 0 || bits (natOfBytes bs) 191 188 != 0

/-- A prefetch with the geometry of its record. -/
def prefetchShape (s : State) (part g : Nat) (x : Slot) (bs : List Byte) (n : BitVec 1024) : CopyCmd :=
  withShape { prefetchCmd s part g x bs with src := fld n 63 0 } n (originOf (bits (natOfBytes bs) 187 128))

/-- What a prefetch meets on its way: the lines of its record in the die's cache, and the table entries that the walks of its record
and of its source read. -/
def prefetchLines (s : State) (part g : Nat) (bs : List Byte) : List Nat :=
  match tsrPage s part (entryTsr bs) with
  | .error _ => []
  | .ok p => linesVia (dieNo g) p.kind p.ptype (physOf p (entryTsr bs)) 128
def prefetchTables (s : State) (part g : Nat) (x : Slot) (bs : List Byte) : List Nat :=
  unitTables s part (entryTsr bs) ++ match tsrPage s part (entryTsr bs) with
  | .error _ => []
  | .ok p =>
    let c := prefetchShape s part g x bs (readTsr s (dieNo g) (entryTsr bs) p).1
    if (tsrFault (readTsr s (dieNo g) (entryTsr bs) p).1 c.origin .copy false).isSome then []
    else (rowTouches c c.src).flatMap (fun t => unitTables s part t.va)

/-- One prefetch of a list issued, or the status of its failure: 2 where its box leaves its window, 3 where it faults. An entry with a
zero field that is not zero is rejected (R3) as one that faults (DESIGN CHOICE, log entry 38). -/
def onePrefetch (s : State) (part g : Nat) (x : Slot) (bs : List Byte) : Option Nat × State :=
  let tsr := entryTsr bs
  if entryBad bs then (some 3, s)
  else match tsrPage s part tsr with
  | .error _ => (some 3, walkTouched s part tsr)
  | .ok p =>
    let (n, s) := readTsr (walkTouched s part tsr) (dieNo g) tsr p
    let c := prefetchShape s part g x bs n
    if (tsrFault n c.origin .copy false).isSome then (some 3, s)
    else
      let span := boxSpan c
      match windowFault { Hand.reset with bound := c.leaf } c.buf span.1 span.2 with
      | some _ => (some 2, s)
      | none =>
        let s := (rowTouches c c.src).foldl (fun s t => walkTouched s part t.va) s
        match unitPages s part false true false (copyTypes false .copy) (rowTouches c c.src) with
        | .error _ => (some 3, s)
        | .ok ps =>
          let ps := distinct ps
          if (glazeElemFault s c c.src ps false).isSome ∨ 256 < ps.length then (some 3, s)
          else
            let rc : RcEntry := { ticket := c.ticket, hand := 512 + g, sq := .l, tag := Tag.empty, what := .cmd,
                                  ranges := if c.count = 0 then [] else [rangeOf { Hand.reset with bound := c.leaf } c.buf span.1 span.2 true] }
            (none, { modEasel s (easelNo g) (fun e => { e with copyQ := e.copyQ ++ [{ c with pages := ps }], rc := e.rc ++ [rc] }) with
                     nextId := s.nextId + 1 })

/-- Prefetches issued in list order until one cannot be. -/
def prefetchAll (part g : Nat) (x : Slot) (bs : List Byte) (s : State) : List Nat → State
  | [] => s
  | i :: r => match onePrefetch s part g x ((bs.drop (32 * i)).take 32) with
    | (some st, s) => prefetchFault s g x.order st
    | (none, s) => prefetchAll part g x bs s r

/-- Jobs spilled for a pre-empted leaf set to be restored (R339). -/
def restoreJobs (s : State) (g : Nat) (leaf : Option Bound) : State :=
  match savedOf s g leaf with
  | none => s
  | some p => p.jobs.foldl (fun s cx => modCtx s cx (fun c => if c.state = .spilled then { c with state := .restoring } else c)) s

/-- Whether the controller can read a prefetch list, and what its entries need, now: channels take the accesses, and the die cache has
room for all their lines. -/
def listOpen (s : State) (g : Nat) (x : Slot) (va : Nat) (ps : List Page) (len : Nat) : Bool :=
  let part := handPart s g
  let d := dieNo g
  let l := List.zip (splitRange va len) ps
  let bs := (spanRead s d part ps va len).1
  let es := (List.range (len / 32)).map (fun i => (bs.drop (32 * i)).take 32)
  unitsOpen s ((splitRange va len).flatMap (fun t => unitTables s part t.va)) &&
  l.all (fun (t, p) => canReach s .unit d false p.kind p.ptype (physOf p t.va) t.len) &&
  linesRoom s d (l.flatMap (fun (t, p) => linesVia d p.kind p.ptype (physOf p t.va) t.len) ++ es.flatMap (prefetchLines s part g)) &&
  es.all (fun b => unitOpen s part (entryTsr b) 128 && unitsOpen s (prefetchTables s part g x b))

/-- What keeps it waiting there. -/
def listKnock (s : State) (g : Nat) (x : Slot) (va : Nat) (ps : List Page) (len : Nat) : State :=
  let part := handPart s g
  let bs := (spanRead s (dieNo g) part ps va len).1
  (List.range (len / 32)).foldl (fun t i =>
    let b := (bs.drop (32 * i)).take 32
    unitsKnock (unitKnock t part (entryTsr b) 128) (prefetchTables s part g x b)) (unitKnock s part va len)

/-- PREFETCH (R59): PLACED becomes FETCHING once the hand is idle or its leaf's windows are disjoint. The prefetch list is
read through the die cache (R158) and its copies are issued; bad says that the read meets an uncorrectable memory error (R26). A leaf
without prefetches, as a resumed one is, is RESIDENT at once. -/
def execPrefetch (hand : Subject Bool) (s : State) : Res :=
  let g := hand.no
  match waitingSlot s g with
  | none => .next s
  | some x =>
    let part := handPart s g
    let clear : Bool := match (handOf s g).bound with
      | none => true
      | some b => windowsApart b.windows x.windows
    if x.state ≠ .placed ∨ ¬clear ∨ stopping s g then .next s
    else if x.resume then .next (setSlot s g { x with state := .resident })
    else if blocked s g x.windows ∨ reserved s g then .next s
    else match launchOf s x.launch with
    | none => .next s
    | some l =>
      let n := nodeOf l ((l.tasks[x.task]?.map (·.node)).getD 0)
      let k := ndPref n
      let s' := setSlot s g { x with state := .fetching }
      if k = 0 then .next (setSlot s g { x with state := .resident })
      else if 64 < (easelOf s (easelNo g)).copyQ.length + k ∨ 128 < (easelOf s (easelNo g)).rc.length + k then .next s
      else
        let va := fld n 511 448
        let d := dieNo g
        match unitPages s part false true false dataTypes (splitRange va (32 * k)) with
        | .error _ => .next (prefetchFault s' g x.order 3)
        | .ok ps =>
          if ¬listOpen s g x va ps (32 * k) then .next (listKnock s g x va ps (32 * k))
          else if hand.bad then .next (prefetchFault (emit s' (.log 13 (mcInfo ((ps.head?.map (·.pbase)).getD 0 / 4096) 7).toNat)) g x.order 3)
          else
            let (bs, s') := spanRead ((splitRange va (32 * k)).foldl (fun s t => walkTouched s part t.va) s') d part ps va (32 * k)
            .next (prefetchAll part g x bs s' (List.range k))

/-! ### Binding (R25, R58, R59, R339) -/

/-- Whether an entry is RESIDENT: fetched, with no prefetch of its still to complete. -/
def residentSlot (s : State) (g : Nat) (x : Slot) : Bool :=
  x.state == .resident || (x.state == .fetching &&
    !((easelOf s (easelNo g)).copyQ.any (fun c => c.kind == .prefetch g x.order)))

/-- The indices of a leaf at each level (R21, R25, R54): LVL0 varies fastest; a mesh level holds DEVRANK. -/
def levelIndices (l : Launch) (j : Nat) : List (BitVec 24) :=
  (List.range 8).map (fun i =>
    if l.levels.length ≤ i then 0
    else
      let w := l.levels.getD i 0
      if lvDomain w = 6 then BitVec.ofNat 24 (hdRank l.header) else BitVec.ofNat 24 (j / instSize l.levels i % lvCount w))

/-- A sequencer at bind (R25). -/
def startSeq (n : BitVec 512) (q : SeqId) : Seqr :=
  let e := ndEntry n (seqNo q)
  if bits e 31 31 = 0 then Seqr.reset
  else
    let p : Ptr := { line := (bits e 23 0 : Nat), slot := 1 }
    { Seqr.reset with regs := [(1, n.extractLsb' 128 64), (2, n.extractLsb' 192 64)], pc := p, led := p, status := .run }

/-- A hand as R25 leaves it. -/
def freshHand (s : State) (g : Nat) (x : Slot) (l : Launch) (n : BitVec 512) : Hand :=
  let p := partOf s (handPart s g)
  { Hand.reset with
    bound := some (slotLeaf s x), lvl := levelIndices l x.leaf, x := startSeq n .x, l := startSeq n .l, c := startSeq n .c, s := startSeq n .s
    tvec := p.tvec, waitlim := p.waitlim, lbound := p.lbound, tlb := (handOf s g).tlb }

/-- Whether an acquire at a task's readiness has package or system scope (R29, R173). -/
def wideAcquire (l : Launch) (t : Task) : Bool :=
  (acquireScopes l t (predsOf l t) (fun e x => edgeLive l e x || egInst e)).any (fun n => decide (4 ≤ n))

/-- Whether every job spilled for a pre-empted leaf has been restored or has ended. -/
def jobsBack (s : State) (p : Preempt) : Bool :=
  p.jobs.all (fun cx => (ctxOf s cx).state != .restoring && (ctxOf s cx).state != .spilled)

/-- The saved copies of a pre-empted leaf, with their range-checker entries, and its saved commands in their order, in their queues
again. -/
def requeue (s : State) (g : Nat) (p : Preempt) : State :=
  let e := easelNo g
  let s := p.copies.foldl (fun s (c : CopyCmd × List BufRange) =>
    modEasel s e (fun y => { y with
      copyQ := y.copyQ ++ [c.1]
      rc := if c.1.kind = .command ∨ c.1.kind = .global then y.rc else y.rc ++ [{ ticket := c.1.ticket, hand := g, sq := c.1.sq, tag := c.1.tag, what := .cmd, ranges := c.2 }] })) s
  p.cmds.foldl (fun s (c : Nat × EngCmd) =>
    modEasel s e (fun y => match c.1 with
      | 0 => { y with frescoQ := y.frescoQ ++ [c.2] }
      | 1 => { y with collQ := y.collQ ++ [c.2] }
      | 2 => { y with glazeQ := y.glazeQ ++ [c.2] }
      | _ => { y with syncQ := y.syncQ ++ [c.2] })) s

/-- The context of a pre-empted leaf restored (R339): its fields, its remaining copies with their range-checker entries, and
its commands in their order. Its sequencers fetch their lines anew (R367). -/
def restoreHand (s : State) (g : Nat) (p : Preempt) (leaf : Nat) : State :=
  let s := setHand s g { p.image with tlb := (handOf s g).tlb }
  let s := { s with preempts := s.preempts.filter (fun x => !(x.1 == g && x.2.order == p.order)) }
  let s := requeue s g p
  let s := modHand s g (fun h => allSeqs.foldl (fun h q => modSeq h q (fun z => { z with line := none, stall := 0, since := none })) h)
  drainPushes (trace s g 5 .x (BitVec.ofNat 64 leaf) 0) g

/-- Whether an entry can be bound now: RESIDENT, its hand idle, its jobs restored, its launch not cut. -/
def bindable (s : State) (g : Nat) (x : Slot) : Bool :=
  residentSlot s g x && (handOf s g).bound.isNone && !stopping s g && schedUp s &&
  (match launchOf s x.launch with
   | some l => !l.cut
   | none => false) &&
  (if x.resume then (savedOf s g (some (slotLeaf s x))).any (jobsBack s) else !blocked s g x.windows && !reserved s g)

/-- Whether a resumed leaf that could be bound waits for jobs that have still to be told to restore. -/
def jobsOwed (s : State) (g : Nat) (x : Slot) : Bool :=
  x.resume && residentSlot s g x && (handOf s g).bound.isNone &&
  (savedOf s g (some (slotLeaf s x))).any (fun p => p.jobs.any (fun cx => (ctxOf s cx).state == .spilled))

/-- A leaf bound (R25, R59): RESIDENT becomes BOUND, the easel's instruction cache discards the code image (R367), with the acquire of
its predecessors at its die, and a stop of KIND 3 before any sequencer starts (R348). -/
def bindLeaf (s : State) (g : Nat) (x : Slot) : State :=
  match launchOf s x.launch with
  | none => s
  | some l =>
    match l.tasks[x.task]? with
    | none => s
    | some t =>
      let s := setSlot s g { x with state := .bound }
      let s := { s with slots := tput s.slots g ((slotsOf s g).map (fun y => if y.order = x.order then { y with order := s.nextId } else y)),
                        nextId := s.nextId + 1 }
      let code := fun (va : Nat) => decide (hdCode l.header ≤ va) && decide (va < hdCode l.header + 64 * hdLen l.header)
      let s := modEasel s (easelNo g) (fun e => { e with icache := e.icache.filter (fun y => !code y.1) })
      match (if x.resume then savedOf s g (some (slotLeaf s x)) else none) with
      | some p => stopIf (restoreHand s g p x.leaf) g 3 none
      | none =>
        let s := if wideAcquire l t then discardClean s (dieNo g) else s
        let s := setHand s g (freshHand s g x l (nodeOf l t.node))
        stopIf (trace s g 1 .x (BitVec.ofNat 64 x.leaf) (BitVec.ofNat 64 l.entry)) g 3 none

/-- LEAF_BIND (R59): a leaf that belongs to no gang; the jobs of one that resumes are restored first (R339). -/
def execLeafBind (g : Nat) (s : State) : Res :=
  match waitingSlot s g with
  | none => .next s
  | some x =>
    if x.gang.isSome then .next s
    else if jobsOwed s g x then .next (restoreJobs s g (some (slotLeaf s x)))
    else if ¬bindable s g x then .next s
    else .next (bindLeaf s g x)

/-- GANG_START (R58): once every leaf of the instance of the entry numbered gang is RESIDENT, a start at least 64 ns ahead is
chosen; when TIME reaches it and every hand is idle, all leaves of the instance are bound in one step. -/
def execGangStart (ln gang : Nat) (s : State) : Res :=
  let all := s.slots.flatMap (fun e => (e.2.filter (fun x => x.state != .bound)).map (fun x => (e.1, x)))
  match all.find? (fun e => e.2.launch == ln && e.2.order == gang && e.2.gang.isSome) with
  | none => .next s
  | some (_, y) =>
    let members := all.filter (fun e => e.2.launch == ln && e.2.task == y.task && e.2.gang == y.gang)
    if members.any (fun e => !residentSlot s e.1 e.2) then .next s
    else if members.any (fun e => jobsOwed s e.1 e.2) then
      .next (members.foldl (fun s e => if e.2.resume then restoreJobs s e.1 (some (slotLeaf s e.2)) else s) s)
    else match y.start with
    | none => .next (members.foldl (fun s e => setSlot s e.1 { e.2 with start := some (s.time.toNat + 64) }) s)
    | some t =>
      if s.time.toNat < t ∨ members.any (fun e => !bindable s e.1 e.2) then .next s
      else .next (members.foldl (fun s e => bindLeaf s e.1 e.2) s)

end Sys2Proof.Machine
end

