-- ==== Sys2Proof/Machine/Retire.lean ====
section
/-! DEFINITION. The end of a leaf, of a task and of a launch (R342-R344, R50, R173), and the save of a pre-empted hand
(R336-R338). -/

namespace Sys2Proof.Machine

/-- Whether the scheduler ends tasks and launches: it works, and no suspend has reached its save (R360, R361). -/
def schedEnds (s : State) : Bool := bit s.pkg.ready 51 && (decide (s.pkg.phase ≤ 1) || s.pkg.phase == 5)

/-! ### Retirement (R342) -/

/-- Whether MMA or MMAG commands of a hand are waiting or running. -/
def muralLeft (s : State) (g : Nat) : Bool :=
  s.easels.any (fun e => e.2.mural.running.any (fun c => c.hand == g) || e.2.mural.queue.any (fun c => c.hand == g))

/-- Whether a range-checker entry is that of a copy of another leaf of the hand, one that an abort has taken up again. -/
def othersCopy (e : Easel) (g : Nat) (leaf : Option Bound) (ticket : Nat) : Bool :=
  e.copyQ.any (fun c => c.hand == g && c.leaf != leaf && c.ticket == ticket)

/-- The foreign records of a leaf's sequencers that its queued commands still name (R78): they outlive the leaf, as the commands do
(R342). -/
def leaveRecs (s : State) (g : Nat) (b : Bound) (h : Hand) : State :=
  let x := easelOf s (easelNo g)
  let tags := fun (q : SeqId) =>
    ((x.frescoQ ++ x.collQ ++ x.glazeQ ++ x.syncQ).filter (fun c => c.hand == g && c.leaf == some b && c.sq == q)).map (·.tag) ++
    (x.copyQ.filter (fun c => c.hand == g && c.leaf == some b && c.sq == q)).map (·.tag)
  let new := allSeqs.filterMap (fun q =>
    let fr := (seqOf h q).frecs
    if fr != [] && (tags q).any (fun t => t.frn != 0) then some ({ hand := g, leaf := b, sq := q, frecs := fr } : LeftRecs) else none)
  { s with left := new ++ s.left }

/-- Whether every ordering buffer of a hand is empty. -/
def obsEmpty (h : Hand) : Bool := allSeqs.all (fun q => (seqOf h q).ob == [])

/-- Whether every early result of a hand has been written (R73, R100): nothing is on its way to a register or a channel. -/
def lateOver (h : Hand) : Bool := allSeqs.all (fun q => (seqOf h q).late.all (fun x => x.due.isNone))

/-- Whether the work that a hand's leaf has issued is done, as far as retirement waits for it: pending landings, early results on their
way, ordering buffers, COPY, COPYX, DRAIN, MMA and MMAG, and the range checker. -/
def workOver (s : State) (g : Nat) (leaf : Option Bound) : Bool :=
  let h := handOf s g
  let e := easelOf s (easelNo g)
  h.landings == [] && lateOver h && obsEmpty h &&
  !(e.copyQ.any (fun c => c.hand == g && c.leaf == leaf && (c.kind == .inn || c.kind == .out || c.kind == .drain))) &&
  !muralLeft s g && !(e.rc.any (fun r => r.hand == g && some r.ticket != e.mural.spill && !othersCopy e g leaf r.ticket))

/-- A hand that no longer asks for the lease or a reservation. -/
def dropWaits (s : State) (g : Nat) : State :=
  modEasel (dropGroup s g) (easelNo g) (fun e => { e with mural := { e.mural with
    waits := tdel e.mural.waits (g % 4), expired := e.mural.expired.filter (fun h => h != g % 4) } })

/-- A leaf's end reported to the scheduler (R59, R344). -/
def leafEnded (s : State) (b : Bound) (g status : Nat) (h : Hand) : State :=
  let ds := if status = 4 ∨ status = 5 then [h.tcause.zeroExtend 64, h.tinfo, epcWord h] else [0, 0, 0]
  let s := modLaunch s b.launch (fun l =>
    let node := (l.tasks[b.task]?.map (·.node)).getD 0
    let l := noteStatus l status node (if status = 4 ∨ status = 5 then g else 0) ds
    { l with tasks := lmod l.tasks b.task (fun t => { t with retired := b.leaf :: t.retired }) })
  settleGraph s b.launch

/-- A pre-empted leaf that an abort ends (R342): once the copies it has issued have completed, its saved context is dropped. -/
def endSaved (s : State) (g : Nat) (p : Preempt) : State :=
  let s := match p.leaf with
    | some b => leaveRecs s g b p.image
    | none => s
  let s := { s with
    preempts := s.preempts.filter (fun e => !(e.1 == g && e.2.order == p.order))
    pushes := tput s.pushes g ((tget [] s.pushes g).filter (fun x => x.leaf != p.leaf))
    slots := tput s.slots g ((slotsOf s g).filter (fun x => !(x.resume && p.leaf == some (slotLeaf s x)))) }
  match p.leaf with
  | some b => leafEnded (traceLeaf s g p.leaf 2 .x (BitVec.ofNat 64 b.leaf) 6) b g 6 p.image
  | none => s

/-- The pre-empted leaf of a hand that an abort ends, if one is ready to. -/
def savedOver (s : State) (g : Nat) : Option Preempt :=
  (s.preempts.find? (fun e => e.1 == g && e.2.saved && e.2.image.ending.isSome &&
    !((easelOf s (easelNo g)).copyQ.any (fun c => c.hand == g && c.leaf == e.2.leaf && (c.kind == .inn || c.kind == .out || c.kind == .drain))))).map (·.2)

/-- LEAF_RETIRE (R342): a leaf whose sequencers have all halted, or which an abort or a double trap ends, once its work is
done. Channels, pending replies, held machine checks and supervisor state go with it; the hand is free. An aborted leaf whose context
is saved ends so as well. -/
def execLeafRetire (g : Nat) (s : State) : Res :=
  match savedOver s g, (handOf s g).bound with
  | some p, _ => .next (endSaved s g p)
  | none, none => .next s
  | none, some b =>
    let s0 := s
    let s := if (handOf s g).ending.isSome then allSeqs.foldl (fun s q => withdraw s g q isBwait) s else s
    let h := handOf s g
    if stopping s g ∨ (h.ending.isNone ∧ allSeqs.any (fun q => (seqOf h q).status == .run)) ∨ ¬workOver s g (some b) then .next s0
    else
      let status := h.ending.getD 0
      let s := leaveRecs (trace s g 2 .x (BitVec.ofNat 64 b.leaf) (BitVec.ofNat 64 status)) g b h
      let s := dropLease (dropWaits s g) g true
      let s := setHand s g { Hand.reset with tlb := (handOf s g).tlb }
      let s := { s with
        pushes := tput s.pushes g ((tget [] s.pushes g).filter (fun p => p.leaf != some b))
        slots := tput s.slots g ((slotsOf s g).filter (fun x => x.state != .bound))
        cuts := s.cuts.map (fun c => { c with frozen := c.frozen.filter (fun x => x.1 != g) }) }
      .next (settleLease (leafEnded s b g status h) (easelNo g))

/-! ### Abort (R342, R319) -/

/-- Jobs that a pre-emption spilled, or was about to, as their leaf ends instead: spilled ones, and ones whose rows are being saved or
restored, end with KIND 3, the others run on, but for one whose spill an FRSPL has joined, which goes on for that (R325). -/
def endSpilled (s : State) (g : Nat) (leaf : Option Bound) : State :=
  (ctxsOf s g leaf (fun c => c.spiller == 2)).foldl (fun s cx =>
    if (ctxOf s cx).state = .spilled ∨ (ctxOf s cx).state = .restoring ∨ ((ctxOf s cx).drained ∧ (ctxOf s cx).phase ≠ 0) then endJob s cx 0 3
    else if frWaiting s (phSpill cx) ≠ [] then modCtx s cx (fun c => { c with spiller := 1 })
    else modCtx s cx (fun c => { c with spiller := 0, drained := false, state := if c.state = .draining then .running else c.state })) s

/-- A bound leaf aborted: its sequencers stop, and a pre-emption under way is given up. -/
def abortBound (s : State) (g : Nat) : State :=
  let leaf := (handOf s g).bound
  let s := allSeqs.foldl (fun s q => withdraw s g q isBwait) s
  let s := { s with preempts := s.preempts.filter (fun e => !(e.1 == g && !e.2.saved)) }
  let s := endSpilled s g leaf
  modHand s g (fun h =>
    if h.ending.isSome then h
    else { h with ending := some 6, x := { haltSeq h.x with frozen := false }, l := { haltSeq h.l with frozen := false },
                  c := { haltSeq h.c with frozen := false }, s := { haltSeq h.s with frozen := false } })

/-- A pre-empted leaf aborted (R342): it resumes no more, its saved copies are taken up again to complete before it ends, and its
saved commands run on. -/
def abortSaved (s : State) (g : Nat) (leaf : Option Bound) : State :=
  match savedOf s g leaf with
  | none => s
  | some p =>
    let s := { requeue s g p with slots := tput s.slots g ((slotsOf s g).filter (fun x => !(x.resume && leaf == some (slotLeaf s x)))) }
    let s := modSaved s (fun g' => g' == g) (fun y => if y.order = p.order then
      { y with copies := [], cmds := [], image := { y.image with ending := some (y.image.ending.getD 6) } } else y)
    endSpilled s g leaf

/-- LEAF_ABORT (R342): the leaf on a hand, or else the leaf whose context is saved for it; or every leaf of its launch, whose
leaves that are not yet bound are never bound. -/
def execLeafAbort (g : Nat) (whole : Bool) (s : State) : Res :=
  asked s <|
  let leaf : Option Bound := match (handOf s g).bound with
    | some b => some b
    | none => (s.preempts.find? (fun e => e.1 == g && e.2.saved)).bind (fun e => e.2.leaf)
  match leaf with
  | none => .next s
  | some b =>
    if ¬whole then .next (if (handOf s g).bound.isSome then abortBound s g else abortSaved s g leaf)
    else
      let s := modLaunch s b.launch (fun l =>
        let l := noteStatus l 6 ((l.tasks[b.task]?.map (·.node)).getD 0) 0 [0, 0, 0]
        { l with tasks := l.tasks.map (fun t => if taskEnded t then t else { t with stopped := true, exited := true }) })
      let n := ((launchOf s b.launch).map (fun l => l.tasks.length)).getD 0
      let s := (List.range n).foldl (fun s tk => withdrawSlots s b.launch tk) s
      let mine := fun (x : Option Bound) => match x with
        | some y => y.launch == b.launch
        | none => false
      let live := (s.hands.filter (fun e => mine e.2.bound)).map (·.1)
      let kept := (s.preempts.filter (fun e => e.2.saved && mine e.2.leaf)).map (fun e => (e.1, e.2.leaf))
      .next (kept.foldl (fun s x => abortSaved s x.1 x.2) (live.foldl abortBound s))

/-! ### The end of a task and of a launch (R50, R51, R343) -/

/-- Whether a kernel task still has a leaf placed, bound or pre-empted. -/
def leavesLeft (s : State) (ln tk : Nat) : Bool :=
  let mine := fun (x : Option Bound) => match x with
    | some y => y.launch == ln && y.task == tk
    | none => false
  s.slots.any (fun e => e.2.any (fun x => x.launch == ln && x.task == tk)) || s.hands.any (fun e => mine e.2.bound) ||
  s.preempts.any (fun e => mine e.2.leaf)

/-- The tasks of a loop task's body, at every depth. -/
def bodyTasks (l : Launch) (t : Task) : List Nat :=
  let b := bodyOf l.edges l.nodes.length t.node
  (List.range l.tasks.length).filter (fun i => l.tasks[i]?.any (fun x => b.contains x.node && x.iter.take t.iter.length == t.iter))

/-- Whether a task's work is done and its release performed (R50): a loop's covers all that its body has done (R22, R173). -/
def taskDone (s : State) (l : Launch) (ln tk : Nat) (t : Task) : Bool :=
  let n := nodeOf l t.node
  let total := leafTotal l.levels
  match ndKind n with
  | 0 => (t.stopped || t.placed == total) && !leavesLeft s ln tk &&
      released s l ln tk 0 total ((l.levels.map lvScope).foldl max (ndScope n))
  | 5 => t.exited && (List.range t.iters).all (fun j => iterationDone l t j) &&
      (bodyTasks l t).all (fun i => released s l ln i 0 total (ndScope n))
  | 4 => false
  | 6 => false
  | _ => t.retired != [] && released s l ln tk 0 1 (ndScope n)

/-- NODE_COMPLETION (R50): a task whose work is done and whose release is performed completes; its status is noted, and its
successors become ready and are started. -/
def execNodeCompletion (ln tk : Nat) (s : State) : Res :=
  match launchOf s ln with
  | none => .next s
  | some l =>
    match l.tasks[tk]? with
    | none => .next s
    | some t =>
      if ¬schedEnds s ∨ (t.state ≠ .running ∧ t.state ≠ .ready) ∨ ¬taskDone s l ln tk t then .next s
      else .next (settleGraph (modLaunch s ln (fun l =>
        let l := noteStatus l t.status t.node t.detail [0, t.detail1, 0]
        { l with tasks := lmod l.tasks tk (fun t => { t with state := .complete }) })) ln)

/-- A launch forgotten once its record stands. -/
def launchOver (s : State) (ln : Nat) : State := { s with launches := tdel s.launches ln, cuts := s.cuts.filter (fun c => c.launch != ln) }

/-- Bytes 8-63 of a record written at the queue's ring, its first word to follow; where that cannot be, the queue halts and the launch
is over (R44). -/
def recordRing (s : State) (ln : Nat) (l : Launch) (bad : List Nat) (bs : List Byte) : State :=
  let halted := haltLogged (launchOver s ln) l.queue ((queueOf s l.queue).count % 64)
  if bad.contains badRing then halted
  else match unitWrite s (qPart (queueOf s l.queue).desc) false dataTypes (ringAt s l.queue + 8) (bs.drop 8) with
  | .error _ => halted
  | .ok s => modLaunch s ln (fun l => { l with posted := some (true, ringAt s l.queue, bs) })

/-- Bytes 8-63 of a record written at COMPVA, or at the ring where that fails. -/
def recordBody (s : State) (ln : Nat) (l : Launch) (bad : List Nat) (bs : List Byte) : State :=
  if bad.contains badComp then recordRing s ln l bad bs
  else match unitWrite s l.part false dataTypes (hdComp l.header + 8) (bs.drop 8) with
  | .error _ => recordRing s ln l bad bs
  | .ok s => modLaunch s ln (fun x => { x with posted := some (false, hdComp l.header, bs) })

/-- Bytes 0-7 of a record, written last (R343). -/
def recordHead (s : State) (ln : Nat) (l : Launch) (bad : List Nat) (ring : Bool) (va : Nat) (bs : List Byte) : State :=
  let p := if ring then qPart (queueOf s l.queue).desc else l.part
  let fails := if ring then haltLogged (launchOver s ln) l.queue ((queueOf s l.queue).count % 64) else recordRing s ln l bad bs
  if bad.contains (if ring then badRing else badComp) then fails
  else match unitWrite s p false dataTypes va (bs.take 8) with
  | .error _ => fails
  | .ok s => launchOver (if ring then modQueue s l.queue (fun y => { y with count := y.count + 1 }) else s) ln

/-- Whether the channels of a launch's record, and of its queue's next one, take writes now; a record half written in the ring has its
place. -/
def recordOpen (s : State) (l : Launch) : Bool :=
  match l.posted with
  | some (true, va, _) => unitOpen s (qPart (queueOf s l.queue).desc) va 8
  | _ => unitOpen s l.part (hdComp l.header) 64 && ringOpen s l.queue

/-- LAUNCH_COMPLETION_RECORD (R343): once every task has ended and every release is performed at system scope, the record is written
at COMPVA, or at the queue's ring where that fails (R44): bytes 8-63 first, then bytes 0-7. The launch is then forgotten. bad says which
of these writes meet an uncorrectable memory error. -/
def execLaunchCompletionRecord (launch : Subject (List Nat)) (s : State) : Res :=
  let ln := launch.no
  match launchOf s ln with
  | none => .next s
  | some l =>
    let dies := ((l.units.filter (fun u => u.2.1 == 0)).map (fun u => dieNo u.2.2.2)).eraseDups
    if ¬schedEnds s ∨ l.tasks.any (fun t => !taskEnded t) ∨ dies.any (anyDirty s) then .next s
    else if ¬recordOpen s l then .next (unitKnock (ringKnock s l.queue) l.part (hdComp l.header) 64)
    else match l.posted with
    | some (ring, va, bs) => .next (recordHead s ln l launch.bad ring va bs)
    | none => .next (recordBody s ln l launch.bad (recordBytes l.status l.detail l.node l.queue (BitVec.ofNat 64 l.va) l.cookie l.tstart s.time
        (l.dwords.getD 0 0) (l.dwords.getD 1 0) (l.dwords.getD 2 0)))

/-! ### The save of a pre-empted hand (R336-R338) -/

/-- Whether a foreign record of the hand names a sequencer of another hand (R336). -/
def foreignLeft (h : Hand) (g : Nat) : Bool :=
  allSeqs.any (fun q => (seqOf h q).frecs.any (fun e => e.2.hand != g % 4 && !termEmpty e.2))

/-- The copies of a hand's leaf that a pre-emption saves. -/
def savedCopies (s : State) (g : Nat) (leaf : Option Bound) : List CopyCmd :=
  (easelOf s (easelNo g)).copyQ.filter (fun c => c.hand == g && c.leaf == leaf && stoppable c && (!c.started || atSegment c))

/-- Whether the hand's work stands where R336 and R337 ask, but for its lease. A job that has not begun is saved unstarted. -/
def quiet (s : State) (g : Nat) (leaf : Option Bound) : Bool :=
  let h := handOf s g
  let e := easelOf s (easelNo g)
  let saved := (savedCopies s g leaf).map (·.ticket)
  let rest := e.copyQ.filter (fun c => c.hand == g && c.leaf == leaf && !saved.contains c.ticket)
  obsEmpty h && !foreignLeft h g && lateOver h &&
  rest.all (fun c => c.kind == .global) && !muralLeft s g &&
  e.rc.all (fun r => r.hand != g || saved.contains r.ticket || some r.ticket == e.mural.spill || othersCopy e g leaf r.ticket) &&
  ctxsOf s g leaf (fun c => (ctxLive c && c.begun) || c.state == .restoring) == []

/-- The value of a landing as its image entry holds it in its low bytes. -/
def landingBytes (l : Landing) : List Byte :=
  match l.what with
  | .scalar _ v => bytesOfNat 8 v.toNat
  | .chan _ v => bytesOfNat 8 v.toNat
  | .vec _ v _ => v.flatMap (fun x => bytesOfNat 4 x.toNat)
  | .pred _ v _ => bytesOfNat 128 v.toNat

/-- The 208 KiB context image (R338): VREG, LVAL, PREG, the values of CHAN and SREG as the table lays them out; the bytes that it leaves
open, and the fields that it gives only in words, are free. -/
def contextBytes (h : Hand) (n : Nat) : List Byte :=
  let free := fun (lo len : Nat) => (List.range len).map (fun i => Config.freeByte n (lo + i))
  let lval := fun (i : Nat) => match h.landings[i]? with
    | some l => landingBytes l ++ free (0x20000 + 4096 * i + (landingBytes l).length) (4096 - (landingBytes l).length)
    | none => free (0x20000 + 4096 * i) 4096
  let entry := fun (c i : Nat) =>
    (match (chanList h c)[i]?.bind (·.val) with
     | some v => bytesOfNat 8 v.toNat
     | none => free (0x31000 + 256 * c + 16 * i) 8) ++ free (0x31008 + 256 * c + 16 * i) 8
  (List.range 32).flatMap (fun r => (vget h r).flatMap (fun x => bytesOfNat 4 x.toNat)) ++
  (List.range 16).flatMap lval ++
  (List.range 32).flatMap (fun r => bytesOfNat 128 (pget h r).toNat) ++
  (List.range 16).flatMap (fun c => (List.range 16).flatMap (entry c)) ++
  allSeqs.flatMap (fun q => (List.range 32).flatMap (fun r => bytesOfNat 8 (regGet (seqOf h q) (BitVec.ofNat 5 r)).toNat)) ++
  free 0x32400 0x1C00

/-- The saved commands of an engine queue: those of the leaf that have not been presented. -/
def queuedCmds (l : List EngCmd) (g : Nat) (leaf : Option Bound) : List EngCmd := l.filter (fun c => c.hand == g && c.leaf == leaf && c.phase == 0)

/-- Jobs of a leaf that have not begun become queued commands again (R337): their contexts are free, and a spill asked of one finds it
idle. One that an FRST has aborted ends. -/
def unstart (s : State) (g : Nat) (leaf : Option Bound) : State :=
  (ctxsOf s g leaf (fun c => ctxLive c && !c.begun)).foldl (fun s cx =>
    if (ctxOf s cx).abort then endJob (frAnswerAll s (phStart cx) 0 cx) cx 0 3
    else
      let s := frStatusAll (modCtx s cx (fun _ => Context.reset)) (phSpill cx) 4
      modEasel s (easelNo g) (fun e => { e with frescoQ := e.frescoQ.map (fun y => if y.phase = phStart cx then { y with phase := 0 } else y) })) s

/-- A pre-emption given up because the image cannot be written: it is reported, and the leaf runs on (R338). Its stalls have not
counted the time that it stood stopped (R270). -/
def abandonSave (s : State) (g : Nat) (leaf : Option Bound) : State :=
  let since := ((s.preempts.find? (fun e => e.1 == g && !e.2.saved)).map (·.2.time)).getD s.time.toNat
  let s := modHand s g (fun h => stallsShift h (s.time.toNat - since))
  let s := { s with preempts := s.preempts.filter (fun e => !(e.1 == g && !e.2.saved)) }
  let s := (ctxsOf s g leaf (fun c => c.spiller == 2 && c.state == .spilled)).foldl (fun s cx => modCtx s cx (fun c => { c with state := .restoring })) s
  drainPushes (emit s (.log 8 g)) g

/-- A quiesced hand saved: its image, its stopped and waiting commands, its spilled jobs. The W of its task restarts at the pre-emption
(R53). -/
def saveHand (s : State) (g : Nat) (p : Preempt) (b : Bound) : State :=
  let e := easelNo g
  let copies := savedCopies s g (some b)
  let ranges := fun (c : CopyCmd) => ((easelOf s e).rc.filter (fun r => r.ticket == c.ticket)).flatMap (·.ranges)
  let x := easelOf s e
  let qs : List (Nat × EngCmd) :=
    (queuedCmds x.frescoQ g (some b)).map (fun c => (0, c)) ++ (queuedCmds x.collQ g (some b)).map (fun c => (1, c)) ++
    (queuedCmds x.glazeQ g (some b)).map (fun c => (2, c)) ++ (queuedCmds x.syncQ g (some b)).map (fun c => (3, c))
  let gone := fun (l : List EngCmd) => l.filter (fun c => !(c.hand == g && c.leaf == some b && c.phase == 0))
  let saved : Preempt := { p with saved := true, copies := copies.map (fun c => (c, ranges c)), cmds := qs,
                                  jobs := ctxsOf s g (some b) (fun c => c.spiller == 2 && c.state == .spilled) }
  let s := trace s g 4 .x (BitVec.ofNat 64 b.leaf) (BitVec.ofNat 64 (0x34000 * g))
  let s := modEasel s e (fun y => { y with
    copyQ := y.copyQ.filter (fun c => !copies.any (fun z => z.ticket == c.ticket))
    rc := y.rc.filter (fun r => !copies.any (fun z => z.ticket == r.ticket))
    frescoQ := gone y.frescoQ, collQ := gone y.collQ, glazeQ := gone y.glazeQ, syncQ := gone y.syncQ })
  let s := allSeqs.foldl (fun s q => dropWalks s g q) (dropWaits s g)
  let saved := { saved with image := handOf s g }
  let s := modTask s b.launch b.task (fun t => { t with readyAt := max t.readyAt p.time })
  let s := { s with
    preempts := s.preempts.map (fun x => if x.1 = g ∧ ¬x.2.saved then (g, saved) else x)
    slots := tput s.slots g ((slotsOf s g).filter (fun x => x.state != .bound)) }
  settleLease (setHand s g { Hand.reset with tlb := (handOf s g).tlb }) e

/-- PREEMPTION_SAVE (R336-R338): once the hand is quiet its lease is given up, one that its own group request has put aside among them,
an open chain being spilled first; once the lease is free its jobs that have not begun are commands again, the image is written and
the hand is idle. -/
def execPreemptionSave (g : Nat) (s : State) : Res :=
  match s.preempts.find? (fun e => e.1 == g && !e.2.saved), (handOf s g).bound with
  | some (_, p), some b =>
    let m := (easelOf s (easelNo g)).mural
    let part := handPart s g
    if ¬quiet s g (some b) ∨ m.spill.isSome ∧ m.holder = g % 4 then .next s
    else if ((m.lease = .held ∨ m.lease = .spilling) ∧ m.holder = g % 4) ∨ (m.lease = .group ∧ m.back.any (fun x => x.1 == g % 4)) then .next (dropLease s g false)
    else match (partOf s part).saveVa with
    | none => .next (abandonSave s g (some b))
    | some va =>
      if ¬unitOpen s part (va + 0x34000 * g) 0x34000 then .next (unitKnock s part (va + 0x34000 * g) 0x34000)
      else
        let u := unstart s g (some b)
        match unitWrite u part true [.normal] (va + 0x34000 * g) (contextBytes (handOf u g) u.fresh) with
        | .error _ => .next (abandonSave s g (some b))
        | .ok t => .next (saveHand { t with fresh := u.fresh + 1 } g p b)
  | _, _ => .next s

end Sys2Proof.Machine
end

