-- ==== Sys2Proof/Machine/Observe.lean ====
section
/-! DEFINITION. Observing the device (R348-R356) and the supervisor's settings: stops and cuts, the trace ring, latches,
snapshots, and counters for guests. -/

namespace Sys2Proof.Machine

/-! ### Settings -/

/-- MC_REGISTER_WRITE: a setting of a partition (R123, R224, R269, R271, R331, R338, R351, R356), or LPER (R353). A value
outside its range is refused. -/
def execMcRegisterWrite (p : Nat) (w : McSetting) (s : State) : Res :=
  asked s <| let set := fun (ok : Bool) (f : Part → Part) => if ok then Host.Outcome.next (modPart s p f) else Host.Outcome.next (emit s (.refused 11))
  match w with
  | .rootTable pa => set (decide (pa % 128 = 0)) (fun x => { x with root := pa })
  | .trapVector v => set (fld v 63 28 == 0) (fun x => { x with tvec := v.setWidth 28 })
  | .waitLimit us => set true (fun x => { x with waitlim := BitVec.ofNat 24 (max 1000 (min 10000000 us)) })
  | .leaseBound ns => set true (fun x => { x with lbound := BitVec.ofNat 32 (max 1000 (min 1000000 ns)) })
  | .saveArea va => set (decide (va % 4096 = 0)) (fun x => { x with saveVa := some va })
  | .hangArea va n => set (decide (va % 512 = 0) && decide (1 ≤ n) && decide (n ≤ 4096)) (fun x => { x with hang := some (va, n) })
  | .traceRing va n m =>
    set (decide (va % 4096 = 0) && [64, 128, 256, 512, 1024, 2048, 4096, 8192, 16384, 32768, 65536].contains n) (fun x => { x with trace := some (va, n, m) })
  | .traceRead r => set true (fun x => { x with traceRd := r })
  | .latchPeriod us =>
    if 1000 ≤ us ∧ us ≤ 10000000 then .next { s with pkg := { s.pkg with lper := us } } else .next (emit s (.refused 11))
  | .policy m q d => set (decide (q ≤ 20) && decide (d ≤ 1000000)) (fun x => { x with gmask := m, qshift := q, gdelay := d })

/-! ### Stops (R348-R350) -/

/-- A stop of KIND 0 taken by every hand of which a sequencer that is not frozen stands at it with its issue point. -/
def matchNow (s : State) (p : Nat) : State :=
  (partHands s p).foldl (fun s g => if ¬handLive s g then s
    else match allSeqs.find? (fun q => (sqOf s g q).status == .run && !(sqOf s g q).frozen && (stopMatch s g 0 (some q)).isSome) with
      | some q => stopIf s g 0 (some q)
      | none => s) s

/-- STOP_DESCRIPTOR_WRITE (R348): a reserved KIND or a non-zero zero field keeps the old descriptor. -/
def execStopDescriptorWrite (p k : Nat) (d : BitVec 128) (s : State) : Res :=
  asked s <| if 8 ≤ k ∨ 3 < fld d 3 1 ∨ fld d 127 100 ≠ 0 ∨ fld d 15 4 ≠ 0 then .next (emit s (.refused 12))
  else .next (matchNow (modPart s p (fun x => { x with stops := tput x.stops k d })) p)

/-- The cut that a hand's leaf belongs to. -/
def cutOf (s : State) (g : Nat) : Option Cut :=
  match (handOf s g).bound with
  | some b => s.cuts.find? (fun c => c.launch == b.launch)
  | none => none

/-- The save of a hand that a cut has frozen, asked for once (R350). -/
def askSave (s : State) (c : Cut) (g : Nat) : State :=
  if ¬c.save ∨ c.asked.contains g ∨ stopping s g then s
  else preemptOne { s with cuts := s.cuts.map (fun x => if x.launch = c.launch then { x with asked := g :: x.asked } else x) } 4 g

/-- CUT_FREEZE (R349): once TIME reaches T, a hand of the launch freezes at its issue points and writes its STOP record. With
SAVE the frozen hand's context is saved (R350). -/
def execCutFreeze (g : Nat) (s : State) : Res :=
  match cutOf s g with
  | none => .next s
  | some c =>
    let held := stopping s g
    if c.frozen.any (fun x => x.1 == g) then .next (askSave s c g)
    else if s.time.toNat < c.time ∨ held then .next s
    else
      let s := trace s g 7 .x (BitVec.ofNat 64 c.stop) ((ptrWord (issuePoint (sqOf s g .x))).zeroExtend 64)
      let s := { s with cuts := s.cuts.map (fun x => if x.launch = c.launch then { x with frozen := (g, s.time.toNat) :: x.frozen } else x) }
      .next (askSave s c g)

/-- A saved hand put back as it was, outside the scheduler's choice (R350, R362). -/
def reinstate (s : State) (g : Nat) (p : Preempt) : State :=
  match p.slot, p.leaf with
  | some x, some b => restoreHand { s with slots := tput s.slots g (slotsOf s g ++ [x]) } g p b.leaf
  | _, some b => restoreHand s g p b.leaf
  | _, none => s

/-- The hands whose saves a stop or a suspend asked for. -/
def heldFor (s : State) (who : Nat) (f : Bound → Bool) : List (Nat × Preempt) := s.preempts.filter (fun e => e.2.by_ == who && e.2.leaf.any f)

/-- Saved hands restored (R339): their jobs first, in steps of their own; once those are back, every hand in one step. None
while a save is under way. -/
def reinstateAll (s : State) (l : List (Nat × Preempt)) : Option State :=
  if l.any (fun e => !e.2.saved) then none
  else if l.any (fun e => e.2.jobs.any (fun cx => (ctxOf s cx).state == .spilled)) then some (l.foldl (fun s e => restoreJobs s e.1 e.2.leaf) s)
  else if l.any (fun e => !jobsBack s e.2) then none
  else some (l.foldl (fun s e => reinstate s e.1 e.2) s)

/-- The hands of a launch that runs on them. -/
def launchHands (s : State) (ln : Nat) : List Nat := (s.hands.filter (fun e => e.2.bound.any (fun b => b.launch == ln))).map (·.1)

/-- The hands frozen by a cut go on: the time that they were frozen, from their own stop or from T, does not count for the stall time-out
(R349). -/
def thaw (s : State) (c : Cut) : State :=
  (launchHands s c.launch).foldl (fun s g =>
    let t := min c.time (((c.frozen.find? (fun x => x.1 == g)).map (·.2)).getD c.time)
    modHand s g (fun h => stallsShift h (s.time.toNat - t))) s

/-- Whether a cut has been carried out so far as the time asks: from T on every hand of the launch is frozen with its record written, or is
being saved, and with SAVE the save of every frozen one has been asked for (R349, R350). -/
def cutMade (s : State) (c : Cut) : Bool :=
  (launchHands s c.launch).all (fun g =>
    let frozen := c.frozen.any (fun x => x.1 == g)
    (frozen || stopping s g || decide (s.time.toNat < c.time)) && (!(c.save && frozen) || c.asked.contains g || stopping s g))

/-- STOP_RESUME (R350): saved hands are restored, then every frozen hand of the launch goes on in one step. A cut that is still being made
is made first. -/
def execStopResume (ln : Nat) (s : State) : Res :=
  let l := heldFor s 4 (fun b => b.launch == ln)
  let cs := s.cuts.filter (fun c => c.launch == ln)
  if ¬mcUp s ∨ ¬cs.all (cutMade s) then .next s
  else match reinstateAll s l with
  | none => .next s
  | some t =>
    if heldFor t 4 (fun b => b.launch == ln) ≠ [] then .next t
    else .next { modLaunch (cs.foldl thaw t) ln (fun l => { l with cut := false }) with cuts := t.cuts.filter (fun c => c.launch != ln) }

/-! ### The trace ring (R351) -/

/-- A record taken by the trace arbiter of a partition. -/
def traceRecord (s : State) (p : Nat) (r : BitVec 256) : State :=
  match (partOf s p).trace with
  | none => s
  | some (va, n, m) =>
    if ¬bit m (fld r 23 16) then s
    else
      let k := (partOf s p).traceN
      let s := modPart s p (fun x => { x with traceN := k + 1 })
      let lost := modPart s p (fun x => { x with traceLost := x.traceLost + 1 })
      if n ≤ k - (partOf s p).traceRd then lost
      else match unitWrite s p true [.normal] (va + 32 * (k % n)) (bytesOfNat 32 r.toNat) with
      | .error _ => lost
      | .ok s => s

/-- A record taken by its partition's arbiter: any that has been sent, but those of one hand in their order. It waits while a channel
does not take the write. -/
def takeRecord (s : State) (ix : Nat) : State :=
  match s.traceQ[ix]? with
  | none => s
  | some (p, r) =>
    let at_ := (partOf s p).trace.map (fun t => t.1 + 32 * ((partOf s p).traceN % t.2.1))
    if (s.traceQ.take ix).any (fun e => e.1 == p && fld e.2 8 0 == fld r 8 0) then s
    else if ¬at_.all (fun a => unitOpen s p a 32) then unitKnock s p (at_.getD 0) 32
    else traceRecord { s with traceQ := s.traceQ.eraseIdx ix } p r

/-! ### Latches (R353) -/

/-- LATCH_REQUEST: a time that has passed is replaced by the current TIME. -/
def execLatchRequest (t : Word) (s : State) : Res :=
  asked s <| .next { s with pkg := { s.pkg with latches := s.pkg.latches ++ [if t.toNat ≤ s.time.toNat then s.time else t] } }

/-- The time of the controller's next latch of its own, once the controller runs. -/
def ownLatch (s : State) : Option Nat := if bit s.pkg.ready 0 && mcUp s then some (s.pkg.latchAt + 1000 * s.pkg.lper) else none

/-- Whether a latch is due. -/
def latchDue (s : State) : Bool :=
  (mcUp s && s.pkg.latches.any (fun t => decide (t.toNat ≤ s.time.toNat))) || (ownLatch s).any (fun t => decide (t ≤ s.time.toNat))

/-- Whether counter i of a group counts what only the schedule gives (R352): stall cycles and bubbles, mural busy and
range-checker full cycles, walk wait cycles, what ports carry, and corrected errors. -/
def isTally (gr i : Nat) : Bool :=
  match gr with
  | 0 => decide (1 ≤ i) && decide (i ≤ 17)
  | 1 => i == 0 || i == 4
  | 3 => i == 2
  | 4 => decide (i < 2 ^ 16)
  | 6 => decide (i < 2 ^ 16)
  | _ => false

/-- n occurrences counted: in a conflict matrix, where entry i of easel u saturates (R354), or in a counter of R352 that
only the schedule raises. -/
def tally (s : State) (gr u i n : Nat) : State :=
  if gr = 5 then
    if 128 ≤ u ∨ 480 ≤ i then s
    else modEasel s u (fun e => { e with conflict := tmod 0 e.conflict i (fun v => BitVec.ofNat 32 (min (2 ^ 32 - 1) (v.toNat + n))) })
  else if u < 2 ^ 16 ∧ isTally gr i then count s gr u i n
  else s

/-- The counter of group 3 that holds a die's cycles at its clock step, index 5 and the steps below nominal, and the cycles that it has
made at that step since it was last settled (R357). -/
def stepIndex (x : Die) : Nat := 5 + (16 - x.k)
def stepCycles (s : State) (x : Die) : Nat := (x.run + (s.time.toNat - x.kTime) * x.k) / 16 - x.run / 16

/-- Every counter of the package, the conflict matrices and the cycles at the present clock steps among them (R352, R354, R357). -/
def allCounters (s : State) : Table Word :=
  let t := s.easels.foldl (fun t e => e.2.conflict.foldl (fun t c => tput t (2 ^ 32 * 5 + 2 ^ 16 * e.1 + c.1) (c.2.zeroExtend 64)) t) s.pkg.counters
  if s.pkg.phase = 3 then t
  else (List.range 4).foldl (fun t d =>
    let x := dieOf s d
    tmod 0 t (2 ^ 32 * 3 + 2 ^ 16 * d + stepIndex x) (fun v => v + BitVec.ofNat 64 (stepCycles s x))) t

/-- Earlier latches kept while some GDELAY may reach them. -/
def keepPast (now : Nat) : List (Word × Nat × Table Word) → List (Word × Nat × Table Word)
  | [] => []
  | x :: r => if x.1.toNat + 1000000000 ≤ now then [x] else x :: keepPast now r

/-- The shadow set replaced as of time t. -/
def takeLatch (s : State) (t : Word) : State :=
  { s with pkg := { s.pkg with
    past := keepPast s.time.toNat ((s.pkg.latchT, s.pkg.latchNo, s.pkg.shadow) :: s.pkg.past)
    shadow := allCounters s, latchT := t, latchNo := s.pkg.latchNo + 1 } }

/-- LATCH: the first request that is due, or else the controller's own. One of its own whose time has passed, as LPER was made shorter or
the controller came up late, is taken at the current TIME. A controller that is off takes none. -/
def execLatch (s : State) : Res :=
  asked s <| match s.pkg.latches.find? (fun t => decide (t.toNat ≤ s.time.toNat)) with
  | some t => .next (takeLatch { s with pkg := { s.pkg with latches := s.pkg.latches.erase t } } t)
  | none => match ownLatch s with
    | some t => if s.time.toNat < t then .next s else .next (takeLatch { s with pkg := { s.pkg with latchAt := s.time.toNat } } s.time)
    | none => .next s

/-- A counter of the shadow set read by the supervisor, with T and LATCHNO (R353). -/
def shadowRead (s : State) (gr u i : Nat) : State :=
  if ¬mcUp s then s else emit s (.counter 40 (tget 0 s.pkg.shadow (2 ^ 32 * gr + 2 ^ 16 * u + i)) s.pkg.latchT s.pkg.latchNo)

/-! ### Snapshots and guests (R355, R356) -/

/-- SNAPSHOT_ARM. -/
def execSnapshotArm (g : Nat) (sq : SeqId) (lc : BitVec 2) (every : Bool) (s : State) : Res :=
  asked s <| .next (modEasel s (easelNo g) (fun e => { e with snap := { e.snap with armed := some (g, sq, lc.toNat, every) } }))

/-- SNAPSHOT_READ: the buffer with its TIME and MISSED goes to the supervisor, and READY is cleared. -/
def execSnapshotRead (e : Nat) (s : State) : Res :=
  asked s <|
  let x := (easelOf s e).snap
  .next (emit (modEasel s e (fun y => { y with snap := { y.snap with ready := false } })) (.snapshot e x.time x.missed x.image))

/-- Whether a partition owns the resource that a unit of a counter group stands for (R46). Group 3 counts the partition's own
walks on a die. The units of group 6 are numbered 4096·kind + number: 0 AB, 1 WB, 2 CB and 4 instruction cache of an easel, 3 register
file of a hand, 5 die cache and 6 synchronisation SRAM of a die, 7 channel (DESIGN CHOICE, log entry 38). -/
def ownsUnit (s : State) (p grp u : Nat) : Bool :=
  let x := partOf s p
  match grp with
  | 0 => x.pairs.contains (u / 32)
  | 1 => x.pairs.contains (u / 2)
  | 2 => x.chans.contains u
  | 3 => decide (u < 4)
  | 5 => x.pairs.contains (u / 2)
  | 6 =>
    let n := u % 4096
    (match u / 4096 with
     | 3 => x.pairs.contains (n / 8)
     | 5 => false
     | 6 => false
     | 7 => x.chans.contains n
     | k => decide (k < 5) && x.pairs.contains (n / 2))
  | _ => false

/-- The latest latch whose time is at most a given time: its time, its number and its values. -/
def latchBefore (s : State) (t : Nat) : Word × Nat × Table Word :=
  match ((s.pkg.latchT, s.pkg.latchNo, s.pkg.shadow) :: s.pkg.past).find? (fun x => decide (x.1.toNat ≤ t)) with
  | some x => x
  | none => (0, 0, [])

/-- A value quantised by QSHIFT. -/
def quantised (q : Nat) (v : Word) : Word := BitVec.ofNat 64 (v.toNat / 2 ^ q * 2 ^ q)

/-- GUEST_COUNTER_READ (R356). -/
def execGuestCounterRead (p grp unit ix : Nat) (s : State) : Res :=
  asked s <|
  let x := partOf s p
  let reply := fun (v t : Word) (n : Nat) => Host.Outcome.next (emit s (.counter p (quantised x.qshift v) t n))
  let due := s.time.toNat - 1000 * x.gdelay
  let (t, n, tab) := if s.time.toNat < 1000 * x.gdelay then (0, 0, []) else latchBefore s due
  if 6 < grp ∨ ¬bit x.gmask grp then reply 0 t n
  else if ¬ownsUnit s p grp unit then .next (emit s (.refused 13))
  else if grp = 5 then
    let sn := (easelOf s unit).snap
    if sn.ready ∧ sn.time.toNat + 1000 * x.gdelay ≤ s.time.toNat then reply ((tget 0 sn.image ix).zeroExtend 64) sn.time n else reply 0 0 n
  else
    let u := if grp = 3 then 4 + 4 * p + unit else unit
    reply (tget 0 tab (2 ^ 32 * grp + 2 ^ 16 * u + ix)) t n

end Sys2Proof.Machine
end

