-- ==== Sys2Proof/Machine/Power.lean ====
section
/-! DEFINITION. Power, suspend, resume, bring-up and trust (R357-R366). -/

namespace Sys2Proof.Machine

/-! ### Clock stretching (R7, R357) -/

/-- The cycles that a die has made at its clock step so far, counted (R357). -/
def stepSettled (s : State) (d : Nat) : State :=
  let x := dieOf s d
  let s := count s 3 d (stepIndex x) (stepCycles s x)
  modDie s d (fun x => { x with kTime := s.time.toNat, run := x.run + (s.time.toNat - x.kTime) * x.k })

/-- A die's clock step changed. -/
def setStep (s : State) (d k : Nat) : State := modDie (stepSettled s d) d (fun x => { x with k := k })

/-- Whether a die's clock stands at a cycle boundary, where a stretch step takes effect, and runs at all: in PHASE 3 it does not (R357,
R360). -/
def atBoundary (s : State) (x : Die) : Bool := s.pkg.phase != 3 && (x.run + (s.time.toNat - x.kTime) * x.k) % 16 == 0

/-- SUPPLY_SAG (R357): one step lower, at most once per 50 ns, down to 8. -/
def execSupplySag (die : Nat) (s : State) : Res :=
  let x := dieOf s die
  if ¬atBoundary s x ∨ x.k ≤ 8 ∨ (x.k < 16 ∧ s.time.toNat < x.kTime + 50) then .next s else .next (setStep s die (x.k - 1))

/-- SUPPLY_RECOVERY_STEP (R357): one step higher per 1 µs. -/
def execSupplyRecoveryStep (die : Nat) (s : State) : Res :=
  let x := dieOf s die
  if ¬atBoundary s x ∨ 16 ≤ x.k ∨ s.time.toNat < x.kTime + 1000 then .next s else .next (setStep s die (x.k + 1))

/-! ### Channel states (R358, R319) -/

def setPower (s : State) (ch : Nat) (p : ChanPower) : State := modChan s ch (fun c => { c with power := p })

/-- The contexts of a channel that are live, or being restored. -/
def liveOf (s : State) (ch : Nat) : List Nat :=
  ([0, 1, 2, 3].map (fun i => 4 * ch + i)).filter (fun cx => ctxLive (ctxOf s cx) || (ctxOf s cx).state == .restoring)

/-- A channel put into a low-power state, once its live contexts have been spilled at the controller's request. -/
def lowPower (s : State) (ch : Nat) (p : ChanPower) : State :=
  match liveOf s ch with
  | [] => setPower s ch p
  | l => l.foldl (requestSpill · 3 ·) s

/-- Contexts that the controller spilled set to be restored. -/
def wakeJobs (s : State) (ch : Nat) : State :=
  [0, 1, 2, 3].foldl (fun s i =>
    modCtx s (4 * ch + i) (fun c => if c.state = .spilled ∧ c.spiller = 3 then { c with state := .restoring } else c)) s

/-- A channel active again. -/
def channelUp (s : State) (ch : Nat) : State :=
  wakeJobs (modChan s ch (fun c => { c with power := .active, access := s.time.toNat, wake := none })) ch

/-- POWER_DOWN_ENTRY (R358): after 1 µs with no access. -/
def execPowerDownEntry (ch : Nat) (s : State) : Res :=
  let c := chanOf s ch
  if c.power ≠ .active ∨ s.time.toNat < c.access + 1000 then .next s else .next (lowPower s ch .powerDown)

/-- Whether an access has waited ns at a channel's arbiter for it to leave its power state. -/
def wakeDue (s : State) (ch ns : Nat) : Bool := (chanOf s ch).wake.any (fun t => decide (t + ns ≤ s.time.toNat))

/-- POWER_DOWN_EXIT (R358): 30 ns after an access has come. -/
def execPowerDownExit (ch : Nat) (s : State) : Res :=
  if (chanOf s ch).power = .powerDown ∧ wakeDue s ch 30 then .next (channelUp s ch) else .next s

/-- SELF_REFRESH_REQUEST (R358). -/
def execSelfRefreshRequest (ch : Nat) (s : State) : Res :=
  let p := (chanOf s ch).power
  asked s <| if p = .active ∨ p = .powerDown then .next (lowPower s ch .selfRefresh) else .next s

/-- SELF_REFRESH_EXIT (R358): 2 µs after an access has come. -/
def execSelfRefreshExit (ch : Nat) (s : State) : Res :=
  if (chanOf s ch).power = .selfRefresh ∧ wakeDue s ch 2000 then .next (channelUp s ch) else .next s

/-! ### Suspend (R359-R361) -/

/-- PWRSTAT (R359). -/
def pwrstat (s : State) : Word := BitVec.ofNat 64 (at' s.pkg.epoch.toNat 16 + at' s.pkg.aborted 8 + s.pkg.phase)

/-- Hands on which a leaf is bound. -/
def boundHands (s : State) : List Nat := (s.hands.filter (fun e => e.2.bound.isSome)).map (·.1)

/-- SUSPEND_REQUEST (R360): refused unless PHASE is 0. Collectives are paused from PHASE 1 on, every bound hand is pre-empted, and every
other live context is spilled. -/
def execSuspendRequest (epoch : BitVec 16) (s : State) : Res :=
  if s.pkg.rejected then .next s
  else if s.pkg.phase ≠ 0 then .next (emit s (.refused 14))
  else
    let s := { s with pkg := { s.pkg with phase := 1, epoch := epoch, phaseAt := s.time.toNat } }
    let s := (boundHands s).foldl (fun s g => preemptOne s 3 g) s
    .next (s.channels.foldl (fun t c => (liveOf s c.1).foldl (requestSpill · 3 ·) t) s)

/-- A leaf ended at the quiesce limit: what it has left undone is dropped, and it is counted. -/
def forceEnd (s : State) (g : Nat) (b : Bound) : State :=
  let leaf := some b
  let s := dropGroup (allSeqs.foldl (fun s q => withdraw s g q (fun _ => true)) s) g
  let groupOf := fun (c : MuralCmd) => match c.group with
    | some (r, k, _) => if c.hand = g then membersOf g r k else []
    | none => []
  let members := s.easels.flatMap (fun e => (e.2.mural.queue ++ e.2.mural.running.toList).flatMap groupOf)
  let keep := fun (l : List EngCmd) => l.filter (fun c => !(c.hand == g && c.leaf == leaf))
  let s := { s with easels := tmap s.easels (fun _ e => { e with
    copyQ := e.copyQ.filter (fun c => !(c.hand == g && c.leaf == leaf)), rc := e.rc.filter (fun r => r.hand != g)
    frescoQ := keep e.frescoQ, collQ := keep e.collQ, glazeQ := keep e.glazeQ, syncQ := keep e.syncQ
    mural := { e.mural with
      queue := e.mural.queue.filter (fun c => c.hand != g)
      running := if e.mural.running.any (fun c => c.hand == g) then none else e.mural.running } }) }
  let s := members.foldl (fun s e => if (muralOf s e).lease = .group then afterGroup s e else s) s
  let s := dropLease (dropWaits s g) g true
  let s := (ctxsOf s g leaf (fun c => ctxLive c || c.spiller == 2)).foldl (fun s cx => endJob s cx 0 3) s
  let h := handOf s g
  let s := trace s g 2 .x (BitVec.ofNat 64 b.leaf) 6
  let s := { setHand s g { Hand.reset with tlb := h.tlb } with
    preempts := s.preempts.filter (fun e => !(e.1 == g && !e.2.saved))
    pushes := tput s.pushes g ((tget [] s.pushes g).filter (fun p => p.leaf != leaf))
    slots := tput s.slots g ((slotsOf s g).filter (fun (x : Slot) => x.state != SlotState.bound)) }
  leafEnded { s with pkg := { s.pkg with aborted := min 255 (s.pkg.aborted + 1) } } b g 6 h

/-- QUIESCE_LIMIT_EXPIRY (R360): 200 ms after the request, every leaf whose save has not finished ends with ABORTED. -/
def execQuiesceLimitExpiry (s : State) : Res :=
  if s.pkg.phase ≠ 1 ∨ s.time.toNat < s.pkg.phaseAt + 200000000 then .next s
  else .next ((boundHands s).foldl (fun s g => match (handOf s g).bound with
    | some b => forceEnd s g b
    | none => s) s)

/-- Whether the quiesce phase is over: every hand saved, every live context spilled, copies and ticks complete, no completion record
half written (R360, R361). -/
def quiesced (s : State) : Bool :=
  boundHands s == [] && s.launches.all (fun l => l.2.posted.isNone) && s.channels.all (fun c => liveOf s c.1 == []) && s.glazeJobs == [] && s.easels.all (fun e => e.2.copyQ == [])

/-- The numbers of the compute dies and of the channels. -/
def allDies : List Nat := List.range 4
def allChans : List Nat := List.range 384

/-- The numbers of a table of words. -/
def tableNats (t : Table Word) : List Nat := t.flatMap (fun e => [e.1, e.2.toNat])

/-- What the suspend image holds (R360), as numbers: the ready list with its effective priorities, the reservations, and for every
partition RRPTR, counters, scoreboards, trigger entries, handles and regions. -/
def imageLaunches (s : State) : List Nat :=
  s.launches.flatMap (fun l => [l.1, l.2.queue, l.2.entry, l.2.va] ++ l.2.tasks.flatMap (fun t =>
    t.node :: t.iter ++ [t.placed, t.readyAt, t.lastPlaced, effPrio s l.2.part l.2.queue t.readyAt] ++ t.retired))
def imageSlots (s : State) : List Nat :=
  s.slots.flatMap (fun e => e.2.flatMap (fun x => [e.1, x.launch, x.task, x.leaf, x.order])) ++ s.preempts.map (·.1)
def imagePart (p : Nat) (x : Part) : List Nat :=
  p :: x.rrptr.flatMap (fun e => [e.1, e.2]) ++ tableNats x.counters ++ tableNats x.boards ++
  x.triggers.flatMap (fun e => [e.1, e.2.record.toNat, e.2.send.toNat]) ++
  x.handles.flatMap (fun e => [e.1, e.2.record.toNat, e.2.base]) ++ x.regions.flatMap (fun e => [e.1, e.2.desc.toNat])

/-- The rest: HEAD, TAILD, held tails and WDONE, the link processors with their positions, and TIME. -/
def imageWords (s : State) : List Nat :=
  imageLaunches s ++ imageSlots s ++ s.parts.flatMap (fun e => imagePart e.1 e.2) ++
  s.queues.flatMap (fun e => [e.1, e.2.head.toNat, e.2.taild.toNat]) ++
  s.ctxs.flatMap (fun e => [e.1, e.2.wdone.toNat] ++ e.2.tails.map (·.toNat)) ++
  s.links.flatMap (fun e => e.1 :: tableNats e.2.x ++ tableNats e.2.f ++ e.2.v.flatMap (fun r => [r.1, r.2.toNat]) ++ tableNats e.2.csr ++
    [e.2.pc.toNat] ++ e.2.sram.cells.flatMap (fun c => [c.1, c.2.toNat]) ++ e.2.seq.flatMap (fun q => [q.1, q.2])) ++ [s.time.toNat]

/-- SUSPEND_SAVE (R359, R360): in its first step the suspend image is written, in a layout that is open, and its digest kept (PHASE 2); in
its second every channel enters RETENTION and everything but the always-on store is powered off (PHASE 3). -/
def execSuspendSave (s : State) : Res :=
  if s.pkg.phase = 1 ∧ quiesced s then
    let image := Config.imageLayout (imageWords s)
    .next { s with pkg := { s.pkg with phase := 2, image := image, digest := some (Config.sm3 image) } }
  else if s.pkg.phase = 2 then
    let s := allDies.foldl stepSettled s
    .next { s with
      channels := allChans.map (fun c => (c, { chanOf s c with power := .retention, wake := none }))
      pkg := { s.pkg with phase := 3, phaseAt := s.time.toNat, readyWas := s.pkg.ready, ready := 0 } }
  else .next s

/-! ### Resume (R362) -/

/-- Every channel out of RETENTION. -/
def leaveRetention (s : State) : State :=
  { s with channels := tmap s.channels (fun _ c => { c with power := .active, access := s.time.toNat }) }

/-- W of R53 excludes the suspended interval. -/
def shiftWaits (s : State) (d : Nat) : State :=
  { s with
    launches := tmap s.launches (fun _ l => { l with tasks := l.tasks.map (fun t => { t with readyAt := t.readyAt + d }) })
    preempts := tmap s.preempts (fun _ p => { p with time := p.time + d }) }

/-- The lease waits restarted; stall counts restart with R339, and no BWAIT is registered while hands are saved (R336). -/
def restartBounds (s : State) : State :=
  { s with
    easels := tmap s.easels (fun _ e => { e with mural := { e.mural with waits := tmap e.mural.waits (fun _ _ => s.time.toNat), expired := [] } }) }

/-- A device that starts empty after a failed resume: no work, every one of its 256 queues HALTED, no reduction slot in use, the partitions and the supervisor's
settings kept. -/
def emptied (s : State) : State :=
  { s with
    agenda := [], hands := [], preempts := [], left := [], pushes := [], groups := [], slots := [], dies := allDies.map (fun d => (d, { Die.reset with kTime := s.time.toNat })), glazeJobs := []
    ctxs := [], launches := [], cuts := [], invals := []
    easels := tmap s.easels (fun _ e => { Easel.reset with owner := e.owner })
    channels := tmap s.channels (fun _ c => { Channel.reset with owner := c.owner, ibuf := c.ibuf, images := c.images })
    queues := (List.range 256).map (fun q => (q, { queueOf s q with desc := (queueOf s q).desc ||| 2 }))
    pkg := { s.pkg with slotsUsed := [] }
    parts := tmap s.parts (fun _ p => { p with
      rrptr := [], regions := [], counters := [], boards := [], triggers := [], handles := [], sends := [], paused := false, deferred := [] }) }

/-- The clocks of the dies start again: the suspended time made no cycles. -/
def restartClocks (s : State) : State := allDies.foldl (fun s d => modDie s d (fun x => { x with kTime := s.time.toNat })) s

/-- Every context that the suspend or a power state has spilled set to be restored. -/
def wakeAll (s : State) : State := s.channels.foldl (fun t c => wakeJobs t c.1) s

/-- Steps 4 to 6 of a resume (R362): spilled jobs are restored, in steps of their own; then every saved hand goes on, W and the bounds leave
the suspended time out, and collectives go on from their next message; PHASE is 0. -/
def resumeWork (s : State) : State :=
  let held := heldFor s 3 (fun _ => true)
  if wakeAll s ≠ s then wakeAll s
  else if s.channels.any (fun c => c.2.ctx.any (fun x => x.2.state == .restoring)) then s
  else match reinstateAll s held with
  | none => s
  | some t =>
    if heldFor t 3 (fun _ => true) ≠ [] then t
    else
      let t := restartBounds (shiftWaits t s.pkg.phaseAt)
      let t := { t with pkg := { t.pkg with phase := 0 } }
      t.parts.foldl (fun u e => fireDeferred u e.1) t

/-- RESUME_REQUEST (R359, R362): after us microseconds of suspension, with the image as it is found. In its first step TIME goes on and
bring-up begins with the controller (PHASE 4); phaseAt then holds the length of the suspension. Once the self-tests have set every READY
bit again that the suspend cleared, the channels leave RETENTION; a digest that differs gives PHASE 5 and an empty device; otherwise jobs,
hands and collectives go on. -/
def execResumeRequest (us : Nat) (image : List Byte) (s : State) : Res :=
  if s.pkg.phase = 3 then
    let t := max s.time.toNat (s.pkg.phaseAt + 1000 * us)
    let s := restartClocks { s with time := BitVec.ofNat 64 t }
    .next { s with pkg := { s.pkg with phase := 4, phaseAt := t - s.pkg.phaseAt, ready := s.pkg.readyWas &&& 1 } }
  else if s.pkg.phase ≠ 4 then .next (emit s (.refused 15))
  else if s.pkg.ready &&& s.pkg.readyWas ≠ s.pkg.readyWas then .next s
  else if s.pkg.digest ≠ some (Config.sm3 image) then
    let t := emptied s
    .next { t with pkg := { t.pkg with phase := 5 } }
  else if s.channels.any (fun c => c.2.power == .retention) then .next (leaveRetention s)
  else .next (resumeWork s)

/-- FAILURE_ACKNOWLEDGE (R362). -/
def execFailureAcknowledge (s : State) : Res :=
  asked s <| if s.pkg.phase = 5 then .next { s with pkg := { s.pkg with phase := 0 } } else .next s

/-! ### Bring-up and trust (R363-R366) -/

/-- READY with only MC and PORT 0 (R365). -/
def readyMin : Word := 0x80001

/-- POWER_ON (R364): the boot ROM measures the management firmware and runs it only where the vendor's key has signed it. -/
def execPowerOn (fw : List Byte) (sig : BitVec 512) (s : State) : Res :=
  let d := Config.sm3 fw
  if s.pkg.firmware then .next s
  else
    let s := measure s 0 d
    if ¬Config.sm2Valid Config.vendorKey d sig then .next s
    else .next { s with pkg := { s.pkg with firmware := true, ready := s.pkg.ready ||| 1 } }

/-- SELF_TEST_PASS (R363): a function sets its bit, unless the configuration record keeps it out of service (R365). -/
def execSelfTestPass (k : Nat) (s : State) : Res :=
  let allowed : Bool := match s.pkg.config with
    | none => k == 19
    | some c => decide (1 ≤ k) && decide (k ≤ 51) && (decide (k < 19) || decide (34 < k) || bit c (640 + (k - 19)))
  asked s <| if ¬s.pkg.firmware ∨ ¬allowed then .next s
  else .next { s with pkg := { s.pkg with ready := s.pkg.ready ||| BitVec.ofNat 64 (2 ^ k) } }

/-- The checks of a configuration record (R365) other than its signature. -/
def recordChecks (r : BitVec 4096) : Bool :=
  fld r 31 0 == 0x4B5A4352 && fld r 63 32 == 1 && fld r 671 656 == 0 && decide (1000 ≤ fld r 687 672) && decide (fld r 687 672 ≤ 2800) &&
  fld r 767 688 == 0 && fld r 3583 1792 == 0

/-- CONFIGURATION_RECORD_WRITE (R364, R365): the record is measured, and accepted where the vendor's key has signed it and its checks
hold; otherwise only MC and PORT 0 stay ready, and the device takes nothing but a new record. -/
def execConfigurationRecordWrite (r : BitVec 4096) (s : State) : Res :=
  if ¬s.pkg.firmware ∨ s.pkg.phase = 3 then .next s
  else
    let d := Config.sm3 (bytesOfNat 448 (fld r 3583 0))
    let s := measure s 1 d
    if Config.sm2Valid Config.vendorKey d (r.extractLsb' 3584 512) ∧ recordChecks r then
      .next { s with pkg := { s.pkg with config := some r, rejected := false } }
    else .next { s with pkg := { s.pkg with config := none, rejected := true, ready := s.pkg.ready &&& readyMin } }

/-- The bytes of the measurement log: object and digest of each entry, in the order taken. -/
def logBytes (l : List (Nat × BitVec 256)) : List Byte := l.flatMap (fun e => bytesOfNat 8 e.1 ++ bytesOfNat 32 e.2.toNat)

/-- ATTESTATION_REQUEST (R366). -/
def execAttestationRequest (nonce : BitVec 256) (s : State) : Res :=
  asked s <| if ¬s.pkg.firmware then .next s
  else
    let serial : Word := match s.pkg.config with
      | some c => c.extractLsb' 64 64
      | none => 0
    let d := Config.sm3 (logBytes s.pkg.log)
    let body := bytesOfNat 4 0x4B5A4154 ++ bytesOfNat 8 serial.toNat ++ bytesOfNat 32 nonce.toNat ++ bytesOfNat 8 s.time.toNat ++
      bytesOfNat 8 s.pkg.ready.toNat ++ bytesOfNat 8 (pwrstat s).toNat ++ bytesOfNat 32 d.toNat ++ logBytes s.pkg.log
    .next (emit s (.report serial nonce s.time s.pkg.ready (pwrstat s) d s.pkg.log (Config.sm2Sign (Config.sm3 body))))

end Sys2Proof.Machine
end

