-- ==== Sys2Proof/Machine/Scalar.lean ====
section
/-! DEFINITION. The scalar instructions every sequencer executes (R100-R113): arithmetic, immediates, shifts, bit counts,
long immediates, taint and the channel and token queries. -/

namespace Sys2Proof.Machine

/-- 1 for true, 0 for false. -/
def flag (b : Bool) : Word := if b then 1 else 0

/-- Bits 127:64 of a 128-bit product. -/
def high (x : BitVec 128) : Word := x.extractLsb' 64 64

/-- DIV (R102): rounded toward zero; division by zero gives -1; -2^63 by -1 wraps to -2^63. -/
def divS (a b : Word) : Word := if b = 0 then BitVec.allOnes 64 else BitVec.ofInt 64 (a.toInt.tdiv b.toInt)
def divU (a b : Word) : Word := if b = 0 then BitVec.allOnes 64 else BitVec.ofNat 64 (a.toNat / b.toNat)
/-- REM (R102): the sign of a; a itself for b = 0. -/
def remS (a b : Word) : Word := if b = 0 then a else BitVec.ofInt 64 (a.toInt.tmod b.toInt)
def remU (a b : Word) : Word := if b = 0 then a else BitVec.ofNat 64 (a.toNat % b.toNat)

/-- The bit index of a shift (R102): bits 63:6 of the amount are ignored. -/
def amount (b : Word) : Nat := b.toNat % 64

/-- The number of zero bits above the highest set bit, of n bits (R106). -/
def clzOf (a : Word) : Nat → Nat
  | 0 => 0
  | n + 1 => if a.getLsbD n then 0 else 1 + clzOf a n

/-- The number of zero bits below the lowest set bit, n of 64 bits left (R106). -/
def ctzOf (a : Word) : Nat → Nat
  | 0 => 0
  | n + 1 => if a.getLsbD (63 - n) then 0 else 1 + ctzOf a n

/-- The number of set bits among the low n. -/
def popOf (a : Word) : Nat → Nat
  | 0 => 0
  | n + 1 => (a.getLsbD n).toNat + popOf a n

/-- The low n bits in reverse order, the bit of weight 0 first (R106). -/
def revOf (a : Word) : Nat → Nat
  | 0 => 0
  | n + 1 => 2 * revOf a n + (a.getLsbD n).toNat

/-- A source form of one operand: the tag is that of A. -/
def tagOfA (a _ : Tag) : Tag := a

/-- No tag. -/
def noTag (_ _ : Tag) : Tag := Tag.empty

/-- ADD (R102). -/
def execAdd (k : Tok) (d : Dst) (a b : Src) (s : State) : Res :=
  computes k d [a, b] false 1 (fun a b => a + b) tagJoin s

/-- SUB (R102). -/
def execSub (k : Tok) (d : Dst) (a b : Src) (s : State) : Res :=
  computes k d [a, b] false 1 (fun a b => a - b) tagJoin s

/-- AND (R102). -/
def execAnd (k : Tok) (d : Dst) (a b : Src) (s : State) : Res :=
  computes k d [a, b] false 1 (fun a b => a &&& b) tagJoin s

/-- OR (R102). -/
def execOr (k : Tok) (d : Dst) (a b : Src) (s : State) : Res :=
  computes k d [a, b] false 1 (fun a b => a ||| b) tagJoin s

/-- XOR (R102). -/
def execXor (k : Tok) (d : Dst) (a b : Src) (s : State) : Res :=
  computes k d [a, b] false 1 (fun a b => a ^^^ b) tagJoin s

/-- SLL (R102). -/
def execSll (k : Tok) (d : Dst) (a b : Src) (s : State) : Res :=
  computes k d [a, b] false 1 (fun a b => a <<< amount b) tagJoin s

/-- SRL (R102). -/
def execSrl (k : Tok) (d : Dst) (a b : Src) (s : State) : Res :=
  computes k d [a, b] false 1 (fun a b => a >>> amount b) tagJoin s

/-- SRA (R102). -/
def execSra (k : Tok) (d : Dst) (a b : Src) (s : State) : Res :=
  computes k d [a, b] false 1 (fun a b => a.sshiftRight (amount b)) tagJoin s

/-- MUL (R102). -/
def execMul (k : Tok) (d : Dst) (a b : Src) (s : State) : Res :=
  computes k d [a, b] false 3 (fun a b => a * b) tagJoin s

/-- MULH (R102). -/
def execMulh (k : Tok) (d : Dst) (a b : Src) (s : State) : Res :=
  computes k d [a, b] false 3 (fun a b => high (a.signExtend 128 * b.signExtend 128)) tagJoin s

/-- MULHU (R102). -/
def execMulhu (k : Tok) (d : Dst) (a b : Src) (s : State) : Res :=
  computes k d [a, b] false 3 (fun a b => high (a.zeroExtend 128 * b.zeroExtend 128)) tagJoin s

/-- ANDN (R102). -/
def execAndn (k : Tok) (d : Dst) (a b : Src) (s : State) : Res :=
  computes k d [a, b] false 1 (fun a b => a &&& ~~~b) tagJoin s

/-- DIV (R102). -/
def execDiv (k : Tok) (d : Dst) (a b : Src) (s : State) : Res :=
  computes k d [a, b] false 12 (fun a b => divS a b) tagJoin s

/-- DIVU (R102). -/
def execDivu (k : Tok) (d : Dst) (a b : Src) (s : State) : Res :=
  computes k d [a, b] false 12 (fun a b => divU a b) tagJoin s

/-- REM (R102). -/
def execRem (k : Tok) (d : Dst) (a b : Src) (s : State) : Res :=
  computes k d [a, b] false 12 (fun a b => remS a b) tagJoin s

/-- REMU (R102). -/
def execRemu (k : Tok) (d : Dst) (a b : Src) (s : State) : Res :=
  computes k d [a, b] false 12 (fun a b => remU a b) tagJoin s

/-- SEQ (R102). -/
def execSeq (k : Tok) (d : Dst) (a b : Src) (s : State) : Res :=
  computes k d [a, b] false 1 (fun a b => flag (a == b)) tagJoin s

/-- SLT (R102). -/
def execSlt (k : Tok) (d : Dst) (a b : Src) (s : State) : Res :=
  computes k d [a, b] false 1 (fun a b => flag (a.slt b)) tagJoin s

/-- SLTU (R102). -/
def execSltu (k : Tok) (d : Dst) (a b : Src) (s : State) : Res :=
  computes k d [a, b] false 1 (fun a b => flag (a.ult b)) tagJoin s

/-- SNE (R102). -/
def execSne (k : Tok) (d : Dst) (a b : Src) (s : State) : Res :=
  computes k d [a, b] false 1 (fun a b => flag (a != b)) tagJoin s

/-- MIN (R102). -/
def execMin (k : Tok) (d : Dst) (a b : Src) (s : State) : Res :=
  computes k d [a, b] false 1 (fun a b => if b.slt a then b else a) tagJoin s

/-- MAX (R102). -/
def execMax (k : Tok) (d : Dst) (a b : Src) (s : State) : Res :=
  computes k d [a, b] false 1 (fun a b => if a.slt b then b else a) tagJoin s

/-- MINU (R102). -/
def execMinu (k : Tok) (d : Dst) (a b : Src) (s : State) : Res :=
  computes k d [a, b] false 1 (fun a b => if b.ult a then b else a) tagJoin s

/-- MAXU (R102). -/
def execMaxu (k : Tok) (d : Dst) (a b : Src) (s : State) : Res :=
  computes k d [a, b] false 1 (fun a b => if a.ult b then b else a) tagJoin s

/-- ADDI (R103). -/
def execAddi (k : Tok) (d : Dst) (a : Src) (imm : BitVec 9) (s : State) : Res :=
  computes k d [a] false 1 (fun a _ => a + imm.signExtend 64) tagOfA s

/-- ANDI (R103). -/
def execAndi (k : Tok) (d : Dst) (a : Src) (imm : BitVec 9) (s : State) : Res :=
  computes k d [a] false 1 (fun a _ => a &&& imm.zeroExtend 64) tagOfA s

/-- ORI (R103). -/
def execOri (k : Tok) (d : Dst) (a : Src) (imm : BitVec 9) (s : State) : Res :=
  computes k d [a] false 1 (fun a _ => a ||| imm.zeroExtend 64) tagOfA s

/-- XORI (R103). -/
def execXori (k : Tok) (d : Dst) (a : Src) (imm : BitVec 9) (s : State) : Res :=
  computes k d [a] false 1 (fun a _ => a ^^^ imm.zeroExtend 64) tagOfA s

/-- SLTI (R103). -/
def execSlti (k : Tok) (d : Dst) (a : Src) (imm : BitVec 9) (s : State) : Res :=
  computes k d [a] false 1 (fun a _ => flag (a.slt (imm.signExtend 64))) tagOfA s

/-- SLTIU (R103). -/
def execSltiu (k : Tok) (d : Dst) (a : Src) (imm : BitVec 9) (s : State) : Res :=
  computes k d [a] false 1 (fun a _ => flag (a.ult (imm.signExtend 64))) tagOfA s

/-- SLLI (R104). -/
def execSlli (k : Tok) (d : Dst) (a : Src) (n : BitVec 6) (s : State) : Res :=
  computes k d [a] false 1 (fun a _ => a <<< n.toNat) tagOfA s

/-- SRLI (R104). -/
def execSrli (k : Tok) (d : Dst) (a : Src) (n : BitVec 6) (s : State) : Res :=
  computes k d [a] false 1 (fun a _ => a >>> n.toNat) tagOfA s

/-- SRAI (R104). -/
def execSrai (k : Tok) (d : Dst) (a : Src) (n : BitVec 6) (s : State) : Res :=
  computes k d [a] false 1 (fun a _ => a.sshiftRight n.toNat) tagOfA s

/-- ROTI (R104). -/
def execRoti (k : Tok) (d : Dst) (a : Src) (n : BitVec 6) (s : State) : Res :=
  computes k d [a] false 1 (fun a _ => a.rotateRight n.toNat) tagOfA s

/-- ADDSH (R105). -/
def execAddsh (k : Tok) (d : Dst) (a b : Src) (sh : BitVec 2) (s : State) : Res :=
  computes k d [a, b] false 1 (fun a b => a + (b <<< sh.toNat)) tagJoin s

/-- CLZ (R106). -/
def execClz (k : Tok) (d : Dst) (a : Src) (s : State) : Res :=
  computes k d [a] false 1 (fun a _ => BitVec.ofNat 64 (clzOf a 64)) tagOfA s

/-- CTZ (R106). -/
def execCtz (k : Tok) (d : Dst) (a : Src) (s : State) : Res :=
  computes k d [a] false 1 (fun a _ => BitVec.ofNat 64 (ctzOf a 64)) tagOfA s

/-- POPC (R106). -/
def execPopc (k : Tok) (d : Dst) (a : Src) (s : State) : Res :=
  computes k d [a] false 1 (fun a _ => BitVec.ofNat 64 (popOf a 64)) tagOfA s

/-- BREV (R106). -/
def execBrev (k : Tok) (d : Dst) (a : Src) (s : State) : Res :=
  computes k d [a] false 1 (fun a _ => BitVec.ofNat 64 (revOf a 64)) tagOfA s

/-- NOP (R107): token waits and signals, and one virtual cycle on C. -/
def execNop (k : Tok) (s : State) : Res :=
  issue s k (reqRR none []) fun t _ _ => .next (finish t s.focus s.focusSq k (fun x => advance x 1))

/-- LIW (R108): the immediate sign-extended, with an empty tag. -/
def execLiw (k : Tok) (d : Dst) (imm : BitVec 32) (s : State) : Res :=
  issue s k (reqRR (some d) []) fun t _ id =>
    .next (finish (putDst t s.focus s.focusSq id 1 d (imm.signExtend 64) Tag.empty) s.focus s.focusSq k (fun x => advance x 2))

/-- LIH (R108): bits 63:32 of D replaced, with the tag D held before. -/
def execLih (k : Tok) (d : BitVec 5) (imm : BitVec 32) (s : State) : Res :=
  issue s k (reqRR (some (.reg d)) [.reg d]) fun t vals id =>
    let v := valOf vals 0
    .next (finish (putDst t s.focus s.focusSq id 1 (.reg d) (imm ++ v.1.extractLsb' 0 32) v.2)
      s.focus s.focusSq k (fun x => advance x 2))

/-- TCLR (R109): the value with an empty tag; a pop takes no foreign record. -/
def execTclr (k : Tok) (d : Dst) (a : Src) (s : State) : Res :=
  computes k d [a] true 1 (fun a _ => a) noTag s

/-- TGET (R110): the tag of A as a value. -/
def execTget (k : Tok) (d : Dst) (a : BitVec 5) (s : State) : Res :=
  issue s k (reqRR (some d) [.reg a]) fun t vals id =>
    .next (finish (putDst t s.focus s.focusSq id 1 d (tagBits (valOf vals 0).2) Tag.empty) s.focus s.focusSq k (fun x => advance x 1))

/-- TJOIN (R111): the value of A with both tags. -/
def execTjoin (k : Tok) (d : Dst) (a b : Src) (s : State) : Res :=
  computes k d [a, b] false 1 (fun a _ => a) tagJoin s

/-- The condition TWAIT waits for (R112). -/
def twaitOver (q : Seqr) (a : BitVec 5) : Bool :=
  if a = 0 then q.slots == 0 && q.satLast.isNone && q.frecs.isEmpty else tagEmpty (tagGet q a)

/-- TWAIT (R112): issues once the tag of A is empty, or for s0 once nothing is outstanding; until then a stall of
reason 8. -/
def execTwait (k : Tok) (a : BitVec 5) (s : State) : Res :=
  issue s k (reqRR none [.reg a]) fun t _ _ =>
    if twaitOver (sqOf s s.focus s.focusSq) a then .next (finish t s.focus s.focusSq k (fun x => advance x 1))
    else .next (stalled s s.focus s.focusSq 8)

/-- The channel a query names, and whether its A field is a peek (R113). -/
def queryChan (a : Src) : Nat :=
  match a with
  | .reg n => n.toNat
  | .pop n => n.toNat
  | .peek n => n.toNat

/-- Whether A names a channel, for the ownership check of a query. -/
def namesChan (a : Src) : Bool :=
  match a with
  | .reg _ => false
  | .pop _ => true
  | .peek _ => true

/-- CHCNT (R113): entries held in a channel this sequencer reads; a reserved entry is not yet held. -/
def execChcnt (k : Tok) (d : Dst) (a : Src) (s : State) : Res :=
  issue s k { reqRR (some d) [] with
      chan7 := namesChan a && (decide (queryChan a ≥ 16) || decide (chanReader (s.focus % 4) (queryChan a) ≠ some s.focusSq))
      limit := limitBroken (.chcnt k d a) } fun t _ id =>
    let n := (visible (chanList (handOf s s.focus) (queryChan a))).length
    .next (finish (putDst t s.focus s.focusSq id 1 d (BitVec.ofNat 64 n) Tag.empty) s.focus s.focusSq k (fun x => advance x 1))

/-- The pushes to a channel that C has issued and that have still to land: they take room that the next pushes shall find
(R113, log entry 37). -/
def pendingPushes (h : Hand) (q : SeqId) (n : Nat) : Nat :=
  if q = .c then h.landings.countP (fun l => match l.what with
    | .chan m _ => m == n
    | _ => false)
  else 0

/-- CHFREE (R113): free entries of a channel this sequencer writes, reserved ones not counted as free. -/
def execChfree (k : Tok) (d : Dst) (a : Src) (s : State) : Res :=
  issue s k { reqRR (some d) [] with
      chan7 := namesChan a && (decide (queryChan a ≥ 16) || decide (chanWriter (s.focus % 4) (queryChan a) ≠ some s.focusSq))
      limit := limitBroken (.chfree k d a) } fun t _ id =>
    let home := chanHome s.focus (queryChan a)
    let n := 16 - ((chanList (handOf s home.1) home.2).length + pendingPushes (handOf s s.focus) s.focusSq (queryChan a))
    .next (finish (putDst t s.focus s.focusSq id 1 d (BitVec.ofNat 64 n) Tag.empty) s.focus s.focusSq k (fun x => advance x 1))

/-- TKCNT (R113): the count of a token queue at issue. -/
def execTkcnt (k : Tok) (d : Dst) (q : BitVec 2) (s : State) : Res :=
  issue s k (reqRR (some d) []) fun t _ id =>
    let n := tokenCount (handOf s s.focus) s.focusSq q.toNat
    .next (finish (putDst t s.focus s.focusSq id 1 d (BitVec.ofNat 64 n) Tag.empty) s.focus s.focusSq k (fun x => advance x 1))

end Sys2Proof.Machine
end

