-- ==== Sys2Proof/Machine/Dispatch.lean ====
section
/-! DEFINITION. One arm per constructor of Instr: the meaning of each row of spec/opcode_table.json. -/

namespace Sys2Proof.Machine

def exec (i : Instr) (s : State) : Host.Outcome State Fault Refusal :=
  match i with
  | .nop k => Sys2Proof.Machine.execNop k s
  | .add k d a b => Sys2Proof.Machine.execAdd k d a b s
  | .sub k d a b => Sys2Proof.Machine.execSub k d a b s
  | .and k d a b => Sys2Proof.Machine.execAnd k d a b s
  | .or k d a b => Sys2Proof.Machine.execOr k d a b s
  | .xor k d a b => Sys2Proof.Machine.execXor k d a b s
  | .sll k d a b => Sys2Proof.Machine.execSll k d a b s
  | .srl k d a b => Sys2Proof.Machine.execSrl k d a b s
  | .sra k d a b => Sys2Proof.Machine.execSra k d a b s
  | .mul k d a b => Sys2Proof.Machine.execMul k d a b s
  | .mulh k d a b => Sys2Proof.Machine.execMulh k d a b s
  | .mulhu k d a b => Sys2Proof.Machine.execMulhu k d a b s
  | .andn k d a b => Sys2Proof.Machine.execAndn k d a b s
  | .div k d a b => Sys2Proof.Machine.execDiv k d a b s
  | .divu k d a b => Sys2Proof.Machine.execDivu k d a b s
  | .rem k d a b => Sys2Proof.Machine.execRem k d a b s
  | .remu k d a b => Sys2Proof.Machine.execRemu k d a b s
  | .seq k d a b => Sys2Proof.Machine.execSeq k d a b s
  | .slt k d a b => Sys2Proof.Machine.execSlt k d a b s
  | .sltu k d a b => Sys2Proof.Machine.execSltu k d a b s
  | .sne k d a b => Sys2Proof.Machine.execSne k d a b s
  | .min k d a b => Sys2Proof.Machine.execMin k d a b s
  | .max k d a b => Sys2Proof.Machine.execMax k d a b s
  | .minu k d a b => Sys2Proof.Machine.execMinu k d a b s
  | .maxu k d a b => Sys2Proof.Machine.execMaxu k d a b s
  | .addi k d a imm => Sys2Proof.Machine.execAddi k d a imm s
  | .andi k d a imm => Sys2Proof.Machine.execAndi k d a imm s
  | .ori k d a imm => Sys2Proof.Machine.execOri k d a imm s
  | .xori k d a imm => Sys2Proof.Machine.execXori k d a imm s
  | .slli k d a n => Sys2Proof.Machine.execSlli k d a n s
  | .srli k d a n => Sys2Proof.Machine.execSrli k d a n s
  | .srai k d a n => Sys2Proof.Machine.execSrai k d a n s
  | .roti k d a n => Sys2Proof.Machine.execRoti k d a n s
  | .slti k d a imm => Sys2Proof.Machine.execSlti k d a imm s
  | .sltiu k d a imm => Sys2Proof.Machine.execSltiu k d a imm s
  | .addsh k d a b sh => Sys2Proof.Machine.execAddsh k d a b sh s
  | .clz k d a => Sys2Proof.Machine.execClz k d a s
  | .ctz k d a => Sys2Proof.Machine.execCtz k d a s
  | .popc k d a => Sys2Proof.Machine.execPopc k d a s
  | .brev k d a => Sys2Proof.Machine.execBrev k d a s
  | .tclr k d a => Sys2Proof.Machine.execTclr k d a s
  | .tget k d a => Sys2Proof.Machine.execTget k d a s
  | .tjoin k d a b => Sys2Proof.Machine.execTjoin k d a b s
  | .twait k a => Sys2Proof.Machine.execTwait k a s
  | .chcnt k d a => Sys2Proof.Machine.execChcnt k d a s
  | .chfree k d a => Sys2Proof.Machine.execChfree k d a s
  | .tkcnt k d q => Sys2Proof.Machine.execTkcnt k d q s
  | .beqz k r o x => Sys2Proof.Machine.execBeqz k r o x s
  | .bnez k r o x => Sys2Proof.Machine.execBnez k r o x s
  | .bltz k r o x => Sys2Proof.Machine.execBltz k r o x s
  | .bgez k r o x => Sys2Proof.Machine.execBgez k r o x s
  | .bgtz k r o x => Sys2Proof.Machine.execBgtz k r o x s
  | .blez k r o x => Sys2Proof.Machine.execBlez k r o x s
  | .j k o x => Sys2Proof.Machine.execJ k o x s
  | .jal k o x => Sys2Proof.Machine.execJal k o x s
  | .jr k a => Sys2Proof.Machine.execJr k a s
  | .jalr k a => Sys2Proof.Machine.execJalr k a s
  | .loop k c a => Sys2Proof.Machine.execLoop k c a s
  | .loopi k c n => Sys2Proof.Machine.execLoopi k c n s
  | .brloop k c o x => Sys2Proof.Machine.execBrloop k c o x s
  | .ld k d a z o => Sys2Proof.Machine.execLd k d a z o s
  | .lds k d a z o => Sys2Proof.Machine.execLds k d a z o s
  | .lda k d a z sc o => Sys2Proof.Machine.execLda k d a z sc o s
  | .st k o a b z => Sys2Proof.Machine.execSt k o a b z s
  | .str k sc o a b z => Sys2Proof.Machine.execStr k sc o a b z s
  | .ldb k d a z u o => Sys2Proof.Machine.execLdb k d a z u o s
  | .stb k u o a b z => Sys2Proof.Machine.execStb k u o a b z s
  | .amoadd k d a b dbl ord => Sys2Proof.Machine.execAmoadd k d a b dbl ord s
  | .amoand k d a b dbl ord => Sys2Proof.Machine.execAmoand k d a b dbl ord s
  | .amoor k d a b dbl ord => Sys2Proof.Machine.execAmoor k d a b dbl ord s
  | .amoxor k d a b dbl ord => Sys2Proof.Machine.execAmoxor k d a b dbl ord s
  | .amomin k d a b dbl ord => Sys2Proof.Machine.execAmomin k d a b dbl ord s
  | .amomax k d a b dbl ord => Sys2Proof.Machine.execAmomax k d a b dbl ord s
  | .amominu k d a b dbl ord => Sys2Proof.Machine.execAmominu k d a b dbl ord s
  | .amomaxu k d a b dbl ord => Sys2Proof.Machine.execAmomaxu k d a b dbl ord s
  | .amoswap k d a b dbl ord => Sys2Proof.Machine.execAmoswap k d a b dbl ord s
  | .amocas k d a b dbl ord => Sys2Proof.Machine.execAmocas k d a b dbl ord s
  | .amofadd k d a b dbl ord => Sys2Proof.Machine.execAmofadd k d a b dbl ord s
  | .amofmax k d a b dbl ord => Sys2Proof.Machine.execAmofmax k d a b dbl ord s
  | .binit k d a b => Sys2Proof.Machine.execBinit k d a b s
  | .barv k d a b => Sys2Proof.Machine.execBarv k d a b s
  | .bwait k d a b => Sys2Proof.Machine.execBwait k d a b s
  | .btest k d a b => Sys2Proof.Machine.execBtest k d a b s
  | .breset k d a b => Sys2Proof.Machine.execBreset k d a b s
  | .fence k sc ll ls sl ss eng uo => Sys2Proof.Machine.execFence k sc ll ls sl ss eng uo s
  | .cpqry k d a => Sys2Proof.Machine.execCpqry k d a s
  | .frgo k d a b => Sys2Proof.Machine.execFrgo k d a b s
  | .frst k d a => Sys2Proof.Machine.execFrst k d a s
  | .frspl k d a => Sys2Proof.Machine.execFrspl k d a s
  | .frld k d a b => Sys2Proof.Machine.execFrld k d a b s
  | .cxlay k d a b => Sys2Proof.Machine.execCxlay k d a b s
  | .cxgo k d a b => Sys2Proof.Machine.execCxgo k d a b s
  | .carm k d a b => Sys2Proof.Machine.execCarm k d a b s
  | .cdis k d a => Sys2Proof.Machine.execCdis k d a s
  | .ccnt k d a => Sys2Proof.Machine.execCcnt k d a s
  | .cadd k d a b => Sys2Proof.Machine.execCadd k d a b s
  | .csend k d a => Sys2Proof.Machine.execCsend k d a s
  | .chist k d a b => Sys2Proof.Machine.execChist k d a b s
  | .cslot k d => Sys2Proof.Machine.execCslot k d s
  | .pushc k d a q => Sys2Proof.Machine.execPushc k d a q s
  | .mlease k d a => Sys2Proof.Machine.execMlease k d a s
  | .mfree k => Sys2Proof.Machine.execMfree k s
  | .mstat k d => Sys2Proof.Machine.execMstat k d s
  | .msync k => Sys2Proof.Machine.execMsync k s
  | .csrr k d c => Sys2Proof.Machine.execCsrr k d c s
  | .csrw k a c => Sys2Proof.Machine.execCsrw k a c s
  | .palbaseWrite k a => Sys2Proof.Machine.execPalbaseWrite k a s
  | .trap k a => Sys2Proof.Machine.execTrap k a s
  | .eret => Sys2Proof.Machine.execEret s
  | .halt k => Sys2Proof.Machine.execHalt k s
  | .yield k => Sys2Proof.Machine.execYield k s
  | .brk k c => Sys2Proof.Machine.execBrk k c s
  | .gtick k d a b => Sys2Proof.Machine.execGtick k d a b s
  | .gldg k d a m => Sys2Proof.Machine.execGldg k d a m s
  | .grst k a b => Sys2Proof.Machine.execGrst k a b s
  | .gexp k d a b => Sys2Proof.Machine.execGexp k d a b s
  | .gimp k d a b => Sys2Proof.Machine.execGimp k d a b s
  | .gstat k d a => Sys2Proof.Machine.execGstat k d a s
  | .vadd k d a b g => Sys2Proof.Machine.execVadd k d a b g s
  | .vsub k d a b g => Sys2Proof.Machine.execVsub k d a b g s
  | .vmul k d a b g => Sys2Proof.Machine.execVmul k d a b g s
  | .vfma k d a b g => Sys2Proof.Machine.execVfma k d a b g s
  | .vmin k d a b g => Sys2Proof.Machine.execVmin k d a b g s
  | .vmax k d a b g => Sys2Proof.Machine.execVmax k d a b g s
  | .vdiv k d a b g => Sys2Proof.Machine.execVdiv k d a b g s
  | .vfms k d a b g => Sys2Proof.Machine.execVfms k d a b g s
  | .vsqrt k d a g => Sys2Proof.Machine.execVsqrt k d a g s
  | .vrcp k d a g => Sys2Proof.Machine.execVrcp k d a g s
  | .vrsq k d a g => Sys2Proof.Machine.execVrsq k d a g s
  | .vexp2 k d a g => Sys2Proof.Machine.execVexp2 k d a g s
  | .vlog2 k d a g => Sys2Proof.Machine.execVlog2 k d a g s
  | .vabs k d a g => Sys2Proof.Machine.execVabs k d a g s
  | .vneg k d a g => Sys2Proof.Machine.execVneg k d a g s
  | .vtanh k d a g => Sys2Proof.Machine.execVtanh k d a g s
  | .vceq k d a b g => Sys2Proof.Machine.execVceq k d a b g s
  | .vclt k d a b g => Sys2Proof.Machine.execVclt k d a b g s
  | .vcle k d a b g => Sys2Proof.Machine.execVcle k d a b g s
  | .vcne k d a b g => Sys2Proof.Machine.execVcne k d a b g s
  | .viadd k d a b g => Sys2Proof.Machine.execViadd k d a b g s
  | .visub k d a b g => Sys2Proof.Machine.execVisub k d a b g s
  | .vimul k d a b g => Sys2Proof.Machine.execVimul k d a b g s
  | .vshl k d a b g => Sys2Proof.Machine.execVshl k d a b g s
  | .vand k d a b g => Sys2Proof.Machine.execVand k d a b g s
  | .vor k d a b g => Sys2Proof.Machine.execVor k d a b g s
  | .vxor k d a b g => Sys2Proof.Machine.execVxor k d a b g s
  | .vshr k d a b g => Sys2Proof.Machine.execVshr k d a b g s
  | .vadds k d a r g => Sys2Proof.Machine.execVadds k d a r g s
  | .vmuls k d a r g => Sys2Proof.Machine.execVmuls k d a r g s
  | .vfmas k d a r g => Sys2Proof.Machine.execVfmas k d a r g s
  | .vbcast k d r g => Sys2Proof.Machine.execVbcast k d r g s
  | .vsel k d a b g => Sys2Proof.Machine.execVsel k d a b g s
  | .vmov k d a g => Sys2Proof.Machine.execVmov k d a g s
  | .vextr k d a b g => Sys2Proof.Machine.execVextr k d a b g s
  | .vins k d a b g => Sys2Proof.Machine.execVins k d a b g s
  | .vrsum k d a g => Sys2Proof.Machine.execVrsum k d a g s
  | .vcsum k d a g => Sys2Proof.Machine.execVcsum k d a g s
  | .vrmax k d a g => Sys2Proof.Machine.execVrmax k d a g s
  | .vcmax k d a g => Sys2Proof.Machine.execVcmax k d a g s
  | .vtrn k d a g => Sys2Proof.Machine.execVtrn k d a g s
  | .vrotr k d a b g => Sys2Proof.Machine.execVrotr k d a b g s
  | .vrotc k d a b g => Sys2Proof.Machine.execVrotc k d a b g s
  | .vrev k d a g => Sys2Proof.Machine.execVrev k d a g s
  | .vhmul k d a b g => Sys2Proof.Machine.execVhmul k d a b g s
  | .vhconj k d a g => Sys2Proof.Machine.execVhconj k d a g s
  | .vhnorm k d a g => Sys2Proof.Machine.execVhnorm k d a g s
  | .vhinv k d a g => Sys2Proof.Machine.execVhinv k d a g s
  | .vscan k d a b g => Sys2Proof.Machine.execVscan k d a b g s
  | .vscana k d a g => Sys2Proof.Machine.execVscana k d a g s
  | .vscanm k d a g => Sys2Proof.Machine.execVscanm k d a g s
  | .vcvt k d a g => Sys2Proof.Machine.execVcvt k d a g s
  | .vqnt k d a g => Sys2Proof.Machine.execVqnt k d a g s
  | .vdq k d a g => Sys2Proof.Machine.execVdq k d a g s
  | .vrnd k d a g => Sys2Proof.Machine.execVrnd k d a g s
  | .pand k d a b => Sys2Proof.Machine.execPand k d a b s
  | .por k d a b => Sys2Proof.Machine.execPor k d a b s
  | .pnot k d a => Sys2Proof.Machine.execPnot k d a s
  | .pxor k d a b => Sys2Proof.Machine.execPxor k d a b s
  | .vld k d u r g => Sys2Proof.Machine.execVld k d u r g s
  | .vst k d u r g => Sys2Proof.Machine.execVst k d u r g s
  | .vldr k d u r g => Sys2Proof.Machine.execVldr k d u r g s
  | .vstr k d u r g => Sys2Proof.Machine.execVstr k d u r g s
  | .vshape k d a => Sys2Proof.Machine.execVshape k d a s
  | .psel k d a b => Sys2Proof.Machine.execPsel k d a b s
  | .algsel k d a => Sys2Proof.Machine.execAlgsel k d a s
  | .vland k d a b => Sys2Proof.Machine.execVland k d a b s
  | .liw k d imm => Sys2Proof.Machine.execLiw k d imm s
  | .lih k d imm => Sys2Proof.Machine.execLih k d imm s
  | .copyIn k t ts b o u sc acq rel op cl => Sys2Proof.Machine.execCopyIn k t ts b o u sc acq rel op cl s
  | .copyOut k t ts b o u sc acq rel op cl => Sys2Proof.Machine.execCopyOut k t ts b o u sc acq rel op cl s
  | .copyxIn k t ts b o g u sc acq rel op cl => Sys2Proof.Machine.execCopyxIn k t ts b o g u sc acq rel op cl s
  | .copyxOut k t ts b o g u sc acq rel op cl => Sys2Proof.Machine.execCopyxOut k t ts b o g u sc acq rel op cl s
  | .drain k t c ts o sc acq rel op cl => Sys2Proof.Machine.execDrain k t c ts o sc acq rel op cl s
  | .mma k c a b acc pal alg m n kk ta tb ca cb sw chain => Sys2Proof.Machine.execMma k c a b acc pal alg m n kk ta tb ca cb sw chain s
  | .mmag k c a b acc pal alg m n kk ta tb ca cb sw gr gc => Sys2Proof.Machine.execMmag k c a b acc pal alg m n kk ta tb ca cb sw gr gc s
  | .algld k sl r => Sys2Proof.Machine.execAlgld k sl r s
  | .pset k d kd cnt => Sys2Proof.Machine.execPset k d kd cnt s
  | .vtlu k d a b n g fill => Sys2Proof.Machine.execVtlu k d a b n g fill s
  | .gcfg k ix r => Sys2Proof.Machine.execGcfg k ix r s
  | .wsetm m h v => Sys2Proof.Machine.execWsetm m h v s
  | .wmode v => Sys2Proof.Machine.execWmode v s
  | .wopen m b => Sys2Proof.Machine.execWopen m b s
  | .wclose => Sys2Proof.Machine.execWclose s
  | .wread sb v => Sys2Proof.Machine.execWread sb v s
  | .wwrite v src => Sys2Proof.Machine.execWwrite v src s
  | .wscale m v => Sys2Proof.Machine.execWscale m v s
  | .wadd h => Sys2Proof.Machine.execWadd h s
  | .wdeq => Sys2Proof.Machine.execWdeq s
  | .wloop m => Sys2Proof.Machine.execWloop m s
  | .wnext => Sys2Proof.Machine.execWnext s
  | .wwin => Sys2Proof.Machine.execWwin s
  | .wsave => Sys2Proof.Machine.execWsave s
  | .wrest => Sys2Proof.Machine.execWrest s
  | .wend => Sys2Proof.Machine.execWend s
  | .lineFetch g sq cached => Sys2Proof.Machine.execLineFetch g sq cached s
  | .landing g => Sys2Proof.Machine.execLanding g s
  | .walkComplete g w => Sys2Proof.Machine.execWalkComplete g w s
  | .latch => Sys2Proof.Machine.execLatch s
  | .orderingBufferPerform g sq ix part how => Sys2Proof.Machine.execOrderingBufferPerform g sq ix part how s
  | .fenceTokenRelease g sq => Sys2Proof.Machine.execFenceTokenRelease g sq s
  | .bufferAccessPerform e ix => Sys2Proof.Machine.execBufferAccessPerform e ix s
  | .copyEngineAccess eng ix bad => Sys2Proof.Machine.execCopyEngineAccess eng ix bad s
  | .copyCompletion eng ix => Sys2Proof.Machine.execCopyCompletion eng ix s
  | .dispatchChoice p => Sys2Proof.Machine.execDispatchChoice p s
  | .prefetch hand => Sys2Proof.Machine.execPrefetch hand s
  | .leafBind g => Sys2Proof.Machine.execLeafBind g s
  | .gangStart ln gang => Sys2Proof.Machine.execGangStart ln gang s
  | .leafRetire g => Sys2Proof.Machine.execLeafRetire g s
  | .nodeCompletion ln tk => Sys2Proof.Machine.execNodeCompletion ln tk s
  | .launchCompletionRecord launch => Sys2Proof.Machine.execLaunchCompletionRecord launch s
  | .queueEntryAccept queue => Sys2Proof.Machine.execQueueEntryAccept queue s
  | .conditionEvaluation ln task => Sys2Proof.Machine.execConditionEvaluation ln task s
  | .muralCommandStart e => Sys2Proof.Machine.execMuralCommandStart e s
  | .muralCommandComplete e => Sys2Proof.Machine.execMuralCommandComplete e s
  | .tickPresent ch ix => Sys2Proof.Machine.execTickPresent ch ix s
  | .wordAdvance ch => Sys2Proof.Machine.execWordAdvance ch s
  | .glazeControlCommand e ix => Sys2Proof.Machine.execGlazeControlCommand e ix s
  | .syncCommand e ix bad => Sys2Proof.Machine.execSyncCommand e ix bad s
  | .collectiveCommand e ix bad => Sys2Proof.Machine.execCollectiveCommand e ix bad s
  | .frescoCommand e ix => Sys2Proof.Machine.execFrescoCommand e ix s
  | .jobStart cx => Sys2Proof.Machine.execJobStart cx s
  | .globalCopy ln tk => Sys2Proof.Machine.execGlobalCopy ln tk s
  | .tailPresent ctx => Sys2Proof.Machine.execTailPresent ctx s
  | .hostRmaWrite ctx va chunk => Sys2Proof.Machine.execHostRmaWrite ctx va chunk s
  | .tailMessage ctx tag payload => Sys2Proof.Machine.execTailMessage ctx tag payload s
  | .hostRmaRead ctx va len => Sys2Proof.Machine.execHostRmaRead ctx va len s
  | .ueAtomicRequest ctx => Sys2Proof.Machine.execUeAtomicRequest ctx s
  | .deliveryContextEstablishment ctx endpoint mode rccc secure => Sys2Proof.Machine.execDeliveryContextEstablishment ctx endpoint mode rccc secure s
  | .deliveryContextClose ctx => Sys2Proof.Machine.execDeliveryContextClose ctx s
  | .queueDescriptorWrite q desc head => Sys2Proof.Machine.execQueueDescriptorWrite q desc head s
  | .haltedClear q taild => Sys2Proof.Machine.execHaltedClear q taild s
  | .partitionComposition p pairs channels queues counters quota => Sys2Proof.Machine.execPartitionComposition p pairs channels queues counters quota s
  | .resourceReassignment r p => Sys2Proof.Machine.execResourceReassignment r p s
  | .schedulingWordWrite p w => Sys2Proof.Machine.execSchedulingWordWrite p w s
  | .invalidation p va len => Sys2Proof.Machine.execInvalidation p va len s
  | .invalidationComplete ix => Sys2Proof.Machine.execInvalidationComplete ix s
  | .meshDescriptorWrite p w peers => Sys2Proof.Machine.execMeshDescriptorWrite p w peers s
  | .counterSupervisorWrite p sb ix v => Sys2Proof.Machine.execCounterSupervisorWrite p sb ix v s
  | .collectivePause p => Sys2Proof.Machine.execCollectivePause p s
  | .collectiveResume p => Sys2Proof.Machine.execCollectiveResume p s
  | .firmwareImageLoad lp image sig => Sys2Proof.Machine.execFirmwareImageLoad lp image sig s
  | .mcRegisterWrite p w => Sys2Proof.Machine.execMcRegisterWrite p w s
  | .stopDescriptorWrite p k d => Sys2Proof.Machine.execStopDescriptorWrite p k d s
  | .cutFreeze g => Sys2Proof.Machine.execCutFreeze g s
  | .stopResume ln => Sys2Proof.Machine.execStopResume ln s
  | .latchRequest t => Sys2Proof.Machine.execLatchRequest t s
  | .snapshotArm g sq lc every => Sys2Proof.Machine.execSnapshotArm g sq lc every s
  | .snapshotRead e => Sys2Proof.Machine.execSnapshotRead e s
  | .guestCounterRead p grp unit ix => Sys2Proof.Machine.execGuestCounterRead p grp unit ix s
  | .priorityPreemption p => Sys2Proof.Machine.execPriorityPreemption p s
  | .leafAbort g whole => Sys2Proof.Machine.execLeafAbort g whole s
  | .stallTimeOut g => Sys2Proof.Machine.execStallTimeOut g s
  | .machineCheck g pfn source => Sys2Proof.Machine.execMachineCheck g pfn source s
  | .dieCacheWriteBack die pa => Sys2Proof.Machine.execDieCacheWriteBack die pa s
  | .dieCacheDiscard die pa => Sys2Proof.Machine.execDieCacheDiscard die pa s
  | .globalCopyCommand e ix => Sys2Proof.Machine.execGlobalCopyCommand e ix s
  | .spillComplete e => Sys2Proof.Machine.execSpillComplete e s
  | .lboundExpiry e h => Sys2Proof.Machine.execLboundExpiry e h s
  | .leaseIdleExpiry e => Sys2Proof.Machine.execLeaseIdleExpiry e s
  | .groupReservation cl e => Sys2Proof.Machine.execGroupReservation cl e s
  | .glazeHold ix bad => Sys2Proof.Machine.execGlazeHold ix bad s
  | .bwaitTimeBoundExpiry ix => Sys2Proof.Machine.execBwaitTimeBoundExpiry ix s
  | .collectiveMessage m => Sys2Proof.Machine.execCollectiveMessage m s
  | .sendComplete ix how => Sys2Proof.Machine.execSendComplete ix how s
  | .exchangeComplete p hd how => Sys2Proof.Machine.execExchangeComplete p hd how s
  | .peerUnreachable p rank => Sys2Proof.Machine.execPeerUnreachable p rank s
  | .window ch n => Sys2Proof.Machine.execWindow ch n s
  | .frescoSpill cx => Sys2Proof.Machine.execFrescoSpill cx s
  | .frescoRestore cx => Sys2Proof.Machine.execFrescoRestore cx s
  | .supervisorPreemptionRequest g => Sys2Proof.Machine.execSupervisorPreemptionRequest g s
  | .preemptionSave g => Sys2Proof.Machine.execPreemptionSave g s
  | .powerDownEntry ch => Sys2Proof.Machine.execPowerDownEntry ch s
  | .powerDownExit ch => Sys2Proof.Machine.execPowerDownExit ch s
  | .selfRefreshRequest ch => Sys2Proof.Machine.execSelfRefreshRequest ch s
  | .selfRefreshExit ch => Sys2Proof.Machine.execSelfRefreshExit ch s
  | .supplySag die => Sys2Proof.Machine.execSupplySag die s
  | .supplyRecoveryStep die => Sys2Proof.Machine.execSupplyRecoveryStep die s
  | .suspendRequest epoch => Sys2Proof.Machine.execSuspendRequest epoch s
  | .quiesceLimitExpiry => Sys2Proof.Machine.execQuiesceLimitExpiry s
  | .suspendSave => Sys2Proof.Machine.execSuspendSave s
  | .resumeRequest us image => Sys2Proof.Machine.execResumeRequest us image s
  | .failureAcknowledge => Sys2Proof.Machine.execFailureAcknowledge s
  | .powerOn fw sig => Sys2Proof.Machine.execPowerOn fw sig s
  | .selfTestPass bit => Sys2Proof.Machine.execSelfTestPass bit s
  | .configurationRecordWrite rec => Sys2Proof.Machine.execConfigurationRecordWrite rec s
  | .attestationRequest nonce => Sys2Proof.Machine.execAttestationRequest nonce s

end Sys2Proof.Machine
end

