-- ==== Sys2Proof/Machine/Schedule.lean ====
section
/-! DEFINITION. Which of the device's atomic steps happens next (R156, R63): the schedule that State holds, fetching and
decoding at an issue point (R74, R75, R92) and in a fresco context (R320), the passing of TIME, and the placing of one
instruction where the next step fetches it. -/

namespace Sys2Proof.Machine

/-! ### Issue points -/

/-- Whether a word is a CSRW of a CSR reserved to the supervisor (R92 code 5). -/
def writesSupCsr (w : IWord) : Bool :=
  fMaj w == 0x28 && match csrOf (fImm w) (fun c => .ok c) with
    | .ok c => csrSup c
    | .error _ => false

/-- The instruction of the words at an issue point, or the code and operand of the first check of R92 that fails: one that
the words alone fail, unless code 2 or 5 comes before it. -/
def headInstr (sup : Bool) (q : SeqId) (w v : IWord) : Except (Nat × Nat) Instr :=
  match decode w v with
  | .ok i => .ok i
  | .error r =>
    match permitted w with
    | none => .error (1, 0)
    | some l =>
      if r.code = 1 then .error (1, 0)
      else if ¬l.contains q then .error (2, 0)
      else if r.code = 6 ∧ writesSupCsr w ∧ ¬sup then .error (5, 0)
      else .error (r.code, r.operand)

/-- A trap of the head instruction itself, after what comes before any instruction: a landing of C, a held machine check of X,
a stop at the issue point. -/
def headTrap (s : State) (g : Nat) (q : SeqId) (t : State → State) : State :=
  if q = .c ∧ (handOf s g).landings.any (fun l => l.rem == 0) then s
  else if (sqOf s g q).awaits.isSome then stalled s g q 9
  else if q = .x ∧ (handOf s g).heldMc.isSome ∧ ¬(handOf s g).sup then takeHeld s g
  else match stopMatch s g 0 (some q) with
    | some i => takeStop s g i q
    | none => t s

/-- What the next step is: the meaning of an instruction at a state, or a state reached without one. -/
inductive Move where
  | goes (i : Instr) (s : State)
  | stays (s : State)
  deriving DecidableEq, Repr

/-- The move of the issue point in focus: a line to fetch, a trap of R75 or R92, or the decoded instruction. -/
def issueMove (s : State) : Move :=
  let g := s.focus
  let q := s.focusSq
  let z := sqOf s g q
  if ¬canIssue s g q then .stays s
  else if z.line.isNone ∨ z.ranOff then .goes (.lineFetch g q false) s
  else
    let w := headWord z
    if isLong w ∧ linkCnt (linkOf z) < z.pc.slot + 1 then .stays (headTrap s g q (fun s => takeTrap s g q 2 (fetchInfo 4 z.led)))
    else match headInstr (handOf s g).sup q w (nextWord z) with
      | .ok i => .goes i s
      | .error (c, o) => .stays (headTrap s g q (fun s => takeTrap s g q 1 (illegalInfo c o w)))

/-- The move of the issue point in focus while the schedule is empty: what it waits for of its own comes first. -/
def focusMove (s : State) : Move :=
  let g := s.focus
  let h := handOf s g
  if s.focusSq = .c ∧ (h.landings.any (fun l => l.rem == 0) ∨ (h.c.status = .halted ∧ h.landings ≠ [])) then .goes (.landing g) s
  else if (sqOf s g s.focusSq).late.any (fun l => l.due.isNone) then .stays (lateArrive s g s.focusSq (fun l => l.due.isNone))
  else match (sqOf s g s.focusSq).walks.findIdx? walkLive with
  | some i => .goes (.walkComplete g { sq := s.focusSq, ix := i }) s
  | none => issueMove s

/-- The move of a fresco context: its word at MPC, decoded; bad says that the row operation meets an uncorrectable error. -/
def microMove (s : State) (bad : Bool) : Move :=
  let c := ctxOf s s.microCx
  let runs := (c.state == .running || c.state == .draining) && c.begun && !c.drained
  if ¬runs then .stays s
  else if bad then .stays (microError s)
  else match decodeMicro (tget 0 (chanOf s (s.microCx / 4)).ibuf c.mpc) with
    | .ok i => .goes i s
    | .error _ => .stays s

/-- An instruction that no word encodes: one of the device's other atomic steps. -/
def isEvent (i : Instr) : Bool := (encode i).isNone && (encodeMicro i).isNone

/-! ### Time -/

/-- TIME n nanoseconds later. -/
def later (s : State) (n : Nat) : State := { s with time := s.time + BitVec.ofNat 64 n }

/-- How far TIME may advance before the next latch falls due (R353); while the controller is off none does. -/
def untilLatch (s : State) (n : Nat) : Nat :=
  let due := if mcUp s then s.pkg.latches.map (fun t => t.toNat) ++ (ownLatch s).toList else []
  due.foldl (fun m t => min m (t - s.time.toNat)) n

/-- The next step of the schedule: a latch that is due; else its first action; else the issue point in focus. -/
def nextMove (s : State) : Move :=
  if latchDue s then .goes .latch s
  else match s.agenda with
  | [] => focusMove s
  | .elapse n :: r =>
    let d := untilLatch s n
    .stays (later { s with agenda := if d < n then .elapse (n - d) :: r else r } (d - 1))
  | .late g q :: r => .stays (lateArrive { s with agenda := r } g q (fun l => l.due.isNone))
  | .record ix :: r => .stays (takeRecord { s with agenda := r } ix)
  | .shadow gr u i :: r => .stays (shadowRead { s with agenda := r } gr u i)
  | .tally gr u i n :: r => .stays (tally { s with agenda := r } gr u i n)
  | .event i :: r => if isEvent i then .goes i { s with agenda := r } else .stays { s with agenda := r }
  | .issue g q :: r => issueMove { s with agenda := r, focus := g, focusSq := q }
  | .micro cx bad :: r => microMove { s with agenda := r, microCx := cx } bad

/-- The end of every step: TIME passes, and the results that are due land (R100). -/
def settled (s : State) : State := lateDue (later s 1)

/-! ### One instruction placed -/

/-- The state in which the next move is the schedule's: no latch is due. -/
def noLatch (s : State) : State :=
  { s with pkg := { s.pkg with latches := s.pkg.latches.filter (fun t => decide (s.time.toNat < t.toNat)), latchAt := max s.pkg.latchAt s.time.toNat } }

/-- The sequencer on which a word is placed: the first of X, L, S, C that may execute it. -/
def placeOn (w : IWord) : SeqId :=
  let l := (permitted w).getD [.x]
  if l.contains .x then .x else if l.contains .l then .l else if l.contains .s then .s else .c

/-- A leaf bound on the hand in focus, with its sequencer q at slot 1 of a line that holds the words w and v. -/
def placeHand (s : State) (w v : IWord) : State :=
  let g := s.focus
  let q := placeOn w
  let link : IWord := BitVec.ofNat 32 (2 ^ 29 * seqNo q + 2 ^ 28 + 2 ^ 24 * 15)
  let b : Bound := { launch := s.nextId, task := 0, leaf := 0, codeBase := 0, codeLen := 1, windows := [(0, 96), (0, 96), (0, 64)] }
  let s := { noLatch s with
    focusSq := q, agenda := [], nextId := s.nextId + 1, cuts := s.cuts.filter (fun c => !c.frozen.any (fun x => x.1 == g))
    preempts := s.preempts.filter (fun e => e.1 != g || e.2.saved) }
  modHand s g (fun h =>
    let h := { h with bound := some b, ending := none, heldMc := none, landings := [] }
    modSeq h q (fun z => { z with
      status := .run, frozen := false, ranOff := false, awaits := none, walks := [], pc := { line := 0, slot := 1 }, led := { line := 0, slot := 1 }
      line := some (link :: w :: v :: List.replicate 13 0) }))

/-- A running job whose context stands at word 0 of its unit's instruction buffer, which holds the word w. -/
def placeMicro (s : State) (w : IWord) : State :=
  let cx := s.microCx
  let s := { noLatch s with agenda := [.micro cx false] }
  let s := modChan s (cx / 4) (fun c => { c with power := .active, ibuf := tput c.ibuf 0 w })
  modCtx s cx (fun c => { c with state := .running, begun := true, drained := false, mpc := 0, since := 0 })

/-- An instruction of nbits bits placed where the next step takes it: a word that only the fresco unit decodes goes to a
context, every other word to an issue point. -/
def placeWord (s : State) (nbits w : Nat) : State :=
  let b := BitVec.ofNat 64 (w % 2 ^ nbits)
  let w0 := wordOfBytes (bytesOfWord (b.extractLsb' 0 32))
  let w1 := wordOfBytes (bytesOfWord (b.extractLsb' 32 32))
  match decode w0 w1, decodeMicro w0 with
  | .error _, .ok _ => placeMicro s w0
  | _, _ => placeHand s w0 w1

end Sys2Proof.Machine
end

