-- ==== Sys2Proof/Machine/Step.lean ====
section
/-! DEFINITION. One step of the machine: the next move of the schedule, and the end of the step. -/

namespace Sys2Proof.Machine

/-- One atomic step (R156): the next move's meaning, then the end of the step. -/
def step (s : State) : Host.Outcome State Fault Refusal :=
  match nextMove s with
  | .stays t => .next (settled t)
  | .goes i t =>
    match exec i t with
    | .next u => .next (settled u)
    | .fault f => .fault f
    | .refused r => .refused r

/-- The state with one instruction where the next step fetches it. -/
def State.withFetchWord (s : State) (nbits w : Nat) : State := placeWord s nbits w

end Sys2Proof.Machine
end

