-- ==== Sys2Proof/Safety.lean ====
section
/-! DEFINITION. What the statements about this machine speak of: when an issue point issues and what that takes, the
request of every hand instruction, and the results that the spec's tables give, written apart from the meanings. -/

namespace Sys2Proof.Machine

/-! ### Issue points -/

/-- The sequencer in focus takes a step of its own: it issues, and no landing of C is due (R80, R330, R336, R346). -/
structure Standing (s : State) : Prop where
  live   : canIssue s s.focus s.focusSq = true
  noDue  : s.focusSq = .c → ∀ l ∈ (handOf s s.focus).landings, l.rem ≠ 0

/-- Whether a barrier operation of a sequencer waits for its reply (R267). -/
def barrierPending (z : Seqr) : Prop := z.awaits ≠ none

/-- An instruction stands before its own checks at the issue point in focus: no barrier operation of the sequencer is
outstanding, no machine check is held for X, and no armed stop names the issue point (R267, R335, R348). -/
structure AtHead (s : State) : Prop extends Standing s where
  noBarrier : ¬barrierPending (sqOf s s.focus s.focusSq)
  noMc   : s.focusSq = .x → (handOf s s.focus).heldMc = none ∨ (handOf s s.focus).sup = true
  noStop : stopMatch s s.focus 0 (some s.focusSq) = none

/-- The issue point in focus issues an instruction of request r: it passes the checks of R92, waits for nothing, and its
sources read as vals, which leaves the hand as h. -/
structure Issues (s : State) (k : Tok) (r : Req) (h : Hand) (vals : List (Word × Tag)) : Prop extends AtHead s where
  legal     : checks (handOf s s.focus) s.focus s.focusSq r = none
  noPending : ∀ n ∈ reqRegs r, regPending (sqOf s s.focus s.focusSq) n = false
  tokens    : tokenWait (handOf s s.focus) s.focusSq k = none
  landRoom  : s.focusSq = .c → (handOf s s.focus).landings.length + r.lands ≤ 16
  lanesFree : s.focusSq = .c → r.lane = true → (handOf s s.focus).lanes = 0
  reads     : readSrcs (handOf s s.focus) (s.focus % 4) s.focusSq r.norec r.srcs = .ok (h, vals)
  room      : ∀ n, reserves s.focusSq r.dst = some n → chanRoom s s.focus n = true

/-- The state an instruction's own effect starts from: its operands read, its tokens taken, its channel entry reserved, its
ticket taken (R69, R71, R84). -/
def opened (s : State) (k : Tok) (r : Req) (h : Hand) : State :=
  let t := popAcquire (setHand s s.focus (tokenTake h s.focusSq k)) s.focus r.srcs
  let t := match reserves s.focusSq r.dst with
    | none => t
    | some n => chanAdd t s.focus n { val := none, ticket := s.nextId, terms := [] }
  ticketed t

/-- The end at t of the issue in focus at s, past n slots. -/
def closed (s t : State) (k : Tok) (n : Nat) : State := finish t s.focus s.focusSq k (fun q => advance q n)

/-- A result v with its tag at destination d, of latency lat, and the end of the issue. -/
def wrote (s : State) (k : Tok) (r : Req) (h : Hand) (lat : Nat) (d : Dst) (v : Word) (t : Tag) (n : Nat) : State :=
  closed s (putDst (opened s k r h) s.focus s.focusSq s.nextId lat d v t) k n

/-! ### The request of every hand instruction -/

/-- A request of a 6-bit destination and 7-bit sources. -/
def operands (d : Dst) (srcs : List Src) : Req := reqRR (some d) srcs

/-- Whether A of a channel query is anything but a peek (R113). -/
def notPeek (a : Src) : Bool :=
  match a with
  | .peek _ => false
  | _ => true

/-- Whether a channel operand names a channel this sequencer does not write (R113). -/
def writeBad (g : Nat) (q : SeqId) (a : Src) : Bool :=
  match a with
  | .reg _ => false
  | .pop n => decide (16 ≤ n.toNat) || decide (chanWriter (g % 4) n.toNat ≠ some q)
  | .peek n => decide (16 ≤ n.toNat) || decide (chanWriter (g % 4) n.toNat ≠ some q)

/-- Whether a group of MMAG reaches beyond the cluster's 4 by 4 easels (R236). -/
def meshFar (g : Nat) (gr gc : BitVec 2) : Bool :=
  decide (3 < easelNo g % 16 / 4 + gr.toNat ∨ 3 < easelNo g % 4 + gc.toNat)

/-- What each hand instruction asks of its issue point, and the TOK bits that gate it; a copy waits for its tokens after its
own checks (R140). Micro-instructions and the device's other steps ask nothing of an issue point. -/
def request (i : Instr) (s : State) : Option (Tok × Req) :=
  let g := s.focus
  let q := s.focusSq
  let h := handOf s g
  match i with
  | .add k d a b => some (k, operands d [a, b])
  | .sub k d a b => some (k, operands d [a, b])
  | .and k d a b => some (k, operands d [a, b])
  | .or k d a b => some (k, operands d [a, b])
  | .xor k d a b => some (k, operands d [a, b])
  | .sll k d a b => some (k, operands d [a, b])
  | .srl k d a b => some (k, operands d [a, b])
  | .sra k d a b => some (k, operands d [a, b])
  | .mul k d a b => some (k, operands d [a, b])
  | .mulh k d a b => some (k, operands d [a, b])
  | .mulhu k d a b => some (k, operands d [a, b])
  | .andn k d a b => some (k, operands d [a, b])
  | .div k d a b => some (k, operands d [a, b])
  | .divu k d a b => some (k, operands d [a, b])
  | .rem k d a b => some (k, operands d [a, b])
  | .remu k d a b => some (k, operands d [a, b])
  | .seq k d a b => some (k, operands d [a, b])
  | .slt k d a b => some (k, operands d [a, b])
  | .sltu k d a b => some (k, operands d [a, b])
  | .sne k d a b => some (k, operands d [a, b])
  | .min k d a b => some (k, operands d [a, b])
  | .max k d a b => some (k, operands d [a, b])
  | .minu k d a b => some (k, operands d [a, b])
  | .maxu k d a b => some (k, operands d [a, b])
  | .addi k d a _ => some (k, operands d [a])
  | .andi k d a _ => some (k, operands d [a])
  | .ori k d a _ => some (k, operands d [a])
  | .xori k d a _ => some (k, operands d [a])
  | .slti k d a _ => some (k, operands d [a])
  | .sltiu k d a _ => some (k, operands d [a])
  | .slli k d a _ => some (k, operands d [a])
  | .srli k d a _ => some (k, operands d [a])
  | .srai k d a _ => some (k, operands d [a])
  | .roti k d a _ => some (k, operands d [a])
  | .addsh k d a b _ => some (k, operands d [a, b])
  | .clz k d a => some (k, operands d [a])
  | .ctz k d a => some (k, operands d [a])
  | .popc k d a => some (k, operands d [a])
  | .brev k d a => some (k, operands d [a])
  | .tclr k d a => some (k, { operands d [a] with norec := true })
  | .tget k d a => some (k, operands d [.reg a])
  | .tjoin k d a b => some (k, operands d [a, b])
  | .twait k a => some (k, reqRR none [.reg a])
  | .chcnt k d a => some (k, { operands d [] with chan7 := srcBad g q a, limit := notPeek a })
  | .chfree k d a => some (k, { operands d [] with chan7 := writeBad g q a, limit := notPeek a })
  | .tkcnt k d _ => some (k, operands d [])
  | .nop k => some (k, reqRR none [])
  | .liw k d _ => some (k, operands d [])
  | .lih k d _ => some (k, operands (.reg d) [.reg d])
  | .beqz k r _ _ => some (k, reqRR none [.reg r])
  | .bnez k r _ _ => some (k, reqRR none [.reg r])
  | .bltz k r _ _ => some (k, reqRR none [.reg r])
  | .bgez k r _ _ => some (k, reqRR none [.reg r])
  | .bgtz k r _ _ => some (k, reqRR none [.reg r])
  | .blez k r _ _ => some (k, reqRR none [.reg r])
  | .j k _ _ => some (k, reqRR none [])
  | .jal k _ _ => some (k, operands (.reg 31) [])
  | .jr k a => some (k, reqRR none [a])
  | .jalr k a => some (k, operands (.reg 31) [a])
  | .loop k _ a => some (k, reqRR none [a])
  | .loopi k _ n => some (k, { reqRR none [] with limit := n == 0 })
  | .brloop k _ _ _ => some (k, reqRR none [])
  | .ld k d a _ _ => some (k, { operands d [a] with allowed := xls })
  | .lds k d a _ _ => some (k, { operands d [a] with allowed := xls })
  | .lda k d a _ _ _ => some (k, { operands d [a] with allowed := xls })
  | .ldb k d a _ _ _ => some (k, { operands d [a] with allowed := xls })
  | .st k _ a b _ => some (k, { reqRR none [a, b] with allowed := xls })
  | .str k _ _ a b _ => some (k, { reqRR none [a, b] with allowed := xls })
  | .stb k _ _ a b _ => some (k, { reqRR none [a, b] with allowed := xls })
  | .amoadd k d a b _ _ => some (k, reqCP xls [d, a, b])
  | .amoand k d a b _ _ => some (k, reqCP xls [d, a, b])
  | .amoor k d a b _ _ => some (k, reqCP xls [d, a, b])
  | .amoxor k d a b _ _ => some (k, reqCP xls [d, a, b])
  | .amomin k d a b _ _ => some (k, reqCP xls [d, a, b])
  | .amomax k d a b _ _ => some (k, reqCP xls [d, a, b])
  | .amominu k d a b _ _ => some (k, reqCP xls [d, a, b])
  | .amomaxu k d a b _ _ => some (k, reqCP xls [d, a, b])
  | .amoswap k d a b _ _ => some (k, reqCP xls [d, a, b])
  | .amocas k d a b _ _ => some (k, { reqCP xls [d, a, b, b + 1] with limit := b.getLsbD 0 })
  | .amofadd k d a b dbl _ => some (k, { reqCP xls [d, a, b] with limit := dbl })
  | .amofmax k d a b dbl _ => some (k, { reqCP xls [d, a, b] with limit := dbl })
  | .binit k d a b => some (k, reqCP xls [d, a, b])
  | .barv k d a b => some (k, reqCP xls [d, a, b])
  | .bwait k d a b => some (k, reqCP xls [d, a, b])
  | .btest k d a b => some (k, reqCP xls [d, a, b])
  | .breset k d a b => some (k, reqCP xls [d, a, b])
  | .fence k _ _ _ _ _ _ _ => some (k, reqRR none [])
  | .csrr k d c => some (k, { operands d [] with limit := !csrHere q c })
  | .csrw k a c => some (k, if c = .palbase then { reqRR none [a] with limit := q != .c } else { reqRR none [a] with sup := csrSup c, limit := limitBroken (.csrw k a c) || !csrHere q c })
  | .palbaseWrite k a => some (k, { reqRR none [a] with limit := q != .c })
  | .trap k a => some (k, reqRR none [a])
  | .eret => some (noTok, { reqRR none [] with limit := q != .x || !h.sup })
  | .halt k => some (k, reqRR none [])
  | .yield k => some (k, { reqRR none [] with limit := h.sup })
  | .brk k _ => some (k, reqRR none [])
  | .cpqry k d a => some (k, reqCP everywhere [d, a])
  | .frgo k d a b => some (k, reqCP everywhere [d, a, b])
  | .frld k d a b => some (k, reqCP everywhere [d, a, b])
  | .cxlay k d a b => some (k, reqCP everywhere [d, a, b])
  | .cxgo k d a b => some (k, reqCP everywhere [d, a, b])
  | .carm k d a b => some (k, reqCP everywhere [d, a, b])
  | .cadd k d a b => some (k, reqCP everywhere [d, a, b])
  | .chist k d a b => some (k, reqCP everywhere [d, a, b])
  | .frst k d a => some (k, reqCP everywhere [d, a])
  | .frspl k d a => some (k, reqCP everywhere [d, a])
  | .cdis k d a => some (k, reqCP everywhere [d, a, 0])
  | .ccnt k d a => some (k, reqCP everywhere [d, a, 0])
  | .csend k d a => some (k, reqCP everywhere [d, a, 0])
  | .cslot k d => some (k, reqCP everywhere [d, 0, 0])
  | .pushc k d a _ => some (k, { reqCPw everywhere d (groupRegs a) with limit := !(a == 8 || a == 16 || a == 24) })
  | .mlease k d a => some (k, { operands d [a] with allowed := [.c] })
  | .mfree k => some (k, reqV [] false false 0)
  | .mstat k d => some (k, { operands d [] with allowed := [.c] })
  | .msync k => some (k, reqV [] false false 0)
  | .mma k c a b _ pal alg m n _ ta tb _ _ _ _ => some (k, reqV [c, a, b] (mmaLimit h pal alg m n ta tb) false 0)
  | .mmag k c a b _ pal alg m n _ ta tb _ _ _ gr gc => some (k, reqV [c, a, b] (meshFar g gr gc || mmaLimit h pal alg m n ta tb) false 0)
  | .algld k sl r => some (k, reqV [r] (sl == 0) false 0)
  | .gtick k d a b => some (k, reqCP xls [d, a, b])
  | .gexp k d a b => some (k, reqCP xls [d, a, b])
  | .gimp k d a b => some (k, reqCP xls [d, a, b])
  | .gldg k d a m => some (k, { reqCP xls (a :: (if limitBroken (.gldg k d a m) then [] else (tapRegs d m).map (·.1))) with limit := limitBroken (.gldg k d a m) })
  | .grst k a b => some (k, reqCP xls [a, b])
  | .gstat k d a => some (k, reqCP xls [d, a])
  | .gcfg k _ r => some (k, { reqCP [.x] [r] with sup := true })
  | .vadd k _ _ _ _ => some (k, reqV [] false true 1)
  | .vsub k _ _ _ _ => some (k, reqV [] false true 1)
  | .vmul k _ _ _ _ => some (k, reqV [] false true 1)
  | .vfma k _ _ _ _ => some (k, reqV [] false true 1)
  | .vmin k _ _ _ _ => some (k, reqV [] false true 1)
  | .vmax k _ _ _ _ => some (k, reqV [] false true 1)
  | .vdiv k _ _ _ _ => some (k, reqV [] false true 1)
  | .vfms k _ _ _ _ => some (k, reqV [] false true 1)
  | .vceq k _ _ _ _ => some (k, reqV [] false true 1)
  | .vclt k _ _ _ _ => some (k, reqV [] false true 1)
  | .vcle k _ _ _ _ => some (k, reqV [] false true 1)
  | .vcne k _ _ _ _ => some (k, reqV [] false true 1)
  | .viadd k _ _ _ _ => some (k, reqV [] false true 1)
  | .visub k _ _ _ _ => some (k, reqV [] false true 1)
  | .vimul k _ _ _ _ => some (k, reqV [] false true 1)
  | .vshl k _ _ _ _ => some (k, reqV [] false true 1)
  | .vand k _ _ _ _ => some (k, reqV [] false true 1)
  | .vor k _ _ _ _ => some (k, reqV [] false true 1)
  | .vxor k _ _ _ _ => some (k, reqV [] false true 1)
  | .vshr k _ _ _ _ => some (k, reqV [] false true 1)
  | .vsel k _ _ _ _ => some (k, reqV [] false true 1)
  | .vextr k _ _ _ _ => some (k, reqV [] false true 1)
  | .vins k _ _ _ _ => some (k, reqV [] false true 1)
  | .vrotr k _ _ _ _ => some (k, reqV [] false true 1)
  | .vrotc k _ _ _ _ => some (k, reqV [] false true 1)
  | .vhmul k _ _ _ _ => some (k, reqV [] false true 1)
  | .vscan k _ _ _ _ => some (k, reqV [] false true 1)
  | .vsqrt k _ _ _ => some (k, reqV [] false true 1)
  | .vrcp k _ _ _ => some (k, reqV [] false true 1)
  | .vrsq k _ _ _ => some (k, reqV [] false true 1)
  | .vexp2 k _ _ _ => some (k, reqV [] false true 1)
  | .vlog2 k _ _ _ => some (k, reqV [] false true 1)
  | .vabs k _ _ _ => some (k, reqV [] false true 1)
  | .vneg k _ _ _ => some (k, reqV [] false true 1)
  | .vtanh k _ _ _ => some (k, reqV [] false true 1)
  | .vmov k _ _ _ => some (k, reqV [] false true 1)
  | .vrsum k _ _ _ => some (k, reqV [] false true 1)
  | .vcsum k _ _ _ => some (k, reqV [] false true 1)
  | .vrmax k _ _ _ => some (k, reqV [] false true 1)
  | .vcmax k _ _ _ => some (k, reqV [] false true 1)
  | .vtrn k _ _ _ => some (k, reqV [] false true 1)
  | .vrev k _ _ _ => some (k, reqV [] false true 1)
  | .vhconj k _ _ _ => some (k, reqV [] false true 1)
  | .vhnorm k _ _ _ => some (k, reqV [] false true 1)
  | .vhinv k _ _ _ => some (k, reqV [] false true 1)
  | .vscana k _ _ _ => some (k, reqV [] false true 1)
  | .vscanm k _ _ _ => some (k, reqV [] false true 1)
  | .vrnd k _ _ _ => some (k, reqV [] false true 1)
  | .vcvt k _ _ _ => some (k, reqV [] (convBad h) true 1)
  | .vdq k _ _ _ => some (k, reqV [] (convBad h || (h.bsz != 0 && !narrowCode h.cfmt)) true 1)
  | .vqnt k _ _ _ => some (k, reqV [] (convBad h || !narrowCode h.cfmt || h.bsz == 0) true 1)
  | .vadds k _ _ r _ => some (k, reqV [r] false true 1)
  | .vmuls k _ _ r _ => some (k, reqV [r] false true 1)
  | .vfmas k _ _ r _ => some (k, reqV [r] false true 1)
  | .vbcast k _ r _ => some (k, reqV [r] false true 1)
  | .pand k _ _ _ => some (k, reqV [] false false 1)
  | .por k _ _ _ => some (k, reqV [] false false 1)
  | .pxor k _ _ _ => some (k, reqV [] false false 1)
  | .pnot k _ _ => some (k, reqV [] false false 1)
  | .vld k _ _ r _ => some (k, reqV [r] false false 1)
  | .vldr k _ _ r _ => some (k, reqV [r] false false 1)
  | .vst k _ _ r _ => some (k, reqV [r] false false 0)
  | .vstr k _ _ r _ => some (k, reqV [r] false false 0)
  | .vshape k d a => some (k, reqCPw [.c] d [a])
  | .algsel k d a => some (k, reqCPw [.c] d [a])
  | .psel k d a b => some (k, reqCPw [.c] d [a, b])
  | .vland k d a b => some (k, reqCPw [.c] d [a, b])
  | .pset k _ _ cnt => some (k, reqV [] (decide (1024 < cnt.toNat)) false 1)
  | .vtlu k _ a _ n _ _ => some (k, reqV [] (decide (31 < a.toNat + n.toNat)) true 1)
  | .copyIn _ t ts b o _ _ _ _ op _ => some (noTok, { reqCP [.l] [t, ts, b, o] with limit := decide (op ≠ .copy) })
  | .copyOut _ t ts b o _ _ _ _ _ _ => some (noTok, reqCP [.s] [t, ts, b, o])
  | .copyxIn _ t ts b o x _ _ _ _ op _ => some (noTok, { reqCP [.l] [t, ts, b, o, x] with limit := decide (op ≠ .copy) })
  | .copyxOut _ t ts b o x _ _ _ _ _ _ => some (noTok, reqCP [.s] [t, ts, b, o, x])
  | .drain _ t c ts o _ _ _ _ _ => some (noTok, reqCP [.s] [t, ts, c, o])
  | _ => none

/-! ### Scalar results (R102-R111) -/

/-- The result of a condition. -/
def truth (p : Prop) [Decidable p] : Word := if p then 1 else 0

/-- The rows of R102, R105 and R111, of two sources: tokens, destination, A, B, latency on C (R100), and the value in the
integers of the operands. -/
def ruleRR (i : Instr) : Option (Tok × Dst × Src × Src × Nat × (Word → Word → Word)) :=
  match i with
  | .add k d a b => some (k, d, a, b, 1, fun a b => BitVec.ofNat 64 (a.toNat + b.toNat))
  | .sub k d a b => some (k, d, a, b, 1, fun a b => BitVec.ofInt 64 (a.toInt - b.toInt))
  | .and k d a b => some (k, d, a, b, 1, fun a b => BitVec.ofNat 64 (a.toNat &&& b.toNat))
  | .or k d a b => some (k, d, a, b, 1, fun a b => BitVec.ofNat 64 (a.toNat ||| b.toNat))
  | .xor k d a b => some (k, d, a, b, 1, fun a b => BitVec.ofNat 64 (a.toNat ^^^ b.toNat))
  | .sll k d a b => some (k, d, a, b, 1, fun a b => BitVec.ofNat 64 (a.toNat * 2 ^ (b.toNat % 64)))
  | .srl k d a b => some (k, d, a, b, 1, fun a b => BitVec.ofNat 64 (a.toNat / 2 ^ (b.toNat % 64)))
  | .sra k d a b => some (k, d, a, b, 1, fun a b => BitVec.ofInt 64 (a.toInt / 2 ^ (b.toNat % 64)))
  | .mul k d a b => some (k, d, a, b, 3, fun a b => BitVec.ofNat 64 (a.toNat * b.toNat))
  | .mulh k d a b => some (k, d, a, b, 3, fun a b => BitVec.ofInt 64 (a.toInt * b.toInt / 2 ^ 64))
  | .mulhu k d a b => some (k, d, a, b, 3, fun a b => BitVec.ofNat 64 (a.toNat * b.toNat / 2 ^ 64))
  | .andn k d a b => some (k, d, a, b, 1, fun a b => BitVec.ofNat 64 (a.toNat &&& (2 ^ 64 - 1 - b.toNat)))
  | .div k d a b => some (k, d, a, b, 12, fun a b => if b.toInt = 0 then BitVec.ofInt 64 (-1) else BitVec.ofInt 64 (a.toInt.tdiv b.toInt))
  | .divu k d a b => some (k, d, a, b, 12, fun a b => if b.toNat = 0 then BitVec.ofNat 64 (2 ^ 64 - 1) else BitVec.ofNat 64 (a.toNat / b.toNat))
  | .rem k d a b => some (k, d, a, b, 12, fun a b => if b.toInt = 0 then a else BitVec.ofInt 64 (a.toInt.tmod b.toInt))
  | .remu k d a b => some (k, d, a, b, 12, fun a b => if b.toNat = 0 then a else BitVec.ofNat 64 (a.toNat % b.toNat))
  | .seq k d a b => some (k, d, a, b, 1, fun a b => truth (a.toNat = b.toNat))
  | .slt k d a b => some (k, d, a, b, 1, fun a b => truth (a.toInt < b.toInt))
  | .sltu k d a b => some (k, d, a, b, 1, fun a b => truth (a.toNat < b.toNat))
  | .sne k d a b => some (k, d, a, b, 1, fun a b => truth (a.toNat ≠ b.toNat))
  | .min k d a b => some (k, d, a, b, 1, fun a b => BitVec.ofInt 64 (min a.toInt b.toInt))
  | .max k d a b => some (k, d, a, b, 1, fun a b => BitVec.ofInt 64 (max a.toInt b.toInt))
  | .minu k d a b => some (k, d, a, b, 1, fun a b => BitVec.ofNat 64 (min a.toNat b.toNat))
  | .maxu k d a b => some (k, d, a, b, 1, fun a b => BitVec.ofNat 64 (max a.toNat b.toNat))
  | .addsh k d a b sh => some (k, d, a, b, 1, fun a b => BitVec.ofNat 64 (a.toNat + b.toNat * 2 ^ sh.toNat))
  | .tjoin k d a b => some (k, d, a, b, 1, fun a _ => a)
  | _ => none

/-- The word whose bit i is f i. -/
def wordBits (f : Nat → Bool) : Word := BitVec.ofNat 64 (((List.range 64).map (fun i => if f i then 2 ^ i else 0)).sum)

/-- The rows of R103, R104 and R106, of one source. -/
def ruleRI (i : Instr) : Option (Tok × Dst × Src × (Word → Word)) :=
  match i with
  | .addi k d a imm => some (k, d, a, fun a => BitVec.ofInt 64 (a.toInt + imm.toInt))
  | .andi k d a imm => some (k, d, a, fun a => BitVec.ofNat 64 (a.toNat &&& imm.toNat))
  | .ori k d a imm => some (k, d, a, fun a => BitVec.ofNat 64 (a.toNat ||| imm.toNat))
  | .xori k d a imm => some (k, d, a, fun a => BitVec.ofNat 64 (a.toNat ^^^ imm.toNat))
  | .slli k d a n => some (k, d, a, fun a => BitVec.ofNat 64 (a.toNat * 2 ^ n.toNat))
  | .srli k d a n => some (k, d, a, fun a => BitVec.ofNat 64 (a.toNat / 2 ^ n.toNat))
  | .srai k d a n => some (k, d, a, fun a => BitVec.ofInt 64 (a.toInt / 2 ^ n.toNat))
  | .roti k d a n => some (k, d, a, fun a => wordBits (fun i => a.getLsbD ((i + n.toNat) % 64)))
  | .slti k d a imm => some (k, d, a, fun a => truth (a.toInt < imm.toInt))
  | .sltiu k d a imm => some (k, d, a, fun a => truth ((a.toNat : Int) < imm.toInt % 2 ^ 64))
  | .clz k d a => some (k, d, a, fun a => BitVec.ofNat 64 (((List.range 64).takeWhile (fun i => !a.getLsbD (63 - i))).length))
  | .ctz k d a => some (k, d, a, fun a => BitVec.ofNat 64 (((List.range 64).takeWhile (fun i => !a.getLsbD i)).length))
  | .popc k d a => some (k, d, a, fun a => BitVec.ofNat 64 (((List.range 64).filter (fun i => a.getLsbD i)).length))
  | .brev k d a => some (k, d, a, fun a => wordBits (fun i => a.getLsbD (63 - i)))
  | _ => none

/-! ### Branches (R114-R118) -/

/-- The condition of R114, in the integer that S5 holds. -/
def branchRule (i : Instr) : Option (Tok × BitVec 5 × BitVec 10 × BitVec 4 × (Int → Bool)) :=
  match i with
  | .beqz k r o x => some (k, r, o, x, fun v => decide (v = 0))
  | .bnez k r o x => some (k, r, o, x, fun v => decide (v ≠ 0))
  | .bltz k r o x => some (k, r, o, x, fun v => decide (v < 0))
  | .bgez k r o x => some (k, r, o, x, fun v => decide (0 ≤ v))
  | .bgtz k r o x => some (k, r, o, x, fun v => decide (0 < v))
  | .blez k r o x => some (k, r, o, x, fun v => decide (v ≤ 0))
  | _ => none

/-! ### Frames -/

/-- The instructions that touch nothing beyond their sequencer's registers and loop counters, its issue point, tokens and
channels (R100-R121): BRLOOP apart, which may take a snapshot and turns ROT. -/
def plainScalar (i : Instr) : Bool :=
  (ruleRR i).isSome || (ruleRI i).isSome || (branchRule i).isSome ||
  match i with
  | .tclr _ _ _ => true
  | .nop _ => true
  | .liw _ _ _ => true
  | .lih _ _ _ => true
  | .tget _ _ _ => true
  | .twait _ _ => true
  | .chcnt _ _ _ => true
  | .chfree _ _ _ => true
  | .tkcnt _ _ _ => true
  | .csrr _ _ _ => true
  | .j _ _ _ => true
  | .jal _ _ _ => true
  | .jr _ _ => true
  | .jalr _ _ => true
  | .loop _ _ _ => true
  | .loopi _ _ _ => true
  | _ => false

/-- What an instruction of the hand in focus leaves unchanged from s to t: memory, channels of HBM, partitions, queues,
launches, the schedule and every unit but hands, dies, easels and the entries waiting for channels; of its own hand every
special, vector, predicate and exception register; of the hand's other sequencers all but the token queues between them. -/
structure HandFrame (s t : State) : Prop where
  rest   : t = { s with hands := t.hands, dies := t.dies, pushes := t.pushes, easels := t.easels, pkg := { s.pkg with counters := t.pkg.counters }, nextId := t.nextId }
  bytes  : ∀ a, memGet t.mem a = memGet s.mem a
  own    : handOf t s.focus = { handOf s s.focus with
    x := (handOf t s.focus).x, l := (handOf t s.focus).l, c := (handOf t s.focus).c, s := (handOf t s.focus).s
    chans := (handOf t s.focus).chans, vtime := (handOf t s.focus).vtime, lanes := (handOf t s.focus).lanes
    landStat := (handOf t s.focus).landStat, landings := (handOf t s.focus).landings, portAsk := (handOf t s.focus).portAsk }
  seqs   : ∀ q, q ≠ s.focusSq → sqOf t s.focus q = { sqOf s s.focus q with fwdQ := (sqOf t s.focus q).fwdQ, backQ := (sqOf t s.focus q).backQ }
  onC    : s.focusSq ≠ .c → (handOf t s.focus).vtime = (handOf s s.focus).vtime ∧ (handOf t s.focus).lanes = (handOf s s.focus).lanes ∧
    (handOf t s.focus).landings = (handOf s s.focus).landings ∧ (handOf t s.focus).landStat = (handOf s s.focus).landStat ∧
    (handOf t s.focus).portAsk = (handOf s s.focus).portAsk

/-- Every hand but the one in focus, and the one that receives a push of destination d, is unchanged. -/
def OtherHands (s t : State) (d : Option Dst) : Prop :=
  ∀ g, g ≠ s.focus → (∀ n, d = some (.chan n) → g ≠ (chanHome s.focus n.toNat).1) → handOf t g = handOf s g

/-- What an instruction of registers, tokens and channels alone leaves unchanged when its destination is d; a result on its way to a
channel may join those that the sequencer waits for (R100). -/
structure ScalarFrame (s t : State) (d : Option Dst) : Prop extends HandFrame s t where
  easels : t.easels = s.easels
  others : OtherHands s t d
  self   : sqOf t s.focus s.focusSq = { sqOf s s.focus s.focusSq with
    regs := (sqOf t s.focus s.focusSq).regs, tags := (sqOf t s.focus s.focusSq).tags, lc := (sqOf t s.focus s.focusSq).lc
    pc := (sqOf t s.focus s.focusSq).pc, led := (sqOf t s.focus s.focusSq).led, ranOff := (sqOf t s.focus s.focusSq).ranOff
    line := (sqOf t s.focus s.focusSq).line, fwdQ := (sqOf t s.focus s.focusSq).fwdQ, backQ := (sqOf t s.focus s.focusSq).backQ
    held := (sqOf t s.focus s.focusSq).held, late := (sqOf t s.focus s.focusSq).late, frecs := (sqOf t s.focus s.focusSq).frecs, stall := (sqOf t s.focus s.focusSq).stall
    since := (sqOf t s.focus s.focusSq).since }
  late   : (∀ n, d ≠ some (.chan n)) → (sqOf t s.focus s.focusSq).late = (sqOf s s.focus s.focusSq).late
  regs   : ∀ n, d ≠ some (.reg n) → regGet (sqOf t s.focus s.focusSq) n = regGet (sqOf s s.focus s.focusSq) n ∧
    tagGet (sqOf t s.focus s.focusSq) n = tagGet (sqOf s s.focus s.focusSq) n

/-! ### Loads, stores, atomics, buffers -/

/-- The address of R143: the base, and an offset counted in units of the width, modulo 2^64. -/
def address (a : Word) (o : Int) (z : Width) : Nat := (((a.toNat : Int) + o * (widthBytes z : Int)) % 2 ^ 64).toNat

def loadRule (i : Instr) : Option (Tok × Dst × Src × Width × Int × Bool × Option Scope) :=
  match i with
  | .ld k d a z o => some (k, d, a, z, o.toInt, false, none)
  | .lds k d a z o => some (k, d, a, z, o.toInt, true, none)
  | .lda k d a z sc o => some (k, d, a, z, o.toInt, false, some sc)
  | _ => none

def storeRule (i : Instr) : Option (Tok × Src × Src × Width × Int × Option Scope) :=
  match i with
  | .st k o a b z => some (k, a, b, z, o.toInt, none)
  | .str k sc o a b z => some (k, a, b, z, o.toInt, some sc)
  | _ => none

/-- An atomic of R274: its tokens, registers, width, ordering and operation code. -/
def amoRule (i : Instr) : Option (Tok × BitVec 5 × BitVec 5 × BitVec 5 × Bool × AmoOrd × Nat) :=
  match i with
  | .amoadd k d a b z o => some (k, d, a, b, z, o, 0)
  | .amoand k d a b z o => some (k, d, a, b, z, o, 1)
  | .amoor k d a b z o => some (k, d, a, b, z, o, 2)
  | .amoxor k d a b z o => some (k, d, a, b, z, o, 3)
  | .amomin k d a b z o => some (k, d, a, b, z, o, 4)
  | .amomax k d a b z o => some (k, d, a, b, z, o, 5)
  | .amominu k d a b z o => some (k, d, a, b, z, o, 6)
  | .amomaxu k d a b z o => some (k, d, a, b, z, o, 7)
  | .amoswap k d a b z o => some (k, d, a, b, z, o, 8)
  | .amocas k d a b z o => some (k, d, a, b, z, o, 9)
  | .amofadd k d a b z o => some (k, d, a, b, z, o, 10)
  | .amofmax k d a b z o => some (k, d, a, b, z, o, 11)
  | _ => none

/-- A barrier operation of R276: its tokens, registers and operation code. -/
def barrierRule (i : Instr) : Option (Tok × BitVec 5 × BitVec 5 × BitVec 5 × Nat) :=
  match i with
  | .binit k d a b => some (k, d, a, b, 0)
  | .barv k d a b => some (k, d, a, b, 1)
  | .bwait k d a b => some (k, d, a, b, 2)
  | .btest k d a b => some (k, d, a, b, 3)
  | .breset k d a b => some (k, d, a, b, 4)
  | _ => none

/-- A scalar access of w bytes at va is translated to the pages ps and may enter the ordering buffer of the sequencer in
focus (R128, R155, R249, R259). -/
structure Reaches (s : State) (store : Bool) (va w : Nat) (ps : List Page) : Prop where
  pages : xlateAll s s.focus s.focusSq (!store) store scalarTypes (splitPages va w) = .pages ps
  free  : glazeStalls s s.focus (List.zip (splitPages va w) ps) = false
  typed : typedFirst s s.focus s.focusSq store w (splitPages va w) = none
  room  : (sqOf s s.focus s.focusSq).ob.length < 32

/-- The pieces of an access in bytes of a page list. -/
def accessPieces (va w : Nat) (ps : List Page) : List Piece := piecesOf va w (splitPages va w) ps

/-- The issue in focus has gone on past one slot from s to t, and the registers of its sequencer hold what they held. -/
structure GoesOn (s t : State) : Prop extends HandFrame s t where
  pc     : (sqOf t s.focus s.focusSq).pc = seqNext (sqOf s s.focus s.focusSq) 1
  values : ∀ n, regGet (sqOf t s.focus s.focusSq) n = regGet (sqOf s s.focus s.focusSq) n

/-- A memory access that entered the ordering buffer from s to t as its last entry e, its destination d waiting. -/
structure Entered (s t : State) (e : ObEntry) (d : Option Dst) : Prop extends GoesOn s t where
  entry   : (sqOf t s.focus s.focusSq).ob = (sqOf s s.focus s.focusSq).ob ++ [e]
  pending : ∀ n, d = some (.reg n) → n ≠ 0 → regPending (sqOf t s.focus s.focusSq) n = true
  tags    : ∀ n, d ≠ some (.reg n) → tagGet (sqOf t s.focus s.focusSq) n = tagGet (sqOf s s.focus s.focusSq) n
  easels  : t.easels = s.easels
  others  : OtherHands s t d

/-- The tag that a load's destination carries from issue: its slot, or SAT when no slot is free (R77). -/
def issuedTag (z : Seqr) : Tag :=
  match freeSlot z.slots with
  | some i => { loc := BitVec.ofNat 16 (2 ^ i), sat := false, frn := 0 }
  | none => { loc := 0, sat := true, frn := 0 }

/-- Every easel but that of the hand in focus is unchanged. -/
def OtherEasels (s t : State) : Prop := ∀ e, e ≠ easelNo s.focus → easelOf t e = easelOf s e

/-- An access of the typed buffers entered the range checker of the easel from s to t as its last entry r; no bank has
changed. -/
structure BufferEntered (s t : State) (r : RcEntry) (d : Option Dst) : Prop extends GoesOn s t where
  entry  : easelOf t (easelNo s.focus) = { easelOf s (easelNo s.focus) with rc := (easelOf s (easelNo s.focus)).rc ++ [r] }
  far    : OtherEasels s t
  others : OtherHands s t d

/-! ### Commands of engines (R91, R150, R151) -/

/-- A command of a CMD form of registers alone: function, tokens, destination, A, B (0 where it has none). -/
def cmdRule (i : Instr) : Option (Nat × Tok × BitVec 5 × BitVec 5 × BitVec 5) :=
  match i with
  | .frst k d a => some (0x11, k, d, a, 0)
  | .frspl k d a => some (0x12, k, d, a, 0)
  | .cxgo k d a b => some (0x21, k, d, a, b)
  | .cdis k d a => some (0x23, k, d, a, 0)
  | .ccnt k d a => some (0x24, k, d, a, 0)
  | .cadd k d a b => some (0x25, k, d, a, b)
  | .chist k d a b => some (0x27, k, d, a, b)
  | .cslot k d => some (0x28, k, d, 0, 0)
  | _ => none

/-- A command whose A5 is the address of a 64-byte record that the engine reads through the page captured at issue. -/
def recordRule (i : Instr) : Option (Nat × Tok × BitVec 5 × BitVec 5 × BitVec 5) :=
  match i with
  | .cxlay k d a b => some (0x20, k, d, a, b)
  | .carm k d a b => some (0x22, k, d, a, b)
  | .csend k d a => some (0x26, k, d, a, 0)
  | _ => none

/-- The queue of a CMD function: the fresco queue below 0x20, the collective queue from there on. -/
def cmdQueue (e : Easel) (fn : Nat) : List EngCmd := if fn < 0x20 then e.frescoQ else e.collQ

/-- A command c entered its queue at the easel of the hand in focus from s to t, and its register d5 waits for the reply. -/
structure Commanded (s t : State) (fn : Nat) (c : EngCmd) (d5 : BitVec 5) : Prop extends GoesOn s t where
  entry   : cmdQueue (easelOf t (easelNo s.focus)) fn = cmdQueue (easelOf s (easelNo s.focus)) fn ++ [c]
  pending : d5 ≠ 0 → regPending (sqOf t s.focus s.focusSq) d5 = true
  far     : OtherEasels s t
  others  : OtherHands s t none

/-- The command that a CMD form hands to its engine: the values and tags of A and B at issue. -/
def cmdOf (s : State) (fn : Nat) (d a b : BitVec 5) (ws : List Word) : EngCmd :=
  let z := sqOf s s.focus s.focusSq
  { ticket := s.nextId, hand := s.focus, sq := s.focusSq, part := handPart s s.focus, leaf := (handOf s s.focus).bound,
    tag := tagJoin (tagGet z a) (tagGet z b), fn := some fn, words := ws, dst := dstRef (.reg d), extra := [], pages := [], phase := 0 }

/-! ### Vector instructions (R198-R219) -/

/-- An element-wise instruction (R202-R207): tokens, destination, A, B, guard, occupancy, latency, and what an active
element gets from a, b and the element the destination holds. -/
def elementRule (i : Instr) : Option (Tok × BitVec 5 × BitVec 5 × BitVec 5 × BitVec 5 × Nat × Nat × (Rm → BitVec 32 → BitVec 32 → BitVec 32 → FRes)) :=
  match i with
  | .vadd k d a b g => some (k, d, a, b, g, 4, 6, fun rm x y _ => fadd rm x y)
  | .vsub k d a b g => some (k, d, a, b, g, 4, 6, fun rm x y _ => fsub rm x y)
  | .vmul k d a b g => some (k, d, a, b, g, 4, 6, fun rm x y _ => fmul rm x y)
  | .vfma k d a b g => some (k, d, a, b, g, 4, 8, fun rm x y z => ffma rm x y z)
  | .vfms k d a b g => some (k, d, a, b, g, 4, 8, fun rm x y z => ffms rm x y z)
  | .vmin k d a b g => some (k, d, a, b, g, 4, 6, fun _ x y _ => fmin x y)
  | .vmax k d a b g => some (k, d, a, b, g, 4, 6, fun _ x y _ => fmax x y)
  | .vdiv k d a b g => some (k, d, a, b, g, 16, 24, fun rm x y _ => fdiv rm x y)
  | .vsqrt k d a g => some (k, d, a, a, g, 16, 24, fun rm x _ _ => fsqrt rm x)
  | .vrcp k d a g => some (k, d, a, a, g, 4, 12, fun _ x _ _ => frcp x)
  | .vrsq k d a g => some (k, d, a, a, g, 4, 12, fun _ x _ _ => frsq x)
  | .vexp2 k d a g => some (k, d, a, a, g, 4, 12, fun _ x _ _ => fexp2 x)
  | .vlog2 k d a g => some (k, d, a, a, g, 4, 12, fun _ x _ _ => flog2 x)
  | .vtanh k d a g => some (k, d, a, a, g, 4, 12, fun _ x _ _ => ftanh x)
  | .vabs k d a g => some (k, d, a, a, g, 4, 6, fun _ x _ _ => if fval x = .nan then nanRes false else (BitVec.ofNat 32 (x.toNat % 2 ^ 31), 0))
  | .vneg k d a g => some (k, d, a, a, g, 4, 6, fun _ x _ _ => if fval x = .nan then nanRes false else (BitVec.ofNat 32 (x.toNat + 2 ^ 31), 0))
  | .vrnd k d a g => some (k, d, a, a, g, 4, 8, fun rm x _ _ => fround rm x)
  | .viadd k d a b g => some (k, d, a, b, g, 4, 6, fun _ x y _ => (BitVec.ofNat 32 (x.toNat + y.toNat), 0))
  | .visub k d a b g => some (k, d, a, b, g, 4, 6, fun _ x y _ => (BitVec.ofInt 32 (x.toInt - y.toInt), 0))
  | .vimul k d a b g => some (k, d, a, b, g, 4, 8, fun _ x y _ => (BitVec.ofNat 32 (x.toNat * y.toNat), 0))
  | .vshl k d a b g => some (k, d, a, b, g, 4, 6, fun _ x y _ => (BitVec.ofNat 32 (x.toNat * 2 ^ (y.toNat % 32)), 0))
  | .vshr k d a b g => some (k, d, a, b, g, 4, 6, fun _ x y _ => (BitVec.ofInt 32 (x.toInt / 2 ^ (y.toNat % 32)), 0))
  | .vand k d a b g => some (k, d, a, b, g, 4, 6, fun _ x y _ => (BitVec.ofNat 32 (x.toNat &&& y.toNat), 0))
  | .vor k d a b g => some (k, d, a, b, g, 4, 6, fun _ x y _ => (BitVec.ofNat 32 (x.toNat ||| y.toNat), 0))
  | .vxor k d a b g => some (k, d, a, b, g, 4, 6, fun _ x y _ => (BitVec.ofNat 32 (x.toNat ^^^ y.toNat), 0))
  | .vmov k d a g => some (k, d, a, a, g, 4, 6, fun _ x _ _ => (x, 0))
  | _ => none

/-- A vector-with-scalar instruction (R206): tokens, destination, A, the scalar register of C, guard, latency, and what an
active element gets from a, the scalar's low word and the element the destination holds. -/
def broadcastRule (i : Instr) : Option (Tok × BitVec 5 × BitVec 5 × BitVec 5 × BitVec 5 × Nat × (Rm → BitVec 32 → BitVec 32 → BitVec 32 → FRes)) :=
  match i with
  | .vadds k d a r g => some (k, d, a, r, g, 6, fun rm x y _ => fadd rm x y)
  | .vmuls k d a r g => some (k, d, a, r, g, 6, fun rm x y _ => fmul rm x y)
  | .vfmas k d a r g => some (k, d, a, r, g, 8, fun rm x y z => ffma rm x y z)
  | .vbcast k d r g => some (k, d, 0, r, g, 6, fun _ _ y _ => (y, 0))
  | _ => none

/-- A comparison (R204): tokens, destination predicate, A, B, guard, and what two numbers give; a NaN gives the last. -/
def compareRule (i : Instr) : Option (Tok × BitVec 5 × BitVec 5 × BitVec 5 × BitVec 5 × (Ordering → Bool) × Bool) :=
  match i with
  | .vceq k g a b p => some (k, p, a, b, g, fun o => o == .eq, false)
  | .vclt k g a b p => some (k, p, a, b, g, fun o => o == .lt, false)
  | .vcle k g a b p => some (k, p, a, b, g, fun o => o == .lt || o == .eq, false)
  | .vcne k g a b p => some (k, p, a, b, g, fun o => o == .lt || o == .gt, true)
  | _ => none

/-- A permutation of R207 and R209: tokens, destination, A, B, guard, and the source element of destination element i of a
tile of the hand, given B. -/
def permuteRule (i : Instr) : Option (Tok × BitVec 5 × BitVec 5 × BitVec 5 × BitVec 5 × (Hand → (Nat → Nat) → Nat → Nat)) :=
  match i with
  | .vextr k d a b g => some (k, d, a, b, g, fun _ y j => y j % 1024)
  | .vtrn k d a g => some (k, d, a, a, g, fun h _ j => (j % rows h) * cols h + j / rows h)
  | .vrev k d a g => some (k, d, a, a, g, fun h _ j => (j / cols h) * cols h + (cols h - 1 - j % cols h))
  | .vrotr k d a b g => some (k, d, a, b, g, fun h y j =>
      (j / cols h) * cols h + ((j % cols h + cols h) - y (j / cols h * cols h) % cols h) % cols h)
  | .vrotc k d a b g => some (k, d, a, b, g, fun h y j =>
      ((j / cols h + rows h) - y (j % cols h) % rows h) % rows h * cols h + j % cols h)
  | _ => none

/-- A reduction (R208): tokens, destination, A, guard, whether it runs along rows, and its step. -/
def reduceRule (i : Instr) : Option (Tok × BitVec 5 × BitVec 5 × BitVec 5 × Bool × (Rm → BitVec 32 → BitVec 32 → FRes)) :=
  match i with
  | .vrsum k d a g => some (k, d, a, g, true, fadd)
  | .vcsum k d a g => some (k, d, a, g, false, fadd)
  | .vrmax k d a g => some (k, d, a, g, true, fun _ x y => fmax x y)
  | .vcmax k d a g => some (k, d, a, g, false, fun _ x y => fmax x y)
  | _ => none

/-- The elements of element i's row or column of a tile of the hand, in order (R195). -/
def lineOf (h : Hand) (byRow : Bool) (i : Nat) : List Nat :=
  if byRow then (List.range (cols h)).map (fun j => i / cols h * cols h + j) else (List.range (rows h)).map (fun j => j * cols h + i % cols h)

/-- A scan (R211): tokens, destination, A, B, the reset predicate, and its step on a, the element before and x. -/
def scanRule (i : Instr) : Option (Tok × BitVec 5 × BitVec 5 × BitVec 5 × BitVec 5 × (Rm → BitVec 32 → BitVec 32 → BitVec 32 → FRes)) :=
  match i with
  | .vscan k d a b p => some (k, d, a, b, p, fun rm a h x => ffma rm a h x)
  | .vscana k d a p => some (k, d, a, a, p, fun rm _ h x => fadd rm h x)
  | .vscanm k d a p => some (k, d, a, a, p, fun _ _ h x => fmax h x)
  | _ => none

/-- A hypercomplex instruction (R210): tokens, destination, A, B, guard, occupancy and latency in the dimension, and the
components that a group of the dimension's elements gives. -/
def hyperRule (i : Instr) : Option (Tok × BitVec 5 × BitVec 5 × BitVec 5 × BitVec 5 × (Nat → Nat) × (Nat → Nat) ×
    (Rm → BitVec 640 → List (BitVec 32) → List (BitVec 32) → List FRes)) :=
  match i with
  | .vhmul k d a b g => some (k, d, a, b, g, fun n => 4 * n, fun n => 4 * n + 8, fun rm r x y => (List.range (algDim r)).map (hypComp rm r x y))
  | .vhconj k d a g => some (k, d, a, a, g, fun _ => 4, fun _ => 6, fun _ r x _ => hypConj r x)
  | .vhnorm k d a g => some (k, d, a, a, g, fun _ => 4, fun n => 4 * n + 8,
      fun rm r x _ => hypNorm rm r x :: List.replicate (algDim r - 1) (0, 0))
  | .vhinv k d a g => some (k, d, a, a, g, fun n => 4 * n, fun n => 4 * n + 24, fun rm r x _ =>
      (hypConj r x).map (fun c => ((fdiv rm c.1 (hypNorm rm r x).1).1, (fdiv rm c.1 (hypNorm rm r x).1).2 ||| (hypNorm rm r x).2)))
  | _ => none

/-- Predicate logic (R214): tokens, destination, A, B, and what a bit gets. -/
def predRule (i : Instr) : Option (Tok × BitVec 5 × BitVec 5 × BitVec 5 × (Bool → Bool → Bool)) :=
  match i with
  | .pand k d a b => some (k, d, a, b, fun x y => x && y)
  | .por k d a b => some (k, d, a, b, fun x y => x || y)
  | .pxor k d a b => some (k, d, a, b, fun x y => xor x y)
  | .pnot k d a => some (k, d, a, a, fun x _ => !x)
  | _ => none

/-- What a result v of a 6-bit destination writes when it lands. -/
def resultWhat (d : Dst) (v : Word) : LandWhat :=
  match d with
  | .reg n => .scalar n.toNat v
  | .chan n => .chan n.toNat v

/-- A landing one virtual cycle nearer. -/
def Landing.aged (l : Landing) : Landing := { l with rem := l.rem - 1 }

/-- A vector instruction of n slots has issued on C from s to t and made the landing l, in rem virtual cycles from its issue
(R80, R198); occ is its occupancy of the lanes, 0 for none. -/
structure VectorLanded (s t : State) (n occ : Nat) (l : Landing) : Prop extends HandFrame s t where
  pc     : (sqOf t s.focus .c).pc = seqNext (sqOf s s.focus .c) n
  values : ∀ m, regGet (sqOf t s.focus .c) m = regGet (sqOf s s.focus .c) m
  lands  : (handOf t s.focus).landings = ((handOf s s.focus).landings ++ [l]).map Landing.aged
  busy   : (handOf t s.focus).lanes = (if occ = 0 then (handOf s s.focus).lanes else occ) - 1
  others : OtherHands s t none

/-- The same of an instruction that reaches no buffer. -/
structure VectorIssued (s t : State) (n occ : Nat) (l : Landing) : Prop extends VectorLanded s t n occ l where
  easels : t.easels = s.easels

/-- A read of C through the vector port of buffer u has been granted from s to t: no buffer and no other easel changes (R133). -/
structure PortRead (s t : State) (u : Buf) : Prop where
  granted : tget 3 (easelOf t (easelNo s.focus)).portLast (vectorPort u) = s.focus % 4
  banks   : ∀ v, bufMem (easelOf t (easelNo s.focus)) v = bufMem (easelOf s (easelNo s.focus)) v
  far     : OtherEasels s t

/-- The landing of a tile v in vector register d under a mask. -/
def tileLands (h : Hand) (l : Landing) (lat : Nat) (d : BitVec 5) (v : List (BitVec 32)) (mask : BitVec 1024) : Prop :=
  l.rem = lat ∧ l.what = .vec (physReg h d) v mask

/-- The landing of a predicate v in predicate register d. -/
def predLands (h : Hand) (l : Landing) (lat : Nat) (d : BitVec 5) (v : BitVec 1024) : Prop :=
  l.rem = lat ∧ l.what = .pred (physReg h d) v (BitVec.allOnes 1024)

/-- The i-th element of a tile, where it holds one. -/
def elem (v : List (BitVec 32)) (i : Nat) : BitVec 32 := v.getD i 0

/-- The lanes of conversion: container i of a tile of containers of n bits (R137). -/
def container (n : Nat) (v : List (BitVec 32)) (i : Nat) : Nat := tileNat v / 2 ^ (n * i) % 2 ^ n

/-! ### CSRs (R122) -/

/-- What a CSR reads after a CSRW of v, for the CSRs whose fields are stored as supplied. -/
def csrMask (c : Csr) : Option Nat :=
  match c with
  | .tvec => some 0xFFFFFFF
  | .tcause => some 0x1FFF
  | .tinfo => some 0xFFFFFFFFFFFFFFFF
  | .epc => some 0x0FFFFFFF0FFFFFFF
  | .lc _ => some 0xFFFFFFFF
  | .rot => some 0xF
  | .algsel => some 0x7
  | _ => none

/-! ### Copies (R140, R148, R149, R238) -/

/-- The operands of a copy instruction. -/
def copyRule (i : Instr) : Option (Tok × CopyArgs) :=
  match i with
  | .copyIn k t ts b o u sc acq rel op cl =>
    some (k, { kind := .inn, t := t, ts := ts, b := b, o := o, x := none, u := u, sc := sc, acq := acq, rel := rel, op := op, cl := cl })
  | .copyOut k t ts b o u sc acq rel op cl =>
    some (k, { kind := .out, t := t, ts := ts, b := b, o := o, x := none, u := u, sc := sc, acq := acq, rel := rel, op := op, cl := cl })
  | .copyxIn k t ts b o g u sc acq rel op cl =>
    some (k, { kind := .inn, t := t, ts := ts, b := b, o := o, x := some g, u := u, sc := sc, acq := acq, rel := rel, op := op, cl := cl })
  | .copyxOut k t ts b o g u sc acq rel op cl =>
    some (k, { kind := .out, t := t, ts := ts, b := b, o := o, x := some g, u := u, sc := sc, acq := acq, rel := rel, op := op, cl := cl })
  | .drain k t c ts o sc acq rel op cl =>
    some (k, { kind := .drain, t := t, ts := ts, b := c, o := o, x := none, u := .cb, sc := sc, acq := acq, rel := rel, op := op, cl := cl })
  | _ => none

/-- The piece that reads the tensor shape record of a copy. -/
def recordPiece (s : State) (y : CopyArgs) (p : Page) : Piece :=
  let va := (regGet (sqOf s s.focus s.focusSq) y.ts).toNat
  pieceAt p va 128 0

/-- The command of a copy whose record reads as n. -/
def copyCommand (s : State) (y : CopyArgs) (n : BitVec 1024) : CopyCmd :=
  let z := sqOf s s.focus s.focusSq
  let b := (regGet z y.b).toNat
  let base := match y.x with
    | some x => (regGet z x).toNat
    | none => fld n 63 0
  withShape
    { mkGlobal s s.focus s.focusSq s.nextId (tagUnion (([y.ts, y.b, y.o] ++ y.x.toList).map (tagGet z))) [] with
      kind := y.kind, acq := y.acq, rel := y.rel, scope := y.sc, outOp := y.op, clip := y.cl, buf := y.u
      baddr := b % 2 ^ 32, rowStep := if y.kind = .drain then some (b / 2 ^ 32) else none
      src := if y.kind = .inn then base else 0, dst := if y.kind = .inn then 0 else base
      token := if y.t = 0 then none else some y.t.toNat } n (originOf (regGet z y.o).toNat)

/-- The operands of a copy are in order and its engine accepts it (R140, R142): its record, read as n, is well formed; its
box lies in the window; every page, ps in all, is translated; queue, range checker and tokens have room. -/
structure CopyAccepted (s : State) (k : Tok) (y : CopyArgs) (p : Page) (n : BitVec 1024) (ps : List Page) : Prop where
  plain   : tagEmpty (tagGet (sqOf s s.focus s.focusSq) y.ts) = true
  aligned : (regGet (sqOf s s.focus s.focusSq) y.ts).toNat % 128 = 0
  record  : xlateAll s s.focus s.focusSq true false scalarTypes
    [{ va := (regGet (sqOf s s.focus s.focusSq) y.ts).toNat, len := 128 }] = .pages [p]
  normal  : p.ptype = .normal
  ordered : mayRead s s.focus s.focusSq (recordPiece s y p) = true
  legal   : tsrFault n (originOf (regGet (sqOf s s.focus s.focusSq) y.o).toNat) y.op false = none
  start   : y.kind ≠ .drain → (regGet (sqOf s s.focus s.focusSq) y.b).toNat < 2 ^ 32
  inside  : windowFault (handOf s s.focus) y.u (boxSpan (copyCommand s y n)).1 (boxSpan (copyCommand s y n)).2 = none
  buffer  : y.kind ≠ .inn → y.u ≠ .wb
  base    : y.x.isSome = true → (if y.kind = .inn then (copyCommand s y n).src else (copyCommand s y n).dst) < 2 ^ 52
  pages   : xlateAll s s.focus s.focusSq (y.kind == .inn) (y.kind != .inn) (copyTypes (y.kind != .inn) y.op)
    (rowTouches (copyCommand s y n) (if y.kind = .inn then (copyCommand s y n).src else (copyCommand s y n).dst)) = .pages ps
  steady  : (distinct ps).any (fun p => p.ptype == .glaze) = true →
    (rowTouches (copyCommand s y n) (if y.kind = .inn then (copyCommand s y n).src else (copyCommand s y n).dst)).any
      (fun t => cfgStalls s (handPart s s.focus) t.va) = false
  elems   : glazeElemFault s (copyCommand s y n) (if y.kind = .inn then (copyCommand s y n).src else (copyCommand s y n).dst)
    (distinct ps) (y.kind != .inn) = none
  few     : (distinct ps).length ≤ 256
  queue   : (easelOf s (easelNo s.focus)).copyQ.length < 64
  checker : (easelOf s (easelNo s.focus)).rc.length < 128
  tokens  : tokenWait (handOf s s.focus) s.focusSq k = none

/-! ### Vector results, element by element -/

/-- Whether an element-wise or vector-with-scalar instruction reads its destination (R202, R206). -/
def readsOld (i : Instr) : Bool :=
  match i with
  | .vfma _ _ _ _ _ => true
  | .vfms _ _ _ _ _ => true
  | .vfmas _ _ _ _ _ => true
  | _ => false

/-- The tag of an element-wise result (R200): the union of the tags of what it reads; a source named twice counts once. -/
def elementTag (h : Hand) (d a b g : BitVec 5) (old : Bool) : Tag :=
  tagJoin (tagJoin (vtag h a) (vtag h b)) (tagJoin (ptag h g) (if old then vtag h d else Tag.empty))

/-- The landing l carries the FSTAT bits that some of the results f i, for the indexes of which act says so, set (R182). -/
def statOf (l : Landing) (act : Nat → Bool) (f : Nat → FRes) : Prop :=
  ∀ n, l.stat.getLsbD n = true ↔ ∃ i, i < 1024 ∧ act i = true ∧ (f i).2.getLsbD n = true

/-- What the element before element i of a scan's row holds: the carry-in of a row is the old destination's last column
(R211). -/
def before (h : Hand) (v old : List (BitVec 32)) (i : Nat) : BitVec 32 :=
  if i % cols h = 0 then elem old (i + cols h - 1) else elem v (i - 1)

/-- The group of n consecutive elements that holds element i (R210). -/
def group (n : Nat) (v : List (BitVec 32)) (i : Nat) : List (BitVec 32) := (List.range n).map (fun c => elem v (i / n * n + c))

/-- Byte j of a tile, and its 16-bit index j (R216). -/
def tileByte (v : List (BitVec 32)) (j : Nat) : Nat := (elem v (j / 4)).toNat / 2 ^ (8 * (j % 4)) % 2 ^ 8
def tileHalf (v : List (BitVec 32)) (j : Nat) : Nat := (elem v (j / 2)).toNat / 2 ^ (16 * (j % 2)) % 2 ^ 16

/-- Byte j of the result of VTLU: the byte of the table of n registers from a that index j of b names, or fill (R216). -/
def lookupByte (h : Hand) (a b : BitVec 5) (n : Nat) (fill : BitVec 8) (j : Nat) : Nat :=
  let x := tileHalf (vreg h b) j
  if x < 4096 * n then tileByte (vreg h (a + BitVec.ofNat 5 (x / 4096))) (x % 4096) else fill.toNat

/-- The value of container i of a tile for VDQ: its own, times the scale of its block (R212). -/
def dequant (h : Hand) (f : Fmt) (v : List (BitVec 32)) (i : Nat) : FVal :=
  let x := f.value (container f.cbits v i)
  if h.bsz = 0 then x
  else
    let sc : Nat := tileNat v / 2 ^ (1024 * f.cbits + 16 * (i / blockOf h)) % 2 ^ 8
    if sc = 255 then FVal.nan else scaleVal x ((sc : Int) - 127)

/-- The active elements of the block that holds element i (R213). -/
def blockActive (h : Hand) (p : BitVec 1024) (v : List (BitVec 32)) (i : Nat) : List (BitVec 32) :=
  (((List.range (blockOf h)).map (fun c => i / blockOf h * blockOf h + c)).filter (fun j => p.getLsbD j)).map (elem v)

/-- A buffer access of R217: its tokens, its register, its buffer, its address register, its guard, whether it is strided. -/
def vloadRule (i : Instr) : Option (Tok × BitVec 5 × Buf × BitVec 5 × BitVec 5 × Bool) :=
  match i with
  | .vld k d u r g => some (k, d, u, r, g, false)
  | .vldr k d u r g => some (k, d, u, r, g, true)
  | _ => none

def vstoreRule (i : Instr) : Option (Tok × BitVec 5 × Buf × BitVec 5 × BitVec 5 × Bool) :=
  match i with
  | .vst k d u r g => some (k, d, u, r, g, false)
  | .vstr k d u r g => some (k, d, u, r, g, true)
  | _ => none

/-- The relative address of element i of a buffer access whose register holds v (R217). -/
def elementAddr (h : Hand) (v : Word) (strided : Bool) (i : Nat) : Nat :=
  if strided then v.toNat % 2 ^ 32 + i / cols h * (v.toNat / 2 ^ 32) + 4 * (i % cols h) else v.toNat % 2 ^ 32 + 4 * i

/-- The register of a buffer access is in order and all of its elements lie in the hand's window of the buffer (R217). -/
structure TileInWindow (h : Hand) (u : Buf) (v : Word) (strided : Bool) : Prop where
  base   : v.toNat % 4 = 0
  stride : if strided then v.toNat / 2 ^ 32 % 4 = 0 else v.toNat / 2 ^ 32 = 0
  fits   : ∀ i, i < 1024 → elementAddr h v strided i + 4 ≤ (windowOf h u).2

/-! ### Fresco contexts (R309, R311, R320) -/

/-- The context in focus takes a micro-instruction of ns nanoseconds: its job runs, its channel is active, and no window
point comes first (R311). -/
structure MicroRuns (s : State) (ns : Nat) : Prop where
  runs    : (ctxOf s s.microCx).state = .running ∨ (ctxOf s s.microCx).state = .draining
  begun   : (ctxOf s s.microCx).begun = true
  stays   : (ctxOf s s.microCx).drained = false
  active  : (chanOf s (s.microCx / 4)).power = .active
  inTime  : (ctxOf s s.microCx).since + ns ≤ 240

/-- Every context but the one in focus is unchanged. -/
def OtherContexts (s t : State) : Prop := ∀ x, x ≠ s.microCx → ctxOf t x = ctxOf s x

/-- What a micro-instruction that is no row operation leaves unchanged: memory, hands, easels, dies, partitions and every
other context. -/
structure MicroFrame (s t : State) : Prop where
  mem    : t.mem = s.mem
  hands  : t.hands = s.hands
  easels : t.easels = s.easels
  dies   : t.dies = s.dies
  parts  : t.parts = s.parts
  others : OtherContexts s t

/-- The context after a register operation of ns nanoseconds: past its instruction, its time counted. -/
def Context.after (c : Context) (ns : Nat) : Context := { c with mpc := (c.mpc + 1) % 1024, since := c.since + ns }

/-- The physical address of the row under a context's cursor (R309). -/
def cursorPa (s : State) : Nat := rowPa s.microCx (ctxOf s s.microCx).curBank (ctxOf s s.microCx).curRow

/-- A cursor moved by a signed count of rows, modulo 2^17 (R320). -/
def movedRow (c : Context) (i : BitVec 8) : Nat := (((c.curRow : Int) + i.toInt) % 2 ^ 17).toNat

/-- 32-bit wrap-around. -/
def wrap32 (x : Int) : Int := (x + 2 ^ 31) % 2 ^ 32 - 2 ^ 31

/-- The sum of WADD in lane i (R321). -/
def laneSum (c : Context) (h : Bool) (i : Nat) : Int :=
  let row := natOfBytes (lanes 0 c.pb 1024)
  (tget 0 c.acc i).toInt + c.scale.toInt * (if c.w4 then planeValue row h.toNat 4 i else planeValue row 0 8 i)

/-- The BF16 that WDEQ gives lane i (R321): the accumulator times its group's scale, rounded to nearest even. -/
def laneOut (c : Context) (i : Nat) : Nat :=
  let sc := (tget 0 c.pb (2 * (i / 32))).toNat + 256 * (tget 0 c.pb (2 * (i / 32) + 1)).toNat
  let a := (tget 0 c.acc i).toInt
  (convert (mulVal (.fin (decide (a < 0)) a.natAbs 0) (bf16.value sc)).1 bf16 .rne false).1

/-! ### Engines -/

/-- The byte of a buffer at an absolute address as a signed integer. -/
def byteInt (e : Easel) (u : Buf) (a : Nat) : Int := (memGet (bufMem e u) a).toInt

/-- Byte (i, j) of an INT8 tile whose register is r, in the window of base win: row i, or column i where it is transposed
(R226). -/
def tileInt (e : Easel) (u : Buf) (win : Nat) (r : Word) (swapped : Bool) (i j : Nat) : Int :=
  byteInt e u (win + r.toNat % 2 ^ 32 + (if swapped then j else i) * (r.toNat / 2 ^ 32) + (if swapped then i else j))

/-- The copy of queue 4 that a command's words describe (R153). -/
def copyOfWords (c : CopyCmd) : CopyCmd :=
  let w := fun i => c.words.getD i 0
  { c with acq := bit (w 0) 11, rel := bit (w 0) 12, scope := scopeOf (fld (w 0) 10 8), outOp := outOpOf (fld (w 0) 14 13), clip := clipOf (fld (w 0) 16 15), src := (w 2).toNat, dst := (w 3).toNat }

/-- The state in which a copy node's record is checked: its copy taken once, on the die that homes its destination. -/
def nodeTaken (s : State) (ln tk d : Nat) : State :=
  modLaunch (modTask { s with nextId := s.nextId + 1 } ln tk (fun t => { t with placed := 1 })) ln (fun l => { l with units := (tk, 0, 0, 128 * d) :: l.units })

/-- The leaf that issued a command still runs, and its channel n has room for m entries with none waiting before them, so that
an engine's answer is pushed at once (R71). -/
structure AnswerRoom (s : State) (g : Nat) (leaf : Option Bound) (n m : Nat) : Prop where
  bound : leafBound s g leaf = true
  first : tget [] s.pushes g = []
  room  : (chanList (handOf s g) n).length + m ≤ 16
  stays : stopping s g = false

/-- Channel n of hand g after answers of an engine: what it held, and then the answers (R71). -/
def Answered (s t : State) (g n : Nat) (vs : List Word) : Prop :=
  chanList (handOf t g) n = chanList (handOf s g) n ++ vs.map (fun v => ({ val := some v, ticket := 0, terms := [] } : ChanEntry))

/-- A composition that R46 admits: a new partition of at least one pair, eight channels and one queue, all in service, named
once and owned by no other partition, within the slots in service and 1,024 counters. -/
structure CompositionOk (s : State) (p : Nat) (pairs channels queues : List Nat) (counters quota : Nat) : Prop where
  fresh    : p < 40 ∧ (partOf s p).exists_ = false
  counts   : pairs ≠ [] ∧ 8 ≤ channels.length ∧ queues ≠ []
  once     : unique pairs = true ∧ unique channels = true ∧ unique queues = true
  inPairs  : ∀ k ∈ pairs, k < 64 ∧ easelReady s (2 * k) = true ∧ easelReady s (2 * k + 1) = true
  inChans  : ∀ c ∈ channels, c < 384 ∧ channelReady s c = true
  inQueues : ∀ q ∈ queues, q < 256
  free     : ∀ e ∈ s.parts, e.2.exists_ = true → (∀ k ∈ e.2.pairs, k ∉ pairs) ∧ (∀ c ∈ e.2.chans, c ∉ channels) ∧ (∀ q ∈ e.2.queues, q ∉ queues)
  limits   : ((s.parts.filter (fun e => e.2.exists_)).map (fun e => e.2.quota)).sum + quota ≤ slotsReady s ∧ counters ≤ 1024

/-! ### The scheduler and the controller -/

/-- What issuing the prefetches of a leaf's list makes of a state, or none where one of them cannot be issued (R26). -/
def prefetched (part g : Nat) (x : Slot) (bs : List Byte) (s : State) : List Nat → Option State
  | [] => some s
  | i :: r => match onePrefetch s part g x ((bs.drop (32 * i)).take 32) with
    | (some _, _) => none
    | (none, s) => prefetched part g x bs s r

/-- R31: the test of a condition word v against a node's constant c. -/
def conditionHolds (v c : Word) (cc : Nat) : Bool :=
  if cc = 0 then v == c else if cc = 1 then v != c else if cc = 2 then decide (v.toNat < c.toNat) else if cc = 3 then decide (c.toNat ≤ v.toNat)
  else if cc = 4 then decide (v.toInt < c.toInt) else decide (c.toInt ≤ v.toInt)

/-- What a setting of R123, R224, R269, R271, R331, R338, R351 and R356 makes of its partition, and whether its value is in range; LPER is
the package's. -/
def settingRule (w : McSetting) (x : Part) : Part × Bool :=
  match w with
  | .rootTable pa => ({ x with root := pa }, pa % 128 == 0)
  | .trapVector v => ({ x with tvec := BitVec.ofNat 28 v.toNat }, decide (v.toNat < 2 ^ 28))
  | .waitLimit us => ({ x with waitlim := BitVec.ofNat 24 (if us < 1000 then 1000 else if 10000000 < us then 10000000 else us) }, true)
  | .leaseBound ns => ({ x with lbound := BitVec.ofNat 32 (if ns < 1000 then 1000 else if 1000000 < ns then 1000000 else ns) }, true)
  | .saveArea va => ({ x with saveVa := some va }, va % 4096 == 0)
  | .hangArea va n => ({ x with hang := some (va, n) }, va % 512 == 0 && decide (0 < n) && decide (n ≤ 4096))
  | .traceRing va n m => ({ x with trace := some (va, n, m) }, va % 4096 == 0 && (List.range 11).any (fun i => n == 2 ^ (i + 6)))
  | .traceRead r => ({ x with traceRd := r }, true)
  | .latchPeriod _ => (x, false)
  | .policy m q d => ({ x with gmask := m, qshift := q, gdelay := d }, decide (q ≤ 20) && decide (d ≤ 1000000))

end Sys2Proof.Machine
end

