-- ==== Sys2Proof/Certificates/Slice0/Obligations.lean ====
section
/-! DEFINITION. The statements about this machine, in the order of OBLIGATIONS.json. -/

open Sys2Proof Sys2Proof.Machine

/-! ### Encoding -/

/-- R102, R103, R105, R118, R121, R122, R145, R207, R209, R235, R320, R346: words that the spec writes out decode to the
instructions it gives them, a long MMA form and four micro-instructions among them. -/
def Obligations.SpecWordsDecode : Prop :=
  decode 0x04050C1D 0 = .ok (.sub { wf := false, sf := false, wb := false, sb := false } (.reg 5) (.reg 6) (.reg 7)) ∧
  decode 0x34050DFF 0 = .ok (.sltiu { wf := false, sf := false, wb := false, sb := false } (.reg 5) (.reg 6) 0x1FF) ∧
  decode 0x3806_0C1A 0 = .ok (.addsh { wf := false, sf := false, wb := false, sb := false } (.reg 6) (.reg 6) (.reg 6) 2) ∧
  decode 0x60000001 0 = .ok (.brloop { wf := false, sf := false, wb := false, sb := false } 0 0 1) ∧
  decode 0x7000021B 0 = .ok (.st { wf := false, sf := false, wb := false, sb := false } 0 (.reg 1) (.reg 6) .d) ∧
  decode 0xA0000E32 0 = .ok (.csrw { wf := false, sf := false, wb := false, sb := false } (.reg 7) (.lc 2)) ∧
  decode 0xA4000001 0 = .ok .eret ∧
  decode 0xD00A6390 0 = .ok (.vsel { wf := false, sf := false, wb := false, sb := false } 5 6 7 4) ∧
  decode 0xD80A6381 0 = .ok (.vrotr { wf := false, sf := false, wb := false, sb := false } 5 6 7 0) ∧
  decode 0x9C050010 0 = .ok (.csrr { wf := false, sf := false, wb := false, sb := false } (.reg 5) .time) ∧
  decode 0xF405394C 0x21E00000 = .ok (.mma { wf := false, sf := false, wb := false, sb := false } 7 5 6 false 2 0 3 3 0 false false false false false false) ∧
  decodeMicro 0x1B000002 = .ok (.wopen 3 2) ∧ decodeMicro 0x28000101 = .ok (.wread true 1) ∧
  decodeMicro 0x39000001 = .ok (.wscale 1 1) ∧ decodeMicro 0x52000000 = .ok (.wloop 2)

/-- R85 to R91: decoding the words of a well-formed hand instruction gives it back, whatever its operands and whatever
follows a word of the short form. R85 to R91: every hand instruction has one or two words, two exactly for those of the
long form. R320: decoding the word of a fresco micro-instruction gives it back. -/
def Obligations.DecodeOfEncode : Prop :=
  (∀ (i : Instr) (w : IWord) (r : List IWord), WellFormed i = true → encode i = some (w :: r) →
    (r = [] → ∀ v, decode w v = .ok i) ∧ (∀ v, r = [v] → decode w v = .ok i)) ∧
  (∀ (i : Instr) (ws : List IWord), encode i = some ws → ∃ w r, ws = w :: r ∧ r.length = (if isLong w then 1 else 0)) ∧
  (∀ (i : Instr) (w : IWord), encodeMicro i = some w → decodeMicro w = .ok i)

/-! ### The issue point -/

/-- R330, R336, R346: a sequencer that was not started, has halted, is frozen, or whose hand is being pre-empted or stopped
executes nothing: the state is unchanged. R92: an instruction on a sequencer that may not execute it takes the
illegal-instruction trap with code 2, and one reserved to supervisor state takes it with code 5 outside that state,
whatever else its operands are. -/
def Obligations.IdleAndForbiddenInstructions : Prop :=
  (∀ (i : Instr) (s : State), (request i s).isSome → canIssue s s.focus s.focusSq = false → exec i s = .next s) ∧
  (∀ (i : Instr) (s : State) (k : Tok) (r : Req), AtHead s → request i s = some (k, r) →
    (r.allowed.contains s.focusSq = false →
      exec i s = .next (takeTrap s s.focus s.focusSq 1 (illegalInfo 2 0 (headWord (sqOf s s.focus s.focusSq))))) ∧
    (r.allowed.contains s.focusSq = true → r.sup = true → (handOf s s.focus).sup = false →
      exec i s = .next (takeTrap s s.focus s.focusSq 1 (illegalInfo 5 0 (headWord (sqOf s s.focus s.focusSq))))))

/-- R67, R69, R71, R100, R267: an instruction waits, and only counts the stall, while a barrier operation of its sequencer
is outstanding (reason 9); a legal one waits while a register that it names waits for a load or a reply (reason 7),
while a token that it consumes is wanting (reasons 1 and 2) or a token queue that it signals is full (reason 3). That
the wait for a register comes before the waits for tokens, and that a destination register holds an instruction back as
a source does, are the model's choices (log entry 8). R270, R272: a stall changes nothing of the machine but the stalled
sequencer's own record of it, a vector port that C asked for before, and the counter of its reason. -/
def Obligations.InstructionsWait : Prop :=
  (∀ (i : Instr) (s : State) (k : Tok) (r : Req), request i s = some (k, r) →
    (Standing s → barrierPending (sqOf s s.focus s.focusSq) → exec i s = .next (stalled s s.focus s.focusSq 9)) ∧
    (AtHead s → checks (handOf s s.focus) s.focus s.focusSq r = none → ∀ n, n ∈ reqRegs r →
      regPending (sqOf s s.focus s.focusSq) n = true → exec i s = .next (stalled s s.focus s.focusSq 7)) ∧
    (AtHead s → checks (handOf s s.focus) s.focus s.focusSq r = none →
      (∀ n, n ∈ reqRegs r → regPending (sqOf s s.focus s.focusSq) n = false) → ∀ w, tokenWait (handOf s s.focus) s.focusSq k = some w → exec i s = .next (stalled s s.focus s.focusSq w))) ∧
  (∀ (s : State) (g : Nat) (q : SeqId) (w : Nat),
    (∃ h p, stalled s g q w = { s with hands := h, pkg := p }) ∧
    (∀ g', g' ≠ g → handOf (stalled s g q w) g' = handOf s g') ∧
    handOf (stalled s g q w) g = setSeq (if q = .c then { handOf s g with portAsk := none } else handOf s g) q { sqOf s g q with stall := w, since := some ((sqOf s g q).since.getD s.time.toNat) })

/-! ### Scalar instructions -/

/-- R102 to R106, R109, R111: each of these instructions gives, on every operand, the value that its row of the tables gives,
with the union of its sources' tags (TCLR drops the tag), at its destination, and goes on one slot further. -/
def Obligations.ScalarResults : Prop :=
  (∀ (i : Instr) (k : Tok) (d : Dst) (a b : Src) (lat : Nat) (f : Word → Word → Word), ruleRR i = some (k, d, a, b, lat, f) →
    ∀ (s : State) (h : Hand) (vals : List (Word × Tag)), Issues s k (operands d [a, b]) h vals →
    exec i s = .next (wrote s k (operands d [a, b]) h lat d (f (valOf vals 0).1 (valOf vals 1).1)
      (tagJoin (valOf vals 0).2 (valOf vals 1).2) 1)) ∧
  (∀ (i : Instr) (k : Tok) (d : Dst) (a : Src) (f : Word → Word), ruleRI i = some (k, d, a, f) →
    ∀ (s : State) (h : Hand) (vals : List (Word × Tag)), Issues s k (operands d [a]) h vals →
    exec i s = .next (wrote s k (operands d [a]) h 1 d (f (valOf vals 0).1) (valOf vals 0).2 1)) ∧
  (∀ (k : Tok) (d : Dst) (a : Src) (s : State) (h : Hand) (vals : List (Word × Tag)),
    Issues s k { operands d [a] with norec := true } h vals →
    exec (.tclr k d a) s = .next (wrote s k { operands d [a] with norec := true } h 1 d (valOf vals 0).1 Tag.empty 1))

/-- R102: no combination of operands traps. Division by zero gives all ones, all ones, the dividend and the dividend for DIV,
DIVU, REM and REMU; the signed overflow gives -2^63 and 0. -/
def Obligations.DivisionCorners : Prop :=
  ∀ (k : Tok) (d : Dst) (a b : Src) (s : State) (h : Hand) (x : Word) (t u : Tag),
    let done := fun (v : Word) => (.next (wrote s k (operands d [a, b]) h 12 d v (tagJoin t u) 1) : Res)
    (Issues s k (operands d [a, b]) h [(x, t), (0, u)] →
      exec (.div k d a b) s = done 0xFFFFFFFFFFFFFFFF ∧ exec (.divu k d a b) s = done 0xFFFFFFFFFFFFFFFF ∧
      exec (.rem k d a b) s = done x ∧ exec (.remu k d a b) s = done x) ∧
    (Issues s k (operands d [a, b]) h [(0x8000000000000000, t), (0xFFFFFFFFFFFFFFFF, u)] →
      exec (.div k d a b) s = done 0x8000000000000000 ∧ exec (.rem k d a b) s = done 0)

/-- R107 to R113, R121: NOP, the long immediates, TGET, TWAIT, the channel and token queries and CSRR issue with the results
their rules give; LIH keeps the low half and the tag; a query counts the entries that the reader can see, or the room that
is left. That CHFREE on a control processor takes off the pushes that its pending landings still owe is the model's choice (log entry
37). -/
def Obligations.ShortScalarsComplete : Prop :=
  ∀ (s : State) (k : Tok) (d : Dst) (a : BitVec 5) (c : Src) (imm : BitVec 32) (n : BitVec 2) (x : Csr) (h : Hand) (vals : List (Word × Tag)),
    (Issues s k (reqRR none []) h vals → exec (.nop k) s = .next (closed s (opened s k (reqRR none []) h) k 1)) ∧
    (Issues s k (operands d []) h vals →
      exec (.liw k d imm) s = .next (wrote s k (operands d []) h 1 d (BitVec.ofInt 64 imm.toInt) Tag.empty 2) ∧
      exec (.tkcnt k d n) s = .next (wrote s k (operands d []) h 1 d (BitVec.ofNat 64 (tokenCount (handOf s s.focus) s.focusSq n.toNat)) Tag.empty 1)) ∧
    (Issues s k (operands (.reg a) [.reg a]) h vals →
      exec (.lih k a imm) s = .next (wrote s k (operands (.reg a) [.reg a]) h 1 (.reg a)
        (BitVec.ofNat 64 (imm.toNat * 2 ^ 32 + (regGet (sqOf s s.focus s.focusSq) a).toNat % 2 ^ 32)) (tagGet (sqOf s s.focus s.focusSq) a) 2)) ∧
    (Issues s k (operands d [.reg a]) h vals →
      exec (.tget k d a) s = .next (wrote s k (operands d [.reg a]) h 1 d (tagBits (tagGet (sqOf s s.focus s.focusSq) a)) Tag.empty 1)) ∧
    (Issues s k (reqRR none [.reg a]) h vals →
      exec (.twait k a) s = .next (if twaitOver (sqOf s s.focus s.focusSq) a then closed s (opened s k (reqRR none [.reg a]) h) k 1
        else stalled s s.focus s.focusSq 8)) ∧
    (Issues s k { operands d [] with chan7 := srcBad s.focus s.focusSq c, limit := notPeek c } h vals →
      exec (.chcnt k d c) s = .next (wrote s k { operands d [] with chan7 := srcBad s.focus s.focusSq c, limit := notPeek c } h 1 d
        (BitVec.ofNat 64 (visible (chanList (handOf s s.focus) (queryChan c))).length) Tag.empty 1)) ∧
    (Issues s k { operands d [] with chan7 := writeBad s.focus s.focusSq c, limit := notPeek c } h vals →
      exec (.chfree k d c) s = .next (wrote s k { operands d [] with chan7 := writeBad s.focus s.focusSq c, limit := notPeek c } h 1 d
        (BitVec.ofNat 64 (16 - ((chanList (handOf s (chanHome s.focus (queryChan c)).1) (chanHome s.focus (queryChan c)).2).length +
          pendingPushes (handOf s s.focus) s.focusSq (queryChan c)))) Tag.empty 1)) ∧
    (Issues s k { operands d [] with limit := !csrHere s.focusSq x } h vals →
      exec (.csrr k d x) s = .next (wrote s k { operands d [] with limit := !csrHere s.focusSq x } h 1 d (csrValue s s.focus s.focusSq x) Tag.empty 1))

/-- R114: a conditional branch fetches at its target, which counts lines from its own, when the integer in S5 meets its
condition, and goes on one slot further when it does not; it writes no register. R80, R115, R116: J and JR go to their
targets; JAL and JALR also put their return point in s31, with an empty tag, after A is read: at once on X, L and S, and
on C as a landing one virtual cycle later, its registers unchanged before. R117, R118: LOOP and LOOPI set a loop counter
and no other; BRLOOP lowers a counter above 1 and branches, and otherwise clears it and goes on; on C it lowers ROT by
one, modulo 16, either way. -/
def Obligations.ControlFlowCompletes : Prop :=
  (∀ (i : Instr) (k : Tok) (r : BitVec 5) (o : BitVec 10) (x : BitVec 4) (f : Int → Bool),
    branchRule i = some (k, r, o, x, f) → ∀ (s : State) (h : Hand) (vals : List (Word × Tag)),
    Issues s k (reqRR none [.reg r]) h vals →
    ∃ t, exec i s = .next t ∧ ScalarFrame s t none ∧
      (sqOf t s.focus s.focusSq).lc = (sqOf s s.focus s.focusSq).lc ∧
      (f (regGet (sqOf s s.focus s.focusSq) r).toInt = true →
        (sqOf t s.focus s.focusSq).pc = { line := (sqOf s s.focus s.focusSq).pc.line + o.toInt, slot := x.toNat } ∧ (sqOf t s.focus s.focusSq).line = none) ∧
      (f (regGet (sqOf s s.focus s.focusSq) r).toInt = false →
        (sqOf t s.focus s.focusSq).pc = seqNext (sqOf s s.focus s.focusSq) 1)) ∧
  (∀ (s : State) (k : Tok) (o : BitVec 18) (x : BitVec 4) (a : Src) (h : Hand) (vals : List (Word × Tag)),
    let g := s.focus
    let q := s.focusSq
    let rp : Word := (ptrWord (seqNext (sqOf s g q) 1)).zeroExtend 64
    let near : Ptr := { line := (sqOf s g q).pc.line + o.toInt, slot := x.toNat }
    let far : Ptr := ptrOf ((valOf vals 0).1.extractLsb' 0 28)
    let linked := fun (t : State) =>
      (q ≠ .c → regGet (sqOf t g q) 31 = rp ∧ tagGet (sqOf t g q) 31 = Tag.empty) ∧
      (q = .c → (∀ m, regGet (sqOf t g q) m = regGet (sqOf s g q) m) ∧
        (handOf t g).landings = ((handOf s g).landings ++ [({ rem := 1, what := .scalar 31 rp, tag := Tag.empty, join := false, stat := 0 } : Landing)]).map Landing.aged)
    (Issues s k (reqRR none []) h vals → ∃ t, exec (.j k o x) s = .next t ∧ ScalarFrame s t none ∧ (sqOf t g q).pc = near ∧ (sqOf t g q).line = none) ∧
    (Issues s k (reqRR none [a]) h vals → ∃ t, exec (.jr k a) s = .next t ∧ ScalarFrame s t none ∧ (sqOf t g q).pc = far ∧ (sqOf t g q).line = none) ∧
    (Issues s k (operands (.reg 31) []) h vals → ∃ t, exec (.jal k o x) s = .next t ∧ ScalarFrame s t (some (.reg 31)) ∧ (sqOf t g q).pc = near ∧ (sqOf t g q).line = none ∧ linked t) ∧
    (Issues s k (operands (.reg 31) [a]) h vals → ∃ t, exec (.jalr k a) s = .next t ∧ ScalarFrame s t (some (.reg 31)) ∧ (sqOf t g q).pc = far ∧ (sqOf t g q).line = none ∧ linked t)) ∧
  (∀ (s : State) (k : Tok) (c : BitVec 2) (a : Src) (n : BitVec 7) (o : BitVec 10) (x : BitVec 4) (h : Hand) (vals : List (Word × Tag)),
    let g := s.focus
    let q := s.focusSq
    let z := sqOf s g q
    (Issues s k (reqRR none [a]) h vals → ∃ t, exec (.loop k c a) s = .next t ∧ ScalarFrame s t none ∧
      lcGet (sqOf t g q) c = BitVec.ofNat 32 ((valOf vals 0).1.toNat % 2 ^ 32) ∧ (∀ c', c' ≠ c → lcGet (sqOf t g q) c' = lcGet z c') ∧
      (sqOf t g q).pc = seqNext z 1) ∧
    (Issues s k { reqRR none [] with limit := n == 0 } h vals → ∃ t, exec (.loopi k c n) s = .next t ∧ ScalarFrame s t none ∧
      lcGet (sqOf t g q) c = BitVec.ofNat 32 n.toNat ∧ (∀ c', c' ≠ c → lcGet (sqOf t g q) c' = lcGet z c') ∧
      (sqOf t g q).pc = seqNext z 1) ∧
    (Issues s k (reqRR none []) h vals → ∃ t, exec (.brloop k c o x) s = .next t ∧
      lcGet (sqOf t g q) c = BitVec.ofNat 32 (if 1 < (lcGet z c).toNat then (lcGet z c).toNat - 1 else 0) ∧
      (∀ c', c' ≠ c → lcGet (sqOf t g q) c' = lcGet z c') ∧
      (1 < (lcGet z c).toNat → (sqOf t g q).pc = { line := z.pc.line + o.toInt, slot := x.toNat }) ∧
      ((lcGet z c).toNat ≤ 1 → (sqOf t g q).pc = seqNext z 1) ∧
      (handOf t g).rot = (if q = .c then BitVec.ofNat 4 ((handOf s g).rot.toNat + 15) else (handOf s g).rot) ∧
      (∀ r, regGet (sqOf t g q) r = regGet z r) ∧ t.mem = s.mem))

/-- R65, R71, R80, R83: a result reaches its destination and nothing else. A register of X, L or S takes value and tag at
once; a write to s0 is discarded; a channel gets a tail entry of the value with its terms, for a latency above one cycle a reserved
one that the value reaches when it lands; on C the result lands λ virtual cycles after its issue and no register changes before. Every other register keeps value and tag. -/
def Obligations.ResultReachesItsDestination : Prop :=
  ∀ (s : State) (k : Tok) (r : Req) (h : Hand) (vals : List (Word × Tag)) (lat : Nat) (d : Dst) (v : Word) (tg : Tag) (n : Nat),
    Issues s k r h vals → r.dst = some d →
    let g := s.focus
    let q := s.focusSq
    let t := wrote s k r h lat d v tg n
    (sqOf t g q).pc = seqNext (sqOf s g q) n ∧
    regGet (sqOf t g q) 0 = 0 ∧
    (∀ m, d ≠ .reg m → regGet (sqOf t g q) m = regGet (sqOf s g q) m ∧ tagGet (sqOf t g q) m = tagGet (sqOf s g q) m) ∧
    (q ≠ .c → ∀ m, d = .reg m → m ≠ 0 → regGet (sqOf t g q) m = v ∧ tagGet (sqOf t g q) m = tg) ∧
    (q ≠ .c → ∀ m, d = .chan m → lat ≤ 1 → ∃ l, chanList (handOf t (chanHome g m.toNat).1) (chanHome g m.toNat).2 =
      l ++ [{ val := some v, ticket := s.nextId, terms := termsOf (handOf (opened s k r h) g) g q tg }]) ∧
    (q ≠ .c → ∀ m, d = .chan m → 1 < lat → (∃ l, chanList (handOf t (chanHome g m.toNat).1) (chanHome g m.toNat).2 =
        l ++ [{ val := none, ticket := s.nextId, terms := [] }]) ∧
      (sqOf t g q).late = (sqOf s g q).late ++ [{ ticket := s.nextId, dst := .chan m.toNat, due := some (dieCycles s (dieNo g) + lat), val := v, tag := tg }]) ∧
    (q = .c → ∀ m, regGet (sqOf t g q) m = regGet (sqOf s g q) m) ∧
    (q = .c → d ≠ .reg 0 → (handOf t g).landings = ((handOf s g).landings ++ [({ rem := lat, what := resultWhat d v, tag := tg, join := false, stat := 0 } : Landing)]).map Landing.aged)

/-- R83, R84, R102 to R121: the scalar instructions, branches apart from BRLOOP included, change nothing but their
destination, their issue point, the tokens and channels they name, and their loop counter: no memory, no other hand, no
other register, no special register. -/
def Obligations.ScalarInstructionsFrame : Prop :=
  ∀ (i : Instr) (s : State) (k : Tok) (r : Req) (h : Hand) (vals : List (Word × Tag)),
    plainScalar i = true → request i s = some (k, r) → Issues s k r h vals →
    ∃ t, exec i s = .next t ∧ ScalarFrame s t r.dst

/-- R84: when A and B name the same channel, they are taken in the order A then B: two pops take two entries; a peek and a
pop both deliver the head entry, and one entry is enough; a pop and a peek deliver the first and the second entry and leave
the second; two peeks both deliver the head entry. Entries without terms are delivered; with only one entry, a pop followed by
another read of the channel waits. -/
def Obligations.OperandsReadInOrder : Prop :=
  ∀ (h : Hand) (h4 : Nat) (q : SeqId) (norec : Bool) (n : BitVec 5) (x : Word) (e : ChanEntry) (r : List ChanEntry),
    e.val = some x → chanList h n.toNat = e :: r →
    let reads := fun (fs : List Src) (vs : List Word) (left : List ChanEntry) =>
      ∀ h' out, readSrcs h h4 q norec fs = .ok (h', out) → out.map Prod.fst = vs ∧ chanList h' n.toNat = left
    let answers := fun (fs : List Src) => ∃ h' out, readSrcs h h4 q norec fs = .ok (h', out)
    reads [.peek n, .pop n] [x, x] r ∧ reads [.peek n, .peek n] [x, x] (e :: r) ∧
    (e.terms = [] → answers [.peek n, .pop n] ∧ answers [.peek n, .peek n]) ∧
    (r = [] → e.terms = [] → readSrcs h h4 q norec [.pop n, .pop n] = .error 4 ∧ readSrcs h h4 q norec [.pop n, .peek n] = .error 4) ∧
    (∀ (y : Word) (e' : ChanEntry) (r' : List ChanEntry), r = e' :: r' → e'.val = some y →
      reads [.pop n, .pop n] [x, y] r' ∧ reads [.pop n, .peek n] [x, y] (e' :: r') ∧
      (e.terms = [] → e'.terms = [] → answers [.pop n, .pop n] ∧ answers [.pop n, .peek n]))

/-! ### Loads, stores, atomics, buffers -/

/-- R128, R143, R144: a load that is translated enters the ordering buffer with its address, the base plus the offset in
units of its width, and its width; its destination waits, with the load's slot as its tag; no byte of memory and no
other register changes. R128, R145, R146: a store that is translated enters the ordering buffer with its address, its
width in bytes of B's low end, and the tags of both operands; memory itself does not change at issue, and no register
does. R274: an atomic on a normal or sync page, naturally aligned, enters the ordering buffer with its operation, its
operand and, for CAS, the value of B5 + 1; D5 waits for the old value. -/
def Obligations.MemoryOperationsEnter : Prop :=
  (∀ (i : Instr) (k : Tok) (d : Dst) (a : Src) (z : Width) (o : Int) (sgn : Bool) (acq : Option Scope),
    loadRule i = some (k, d, a, z, o, sgn, acq) → ∀ (s : State) (h : Hand) (vals : List (Word × Tag)) (ps : List Page),
    Issues s k { operands d [a] with allowed := xls } h vals →
    let va := address (valOf vals 0).1 o z
    Reaches s false va (widthBytes z) ps →
    ∃ t, exec i s = .next t ∧
      Entered s t { ticket := s.nextId, op := .load sgn acq (dstRef d), tag := (valOf vals 0).2, va := va, width := widthBytes z,
                    pieces := accessPieces va (widthBytes z) ps, data := [] } (some d) ∧
      (∀ n, d = .reg n → n ≠ 0 → tagGet (sqOf t s.focus s.focusSq) n = issuedTag (sqOf s s.focus s.focusSq))) ∧
  (∀ (i : Instr) (k : Tok) (a b : Src) (z : Width) (o : Int) (rel : Option Scope),
    storeRule i = some (k, a, b, z, o, rel) → ∀ (s : State) (h : Hand) (vals : List (Word × Tag)) (ps : List Page),
    Issues s k { reqRR none [a, b] with allowed := xls } h vals →
    let va := address (valOf vals 0).1 o z
    Reaches s true va (widthBytes z) ps →
    ∃ t, exec i s = .next t ∧
      Entered s t { ticket := s.nextId, op := .store rel, tag := tagJoin (valOf vals 0).2 (valOf vals 1).2, va := va,
                    width := widthBytes z, pieces := accessPieces va (widthBytes z) ps,
                    data := bytesOfNat (widthBytes z) ((valOf vals 1).1.toNat % 2 ^ (8 * widthBytes z)) } none) ∧
  (∀ (i : Instr) (k : Tok) (d a b : BitVec 5) (dbl : Bool) (ord : AmoOrd) (op : Nat), amoRule i = some (k, d, a, b, dbl, ord, op) →
    ∀ (s : State) (r : Req) (h : Hand) (vals : List (Word × Tag)) (p : Page), request i s = some (k, r) → Issues s k r h vals →
    let z := sqOf s s.focus s.focusSq
    let w := if dbl then 8 else 4
    let va := (regGet z a).toNat
    va % w = 0 → xlateAll s s.focus s.focusSq true true [.normal, .sync, .glaze] (splitPages va w) = .pages [p] → p.ptype ≠ .glaze →
    z.ob.length < 32 →
    ∃ t e, exec i s = .next t ∧ Entered s t e (some (.reg d)) ∧
      e.ticket = s.nextId ∧ e.va = va ∧ e.width = w ∧ e.pieces = accessPieces va w [p] ∧
      e.op = .amo op dbl ord (regGet z b) (if op = 9 then regGet z (b + 1) else 0) (dstRef (.reg d)) ∧
      e.tag = tagJoin (tagJoin (tagGet z a) (tagGet z b)) (if op = 9 then tagGet z (b + 1) else Tag.empty))

/-- R274: the new value of an atomic's word of n bits, in the integers: ADD, AND, OR, XOR, the four minima and maxima, SWAP,
and CAS, which writes its new value only where the old one equals its operand; and of an FP32 word: FADD gives the exact sum rounded to
nearest even, an infinity, or 0x7FC0_0000 for a NaN and for infinities of opposite signs; FMAX the operand that no other exceeds, -0
below +0, or 0x7FC0_0000 for a NaN. -/
def Obligations.AtomicResults : Prop :=
  (∀ (n old b c : Nat), 0 < n → old < 2 ^ n → b < 2 ^ n → c < 2 ^ n →
    amoNew 0 n old b c = (old + b) % 2 ^ n ∧ amoNew 1 n old b c = old &&& b ∧ amoNew 2 n old b c = old ||| b ∧
    amoNew 3 n old b c = old ^^^ b ∧
    signed n (amoNew 4 n old b c) = min (signed n old) (signed n b) ∧ signed n (amoNew 5 n old b c) = max (signed n old) (signed n b) ∧
    amoNew 6 n old b c = min old b ∧ amoNew 7 n old b c = max old b ∧ amoNew 8 n old b c = b ∧
    amoNew 9 n old b c = (if old = b then c else old) ∧
    (∀ op, op < 10 → amoNew op n old b c < 2 ^ n)) ∧
  (∀ (x y : BitVec 32) (c : Nat),
    let sum := amoNew 10 32 x.toNat y.toNat c
    let top := BitVec.ofNat 32 (amoNew 11 32 x.toNat y.toNat c)
    (fval x = .nan ∨ fval y = .nan → sum = 0x7FC00000 ∧ top = 0x7FC00000) ∧
    (∀ a b, fval x = .inf a → fval y = .inf b → sum = (if a = b then (infPat a).toNat else 0x7FC00000)) ∧
    (∀ a b m e, (fval x = .inf a ∧ fval y = .fin b m e) ∨ (fval x = .fin b m e ∧ fval y = .inf a) → sum = (infPat a).toNat) ∧
    (∀ nx mx ex ny my ey, fval x = .fin nx mx ex → fval y = .fin ny my ey →
      let q := min ex ey
      let v := sgnInt nx (mx * 2 ^ (ex - q).toNat) + sgnInt ny (my * 2 ^ (ey - q).toNat)
      (v = 0 → sum = (if nx && ny then 0x80000000 else 0)) ∧ (v ≠ 0 → sum = (round32 .rne (decide (v < 0)) v.natAbs q false).1.toNat)) ∧
    (fval x ≠ .nan → fval y ≠ .nan → (top = x ∨ top = y) ∧ fcmp true (fval x) (fval top) ≠ .gt ∧ fcmp true (fval y) (fval top) ≠ .gt))

/-- R265, R267, R276: a barrier operation on a sync page whose A5 is a multiple of 16 enters the ordering buffer with the
value of B5; its sequencer stands at it, its tokens untouched, and takes no register's value before the reply. That BTEST needs no write
permission on its page is the model's choice (log entry 35). -/
def Obligations.BarrierOperationsEnter : Prop :=
  ∀ (i : Instr) (k : Tok) (d a b : BitVec 5) (op : Nat), barrierRule i = some (k, d, a, b, op) →
    ∀ (s : State) (h : Hand) (vals : List (Word × Tag)) (p : Page), Issues s k (reqCP xls [d, a, b]) h vals →
    let z := sqOf s s.focus s.focusSq
    let va := (regGet z a).toNat
    va % 16 = 0 → xlateAll s s.focus s.focusSq true (op != 3) [.sync] (splitPages va 16) = .pages [p] → z.ob.length < 32 →
    ∃ t e, exec i s = .next t ∧ (sqOf t s.focus s.focusSq).ob = z.ob ++ [e] ∧
      e.ticket = s.nextId ∧ e.va = va ∧ e.op = .barrier op (regGet z b) false k (dstRef (.reg d)) ∧
      e.tag = tagJoin (tagGet z a) (tagGet z b) ∧
      (sqOf t s.focus s.focusSq).awaits = some (z.pc, true) ∧
      (sqOf t s.focus s.focusSq).pc = z.pc ∧ (sqOf t s.focus s.focusSq).regs = z.regs ∧ (sqOf t s.focus s.focusSq).stall = 9 ∧
      (∀ q, tokenCount (handOf t s.focus) s.focusSq q = tokenCount (handOf s s.focus) s.focusSq q) ∧
      t.mem = s.mem ∧ t.easels = s.easels ∧ t.dies = s.dies ∧ (∀ g, g ≠ s.focus → handOf t g = handOf s g)

/-- R264, R276: an arrival at a barrier object adds n to ARRIVED; the one that brings it to EXPECT or beyond completes the
phase: PHASE goes up by one modulo 16 and PHASES_DONE modulo 2^32, ARRIVED and WAITERS are cleared, and a surplus sets OVR,
is added to OVREXCESS up to 65,535, and decides the statuses of the issuer and of the waiters. -/
def Obligations.ArrivalCompletesThePhase : Prop :=
  ∀ (lo hi : Word) (n : Nat), n < 2 ^ 16 →
    (boArrived lo + n < boExpect lo →
      boArrived (arriveAt lo hi n).1 = boArrived lo + n ∧ boPhase (arriveAt lo hi n).1 = boPhase lo ∧
      boExpect (arriveAt lo hi n).1 = boExpect lo ∧ boWaiters (arriveAt lo hi n).1 = boWaiters lo ∧
      boHome (arriveAt lo hi n).1 = boHome lo ∧ (arriveAt lo hi n).2.1 = hi ∧ (arriveAt lo hi n).2.2.2 = none) ∧
    (boExpect lo ≤ boArrived lo + n →
      boArrived (arriveAt lo hi n).1 = 0 ∧ boPhase (arriveAt lo hi n).1 = (boPhase lo + 1) % 16 ∧
      boExpect (arriveAt lo hi n).1 = boExpect lo ∧ boWaiters (arriveAt lo hi n).1 = 0 ∧
      boHome (arriveAt lo hi n).1 = boHome lo ∧ boValid (arriveAt lo hi n).1 = boValid lo ∧
      fld (arriveAt lo hi n).2.1 31 0 = (fld hi 31 0 + 1) % 2 ^ 32 ∧
      fld (arriveAt lo hi n).2.1 47 32 = min (fld hi 47 32 + (boArrived lo + n - boExpect lo)) 65535 ∧
      (boExpect lo < boArrived lo + n → bit (arriveAt lo hi n).1 36 = true) ∧
      (arriveAt lo hi n).2.2.1 = (if boExpect lo < boArrived lo + n then 1 else 0) ∧
      (arriveAt lo hi n).2.2.2 = some (if boExpect lo < boArrived lo + n then 2 else 0))

/-- R165, R277: a FENCE with some kind bit set enters the ordering buffer as a marker and holds its own signals; one with none
is a NOP. On C the memory bits do not count, the marker is made by ENG alone. -/
def Obligations.FenceCompletes : Prop :=
  ∀ (s : State) (k : Tok) (sc : Scope) (ll ls sl ss eng uo : Bool) (h : Hand) (vals : List (Word × Tag)),
    Issues s k (reqRR none []) h vals →
    let z := sqOf s s.focus s.focusSq
    let none_ := if s.focusSq = .c then !eng else !(ll || ls || sl || ss || eng)
    (none_ = true → exec (.fence k sc ll ls sl ss eng uo) s = .next (closed s (opened s k (reqRR none []) h) k 1)) ∧
    (none_ = false → (s.focusSq ≠ .c → z.ob.length < 32) →
      ∃ t e, exec (.fence k sc ll ls sl ss eng uo) s = .next t ∧ HandFrame s t ∧ t.easels = s.easels ∧ OtherHands s t none ∧
        (sqOf t s.focus s.focusSq).ob = z.ob ++ [e] ∧ e.ticket = s.nextId ∧
        e.op = (if s.focusSq = .c then .fence sc true true true true eng uo else .fence sc ll ls sl ss eng uo) ∧
        (sqOf t s.focus s.focusSq).pc = seqNext z 1 ∧
        (∀ n, regGet (sqOf t s.focus s.focusSq) n = regGet z n) ∧
        (sqOf t s.focus s.focusSq).fwdQ = z.fwdQ ∧ (sqOf t s.focus s.focusSq).backQ = z.backQ ∧
        (sqOf t s.focus s.focusSq).held = z.held ++ (if k.sf then [{ fwd := true, fence := some s.nextId }] else []) ++
          (if k.sb then [{ fwd := false, fence := some s.nextId }] else []))

/-- R132, R134, R147: LDB and STB inside the hand's window, aligned, enter the range checker with the bytes they touch,
rounded outward to 32; STB carries B's low bytes and the tags of both operands; no bank changes at issue. R132, R133,
R147: a scalar buffer access, LDB or STB, outside the hand's window, not aligned, or at 2^32 and beyond, takes the
buffer-bounds trap with cause 4 and changes no buffer; a scalar store to WB inside it takes the protection trap. -/
def Obligations.BufferAccesses : Prop :=
  (∀ (s : State) (k : Tok) (d : Dst) (a b : Src) (z : Width) (u : Buf) (o : BitVec 5) (o4 : BitVec 4) (h : Hand) (vals : List (Word × Tag)),
    let w := widthBytes z
    let base := (windowOf (handOf s s.focus) u).1
    (easelOf s (easelNo s.focus)).rc.length < 128 →
    (let x := address (valOf vals 0).1 o.toInt z
     Issues s k { operands d [a] with allowed := xls } h vals → x % w = 0 → x + w ≤ (windowOf (handOf s s.focus) u).2 → x < 2 ^ 32 →
     ∃ t r, exec (.ldb k d a z u o) s = .next t ∧ BufferEntered s t r (some d) ∧ r.ticket = s.nextId ∧
       r.what = .ldb (base + x) w (dstRef d) ∧ r.tag = Tag.empty ∧
       r.ranges = [{ buf := u, lo := (base + x) / 32 * 32, hi := (base + x + w + 31) / 32 * 32, wr := false }] ∧
       (∀ n, d = .reg n → n ≠ 0 → regPending (sqOf t s.focus s.focusSq) n = true)) ∧
    (let x := address (valOf vals 0).1 o4.toInt z
     Issues s k { reqRR none [a, b] with allowed := xls } h vals → x % w = 0 → x + w ≤ (windowOf (handOf s s.focus) u).2 → x < 2 ^ 32 → u ≠ .wb →
     ∃ t r, exec (.stb k u o4 a b z) s = .next t ∧ BufferEntered s t r none ∧ r.ticket = s.nextId ∧
       r.what = .stb (base + x) (bytesOfNat w ((valOf vals 1).1.toNat % 2 ^ (8 * w))) ∧ r.tag = tagJoin (valOf vals 0).2 (valOf vals 1).2 ∧
       r.ranges = [{ buf := u, lo := (base + x) / 32 * 32, hi := (base + x + w + 31) / 32 * 32, wr := true }])) ∧
  ((∀ (s : State) (k : Tok) (d : Dst) (a : Src) (z : Width) (u : Buf) (o : BitVec 5) (h : Hand) (vals : List (Word × Tag)),
    Issues s k { operands d [a] with allowed := xls } h vals →
    let w := widthBytes z
    let x := address (valOf vals 0).1 o.toInt z
    (2 ^ 32 ≤ x ∨ x % w ≠ 0 → exec (.ldb k d a z u o) s = .next (boundsTrap s s.focus s.focusSq u x)) ∧
    (x < 2 ^ 32 → x % w = 0 → (windowOf (handOf s s.focus) u).2 < x + w →
      exec (.ldb k d a z u o) s = .next (boundsTrap s s.focus s.focusSq u (max x (windowOf (handOf s s.focus) u).2)))) ∧
  (∀ (s : State) (k : Tok) (a b : Src) (z : Width) (u : Buf) (o : BitVec 4) (h : Hand) (vals : List (Word × Tag)),
    Issues s k { reqRR none [a, b] with allowed := xls } h vals →
    let w := widthBytes z
    let x := address (valOf vals 0).1 o.toInt z
    (2 ^ 32 ≤ x ∨ x % w ≠ 0 → exec (.stb k u o a b z) s = .next (boundsTrap s s.focus s.focusSq u x)) ∧
    (x < 2 ^ 32 → x % w = 0 → (windowOf (handOf s s.focus) u).2 < x + w →
      exec (.stb k u o a b z) s = .next (boundsTrap s s.focus s.focusSq u (max x (windowOf (handOf s s.focus) u).2))) ∧
    (x < 2 ^ 32 → x % w = 0 → x + w ≤ (windowOf (handOf s s.focus) u).2 → u = .wb →
      exec (.stb k u o a b z) s = .next (engineListTrap s s.focus s.focusSq true))))

/-! ### Engines -/

/-- R91, R150, R151: a CMD form whose queue has room hands its engine a command of its function, with the values and the
tags of A and B at issue, and D5 waits for the reply; a record's address is translated at issue. R322, R323, R326: FRGO
and FRLD on C hand the fresco engine their command with the pages of the record and read nothing; on X, L and S they
wait for the record's tag, for room in the ordering buffer and for its order, read the job record or the image at issue,
and hand over what they have read. -/
def Obligations.CommandsEnterTheirQueues : Prop :=
  (∀ (i : Instr) (fn : Nat) (k : Tok) (d a b : BitVec 5) (s : State) (r : Req) (h : Hand) (vals : List (Word × Tag)),
    request i s = some (k, r) → Issues s k r h vals → (cmdQueue (easelOf s (easelNo s.focus)) fn).length < 16 →
    let z := sqOf s s.focus s.focusSq
    let c := cmdOf s fn d a b [regGet z a, regGet z b]
    (cmdRule i = some (fn, k, d, a, b) → ∃ t, exec i s = .next t ∧ Commanded s t fn c d) ∧
    (recordRule i = some (fn, k, d, a, b) → (regGet z a).toNat % 64 = 0 → ∀ ps,
      xlateAll s s.focus s.focusSq true false [.normal] [{ va := (regGet z a).toNat, len := 64 }] = .pages ps →
      ∃ t, exec i s = .next t ∧ Commanded s t fn { c with pages := ps } d)) ∧
  (∀ (s : State) (k : Tok) (d a b : BitVec 5) (h : Hand) (vals : List (Word × Tag)) (p : Page),
    Issues s k (reqCP everywhere [d, a, b]) h vals → (easelOf s (easelNo s.focus)).frescoQ.length < 16 →
    let z := sqOf s s.focus s.focusSq
    let va := (regGet z a).toNat
    let ws := [regGet z a, regGet z b]
    va % 64 = 0 →
    (s.focusSq = .c →
      (xlateAll s s.focus s.focusSq true false [.normal] (splitPages va 64) = .pages [p] →
        ∃ t, exec (.frgo k d a b) s = .next t ∧ Commanded s t 0x10 { cmdOf s 0x10 d a b ws with pages := [p] } d) ∧
      (xlateAll s s.focus s.focusSq true false [.normal] (splitPages va 128) = .pages [p] →
        ∃ t, exec (.frld k d a b) s = .next t ∧ Commanded s t 0x13 { cmdOf s 0x13 d a b ws with pages := [p] } d)) ∧
    (s.focusSq ≠ .c → tagEmpty (tagGet z a) = true → z.ob.length < 32 →
      (∀ pw po, xlateAll s s.focus s.focusSq true false [.normal] (splitPages va 64) = .pages [p] →
        let pc : Piece := pieceAt p va 64 0
        let bs := (pointRead (opened s k (reqCP everywhere [d, a, b]) h) (dieNo s.focus) p.kind p.ptype (physOf p va) 64).1
        let ts := jobTouches (BitVec.ofNat 512 (natOfBytes bs))
        (splitPages va 64).length = 1 → mayRead s s.focus s.focusSq pc = true →
        xlateAll s s.focus s.focusSq true false [.normal] ts.1 = .pages pw → xlateAll s s.focus s.focusSq true true [.normal] ts.2 = .pages po →
        ts.1.length + ts.2.length ≤ 256 →
        ∃ t c, exec (.frgo k d a b) s = .next t ∧ c.extra = bs ∧ c.words = ws ∧ c.fn = some 0x10 ∧ c.ticket = s.nextId ∧
          (easelOf t (easelNo s.focus)).frescoQ = (easelOf s (easelNo s.focus)).frescoQ ++ [c] ∧ t.mem = s.mem) ∧
      (∀ pw, xlateAll s s.focus s.focusSq true false [.normal] (splitPages va 128) = .pages [p] →
        let pc : Piece := pieceAt p va 128 0
        let bs := (pointRead (opened s k (reqCP everywhere [d, a, b]) h) (dieNo s.focus) p.kind p.ptype (physOf p va) 128).1
        (splitPages va 128).length = 1 → mayRead s s.focus s.focusSq pc = true →
        xlateAll s s.focus s.focusSq true false [.normal] (imTouches va bs) = .pages pw →
        mayReadAll s s.focus s.focusSq ((List.zip (imTouches va bs) pw).map (fun x => pieceAt x.2 x.1.va x.1.len 0)) = true →
        ∃ t c, exec (.frld k d a b) s = .next t ∧ c.extra.take bs.length = bs ∧ c.words = ws ∧ c.fn = some 0x13 ∧ c.ticket = s.nextId ∧ c.pages = p :: pw ∧
          (easelOf t (easelNo s.focus)).frescoQ = (easelOf s (easelNo s.focus)).frescoQ ++ [c] ∧ t.mem = s.mem)))

/-- R140, R142, R148, R149, R238: a copy whose record, box, window and pages pass every check, and for which queue, range
checker and tokens have room, enters the copy queue with the geometry of its record, and the range checker with the
bytes of its box; its completion register waits; no byte moves at issue. R91, R151: PUSHC puts the eight registers of
its group, with their tags joined, into a queue that has room and writes 0; with the queue full it writes 1 and hands
over nothing. R150: CPQRY's reply is from the copy engine's state as it is when the instruction issues: for 1 and 2 the
free entries of the queue and of the range checker, for 4 and above all ones. D5 is pending, with an empty tag, until
the reply arrives; then it holds the reply. -/
def Obligations.CopiesEnterTheQueue : Prop :=
  (∀ (i : Instr) (k : Tok) (y : CopyArgs) (s : State) (r : Req) (h : Hand) (vals : List (Word × Tag)) (p : Page) (ps : List Page),
    copyRule i = some (k, y) → request i s = some (noTok, r) → Issues s noTok r h vals →
    let n := BitVec.ofNat 1024 (natOfBytes (pointRead (opened s noTok r h) (dieNo s.focus) p.kind p.ptype
      (physOf p (regGet (sqOf s s.focus s.focusSq) y.ts).toNat) 128).1)
    CopyAccepted s k y p n ps →
    let e := easelNo s.focus
    let c := { copyCommand s y n with pages := distinct ps }
    ∃ t, exec i s = .next t ∧ (easelOf t e).copyQ = (easelOf s e).copyQ ++ [c] ∧
      (∃ x, (easelOf t e).rc = (easelOf s e).rc ++ [x] ∧ x.ticket = s.nextId ∧ x.what = .cmd ∧
        x.ranges = (if c.count = 0 then [] else [rangeOf (handOf s s.focus) y.u (boxSpan c).1 (boxSpan c).2 (y.kind == .inn)])) ∧
      (y.t ≠ 0 → regPending (sqOf t s.focus s.focusSq) y.t = true) ∧
      (sqOf t s.focus s.focusSq).pc = seqNext (sqOf s s.focus s.focusSq) 2 ∧ t.mem = s.mem ∧
      (∀ u, bufMem (easelOf t e) u = bufMem (easelOf s e) u) ∧ OtherHands s t none) ∧
  (∀ (s : State) (k : Tok) (d a : BitVec 5) (u : EngQueue) (r : Req) (h : Hand) (vals : List (Word × Tag)),
    request (.pushc k d a u) s = some (k, r) → Issues s k r h vals →
    let z := sqOf s s.focus s.focusSq
    let e := easelNo s.focus
    ∃ t, exec (.pushc k d a u) s = .next t ∧ HandFrame s t ∧ (sqOf t s.focus s.focusSq).pc = seqNext z 1 ∧
      (queueRoom (easelOf s e) u = false → t.easels = s.easels ∧ (s.focusSq ≠ .c → d ≠ 0 → regGet (sqOf t s.focus s.focusSq) d = 1)) ∧
      (queueRoom (easelOf s e) u = true → (s.focusSq ≠ .c → d ≠ 0 → regGet (sqOf t s.focus s.focusSq) d = 0) ∧
        let ws := (List.range 8).map (fun i => regGet z (a + BitVec.ofNat 5 i))
        let c : EngCmd := { ticket := s.nextId, hand := s.focus, sq := s.focusSq, part := handPart s s.focus, leaf := (handOf s s.focus).bound, tag := tagUnion ((List.range 8).map (fun i => tagGet z (a + BitVec.ofNat 5 i))), fn := none, words := ws, dst := .none, extra := [], pages := [], phase := 0 }
        (u = .fresco → (easelOf t e).frescoQ = (easelOf s e).frescoQ ++ [c]) ∧
        (u = .collective → (easelOf t e).collQ = (easelOf s e).collQ ++ [c]) ∧
        (u = .glaze → (easelOf t e).glazeQ = (easelOf s e).glazeQ ++ [c]) ∧
        (u = .sync → (easelOf t e).syncQ = (easelOf s e).syncQ ++ [c]) ∧
        (u = .copy → ∃ y, (easelOf t e).copyQ = (easelOf s e).copyQ ++ [y] ∧ y.words = ws ∧ y.tag = c.tag ∧ y.ticket = s.nextId ∧ y.kind = .command))) ∧
  ((∀ (s : State) (k : Tok) (d a : BitVec 5) (h : Hand) (vals : List (Word × Tag)), Issues s k (reqCP everywhere [d, a]) h vals →
    let z := sqOf s s.focus s.focusSq
    let e := easelOf s (easelNo s.focus)
    ∃ t, exec (.cpqry k d a) s = .next t ∧ GoesOn s t ∧ t.easels = s.easels ∧
      (d = 0 → (sqOf t s.focus s.focusSq).late = z.late) ∧
      (d ≠ 0 → regPending (sqOf t s.focus s.focusSq) d = true ∧ tagGet (sqOf t s.focus s.focusSq) d = Tag.empty ∧
        ∃ v, (sqOf t s.focus s.focusSq).late = z.late ++ [{ ticket := s.nextId, dst := .reg d.toNat, due := none, val := v, tag := Tag.empty }] ∧
          (regGet z a = 1 → v = BitVec.ofNat 64 (64 - e.copyQ.length)) ∧
          (regGet z a = 2 → v = BitVec.ofNat 64 (128 - e.rc.length)) ∧
          (4 ≤ (regGet z a).toNat → v = 0xFFFFFFFFFFFFFFFF))) ∧
  (∀ (s : State) (g : Nat) (q : SeqId) (d : BitVec 5) (l : Late), d ≠ 0 → (sqOf s g q).late = [l] → l.dst = .reg d.toNat → l.due = none →
    let t := lateArrive s g q (fun x => x.due.isNone)
    regGet (sqOf t g q) d = l.val ∧ tagGet (sqOf t g q) d = l.tag ∧ (sqOf t g q).late = [] ∧
    (∀ n, n ≠ d → regGet (sqOf t g q) n = regGet (sqOf s g q) n)))

/-! ### The mural array -/

/-- R221, R239: MLEASE sets SETBUDGET from bits 8:0 of a (0 keeps it, above 256 counts as 256) and answers the old one; with
bit 9 set and the lease not held by its hand it waits. MSTAT answers and changes nothing; MFREE ends the issue and, on a hand
that holds the lease, asks for its release; MSYNC issues once the hand has no mural command left. -/
def Obligations.LeaseInstructionsComplete : Prop :=
  ∀ (s : State) (k : Tok) (d : Dst) (a : Src) (h : Hand) (vals : List (Word × Tag)),
    let g := s.focus
    let m := muralOf s (easelNo g)
    let mine := m.lease = .held ∧ m.holder = g % 4
    let rl : Req := { operands d [a] with allowed := [.c] }
    let rs : Req := { operands d [] with allowed := [.c] }
    let v := (valOf vals 0).1
    (Issues s k rl h vals → (bit v 9 = false ∨ mine) →
      exec (.mlease k d a) s = .next (finish (putDst (modHand (opened s k rl h) g (fun h => { h with
        setBudget := BitVec.ofNat 9 (if fld v 8 0 = 0 then (handOf s g).setBudget.toNat else min (fld v 8 0) 256) })) g .c s.nextId 1 d
        (BitVec.ofNat 64 (handOf s g).setBudget.toNat) Tag.empty) g .c k (fun q => advance q 1))) ∧
    (Issues s k rl h vals → bit v 9 = true → ¬mine → exec (.mlease k d a) s = .next (leaseWait s g (budgetOf (handOf s g) v))) ∧
    (Issues s k rs h vals → exec (.mstat k d) s = .next (wrote s k rs h 1 d (mstatWord s g) Tag.empty 1)) ∧
    (Issues s k (reqV [] false false 0) h vals → ¬mine → exec (.mfree k) s = .next (closed s (opened s k (reqV [] false false 0) h) k 1)) ∧
    (Issues s k (reqV [] false false 0) h vals → mine → exec (.mfree k) s =
      .next (settleLease (modMural (closed s (opened s k (reqV [] false false 0) h) k 1) (easelNo g) (fun m => { m with mfree := true })) (easelNo g))) ∧
    (Issues s k (reqV [] false false 0) h vals → muralBusy s g = false →
      exec (.msync k) s = .next (closed s (opened s k (reqV [] false false 0) h) k 1)) ∧
    (Issues s k (reqV [] false false 0) h vals → muralBusy s g = true → exec (.msync k) s = .next (stalled s g .c 11))

/-- R235: an MMA of legal operands on a hand that holds the lease with fewer than two commands accepted, with room in the
range checker, is accepted: its command, with the operand registers, palette entry and algebra record of the issue, with
the windows of its hand, stands last in the easel's queue before the lease is settled. R232, R236: an MMAG of legal
operands whose group's hands all run its task, and whose reservation stands with every member in GROUP for it, with
fewer than two commands of its hand accepted and room in every member's range checker, is accepted by every member at
once, each with the windows of the hands that hold its operands. -/
def Obligations.MuralCommandsComplete : Prop :=
  (∀ (s : State) (k : Tok) (c a b : BitVec 5) (acc : Bool) (pal : BitVec 4) (alg : BitVec 3) (m n : BitVec 2) (kk : BitVec 3)
    (ta tb ca cb sw chain : Bool) (h : Hand) (vals : List (Word × Tag)),
    let g := s.focus
    let e := easelNo g
    let x : MmaArgs := { c := c, a := a, b := b, acc := acc, pal := pal, alg := alg, m := m, n := n, k := kk, ta := ta, tb := tb, ca := ca, cb := cb, sw := sw, chain := chain }
    let r := reqV [c, a, b] (mmaLimit (handOf s g) pal alg m n ta tb) false 0
    Issues s k r h vals → mmaTrap s g x = none → (muralOf s e).lease = .held → (muralOf s e).holder = g % 4 →
    (acceptedOf s g).length < 2 → (easelOf s e).rc.length < 128 →
    let win := fun (u : Buf) => (windowOf (handOf s g) u).1
    let cmd := { mkMural (handOf s g) g s.nextId x none with winA := win .ab, winB := win .wb, winC := win .cb }
    exec (.mma k c a b acc pal alg m n kk ta tb ca cb sw chain) s =
      .next (settleLease (closed s (acceptSlice (opened s k r h) e cmd) k 2) e) ∧
    (muralOf (acceptSlice (opened s k r h) e cmd) e).queue = (muralOf s e).queue ++ [cmd] ∧
    cmd.m = 32 * 2 ^ m.toNat ∧ cmd.n = 32 * 2 ^ n.toNat ∧ cmd.k = 32 * 2 ^ kk.toNat ∧
    cmd.a = regGet (handOf s g).c a ∧ cmd.b = regGet (handOf s g).c b ∧ cmd.c = regGet (handOf s g).c c) ∧
  (∀ (s : State) (k : Tok) (c a b : BitVec 5) (acc : Bool) (pal : BitVec 4) (alg : BitVec 3) (m n : BitVec 2) (kk : BitVec 3)
    (ta tb ca cb sw : Bool) (gr gc : BitVec 2) (h : Hand) (vals : List (Word × Tag)),
    let g := s.focus
    let e := easelNo g
    let x : MmaArgs := { c := c, a := a, b := b, acc := acc, pal := pal, alg := alg, m := m, n := n, k := kk, ta := ta, tb := tb, ca := ca, cb := cb, sw := sw, chain := false }
    let q : GroupReq := { id := 0, hand := g, rows := gr.toNat + 1, cols := gc.toNat + 1, since := s.time.toNat }
    let r := reqV [c, a, b] (meshFar g gr gc || mmaLimit (handOf s g) pal alg m n ta tb) false 0
    Issues s k r h vals → mmaTrap (dropGroup s g) g x = none → groupFault s q = none →
    groupReady s q = true → (acceptedOf s g).length < 2 → (∀ y ∈ groupMembers q, (easelOf s (easelNo (4 * y))).rc.length < 128) →
    ∃ t, exec (.mmag k c a b acc pal alg m n kk ta tb ca cb sw gr gc) s = .next t ∧
      (sqOf t g .c).pc = seqNext (sqOf s g .c) 2 ∧ t.mem = s.mem ∧ (handOf t g).chainMark = none ∧
      (∀ y ∈ groupMembers q,
        let c := mkMural (handOf s g) g s.nextId x (some (q.rows, q.cols, e))
        let win := fun (z : Nat) (u : Buf) => (windowOf (handOf s (4 * z + g % 4)) u).1
        { c with winA := win (sliceA c y) .ab, winB := win (sliceB c y) .wb, winC := win y .cb } ∈ (muralOf t y).queue) ∧
      (∀ y, y ∉ groupMembers q → easelOf t y = easelOf s y) ∧
      (∀ z ∈ tget [] t.groups (clusterNo g), z.hand ≠ g))

/-- R188, R229, R237: ALGLD reads 80 bytes of WB into its algebra slot, and a write of PALBASE, in either of its spellings,
reads 256 bytes of WB into the sixteen palette entries; both wait for the range checker and the vector port; no other slot and no register
changes. -/
def Obligations.TableLoadsComplete : Prop :=
  ∀ (s : State) (k : Tok) (sl : BitVec 3) (r : BitVec 5) (a : Src) (h : Hand) (vals : List (Word × Tag)),
    let g := s.focus
    let e := easelNo g
    let base := (windowOf (handOf s g) .wb).1
    (Issues s k (reqV [r] (sl == 0) false 0) h vals →
      let x := (regGet (handOf s g).c r).toNat
      let rec_ := BitVec.ofNat 640 (natOfBytes (bufRead (easelOf s e) .wb (base + x) 80))
      x % 16 = 0 → x < 2 ^ 32 → x + 80 ≤ (windowOf (handOf s g) .wb).2 → portWait s g .c s.nextId (vectorPort .wb) [rangeOf (handOf s g) .wb x (x + 80) false] = none →
      algBad rec_ = false →
      ∃ t, exec (.algld k sl r) s = .next t ∧ tget 0 (handOf t g).algs sl.toNat = rec_ ∧
        (∀ n, n ≠ sl.toNat → tget 0 (handOf t g).algs n = tget 0 (handOf s g).algs n) ∧
        (sqOf t g .c).pc = seqNext (sqOf s g .c) 2 ∧ t.mem = s.mem ∧ PortRead s t .wb ∧ (∀ n, regGet (sqOf t g .c) n = regGet (sqOf s g .c) n)) ∧
    (Issues s k { reqRR none [a] with limit := s.focusSq != .c } h vals →
      let v := (valOf vals 0).1
      let x := v.toNat % 2 ^ 32
      let bs := bufRead (easelOf s e) .wb (base + x) 256
      x % 256 = 0 → x + 256 ≤ (windowOf (handOf s g) .wb).2 → portWait s g .c s.nextId (vectorPort .wb) [rangeOf (handOf s g) .wb x (x + 256) false] = none →
      ∃ t, exec (.palbaseWrite k a) s = .next t ∧ exec (.csrw k a .palbase) s = .next t ∧
        (∀ i, i < 16 → tget 0 (handOf t g).palette i = BitVec.ofNat 128 (natOfBytes ((bs.drop (16 * i)).take 16))) ∧
        csrValue t g .c .palbase = BitVec.ofNat 64 (v.toNat % 2 ^ 38) ∧
        (sqOf t g .c).pc = seqNext (sqOf s g .c) 1 ∧ t.mem = s.mem ∧ PortRead s t .wb ∧ (∀ n, regGet (sqOf t g .c) n = regGet (sqOf s g .c) n))

/-! ### System -/

/-- R122, R181, R182, R196, R224, R269: CSRW writes the CSR that it names: its fields read back as supplied, and the limited ones within
their limits (WAITLIM R269, LBOUND R224); no general register and no other hand changes. -/
def Obligations.CsrwCompletes : Prop :=
  ∀ (s : State) (k : Tok) (a : Src) (c : Csr) (r : Req) (h : Hand) (vals : List (Word × Tag)),
    c ≠ .palbase → request (.csrw k a c) s = some (k, r) → Issues s k r h vals →
    let g := s.focus
    let q := s.focusSq
    let v := (valOf vals 0).1
    ∃ t, exec (.csrw k a c) s = .next t ∧ (sqOf t g q).pc = seqNext (sqOf s g q) 1 ∧ t.mem = s.mem ∧ OtherHands s t none ∧
      (∀ n, regGet (sqOf t g q) n = regGet (sqOf s g q) n ∧ tagGet (sqOf t g q) n = tagGet (sqOf s g q) n) ∧
      (∀ m, csrMask c = some m → csrValue t g q c = BitVec.ofNat 64 (v.toNat &&& m)) ∧
      (c = .frm → csrValue t g q c = BitVec.ofNat 64 ((if 4 < v.toNat % 8 then 0 else v.toNat % 8) + 8 * (v.toNat / 8 % 2))) ∧
      (c = .fstat → csrValue t g q c = BitVec.ofNat 64 (v.toNat % 8 ||| (handOf s g).landStat.toNat)) ∧
      (c = .shape → csrValue t g q c = BitVec.ofNat 64 ((if 10 < v.toNat % 16 then 10 else v.toNat % 16) +
        2 ^ 8 * (v.toNat / 2 ^ 8 % 2 ^ 24) + 2 ^ 32 * (if v.toNat / 2 ^ 32 % 4 = 3 then 0 else v.toNat / 2 ^ 32 % 4))) ∧
      (c = .waitlim → csrValue t g q c = BitVec.ofNat 64 (max 1000 (min 10000000 (v.toNat % 2 ^ 24)))) ∧
      (c = .lbound → csrValue t g q c = BitVec.ofNat 64 (max 1000 (min 1000000 (v.toNat % 2 ^ 32)))) ∧
      (∀ c', c' ≠ c → c' ≠ .time → csrValue t g q c' = csrValue s g q c')

/-- R330: what taking a trap outside supervisor state does to the hand: TCAUSE, TINFO and EPC are written, SUP is set, X
fetches at TVEC, and every other sequencer that runs is frozen, its stall kept; EPC.XRES is X's next issue point; a
sequencer that has halted or was not started stays as it is. The scalar registers, loop counters, channels and tokens
keep what they hold. That the next issue point lies past a barrier operation that X has issued is the model's choice
(log entries 9 and 37). R330, R332: the trap of a sequencer outside supervisor state, when no armed stop names it, is
the entry above; in supervisor state it is a double trap: all four sequencers stop and the leaf ends with status 5, with
the second trap's values. -/
def Obligations.TakingATrap : Prop :=
  (∀ (h : Hand) (q : SeqId) (cause : Nat) (info : Word) (p : Ptr) (now : Nat), cause < 2 ^ 8 →
    let t := enterTrap h q cause info p now
    fld t.tcause 7 0 = cause ∧ fld t.tcause 9 8 = seqNo q ∧ bit t.tcause 10 = h.sup ∧ (bit t.tcause 11 = true ↔ cause = 13) ∧
    (bit t.tcause 12 = true ↔ h.x.status ≠ .run) ∧ t.tinfo = info ∧ t.epcPc = ptrWord p ∧
    t.epcXres = (if q ≠ .x ∧ h.x.status = .run then ptrWord (issuePoint h.x) else 0) ∧
    t.sup = true ∧ t.x.pc = ptrOf t.tvec ∧ t.tvec = h.tvec ∧ t.x.status = .run ∧ t.x.frozen = false ∧ t.x.line = none ∧
    (∀ q', q' ≠ .x → (seqOf h q').status = .run → (seqOf t q').frozen = true ∧ (seqOf t q').pc = (seqOf h q').pc) ∧
    (∀ q', q' ≠ .x → q' ≠ q → (seqOf h q').status ≠ .run → seqOf t q' = seqOf h q') ∧
    (∀ q', q' ≠ .x → q' ≠ q → (seqOf t q').since = (seqOf h q').since) ∧ t.trapTime = now ∧
    (∀ q' n, regGet (seqOf t q') n = regGet (seqOf h q') n ∧ (seqOf t q').lc = (seqOf h q').lc ∧
      (seqOf t q').fwdQ = (seqOf h q').fwdQ ∧ (seqOf t q').backQ = (seqOf h q').backQ) ∧
    t.chans = h.chans ∧ t.landings = h.landings ∧ t.vregs = h.vregs ∧ t.pregs = h.pregs) ∧
  (∀ (s : State) (g : Nat) (q : SeqId) (cause : Nat) (info : Word) (p : Ptr),
    ((handOf s g).sup = false → stopMatch (traceTrap (modHand s g (fun h => enterTrap h q cause info p s.time.toNat)) g q) g 2 (some q) = none →
      handOf (trapAt s g q cause info p) g = enterTrap (handOf s g) q cause info p s.time.toNat ∧ (trapAt s g q cause info p).mem = s.mem ∧
      (∀ g', g' ≠ g → handOf (trapAt s g q cause info p) g' = handOf s g')) ∧
    ((handOf s g).sup = true →
      (handOf (trapAt s g q cause info p) g).ending = some 5 ∧
      (∀ q', (sqOf (trapAt s g q cause info p) g q').status ≠ .run) ∧
      (handOf (trapAt s g q cause info p) g).tinfo = info ∧ (handOf (trapAt s g q cause info p) g).epcPc = ptrWord p ∧
      (trapAt s g q cause info p).mem = s.mem ∧
      (∀ g', g' ≠ g → handOf (trapAt s g q cause info p) g' = handOf s g')))

/-- R346: TRAP reads its operand, issues, and then traps with cause 14: TINFO is the operand and EPC.PC the return point.
R347: BRK issues; with no armed stop of kind BRK it traps with cause 15, its immediate in TINFO and its return point in
EPC.PC. -/
def Obligations.TrapAndBrkComplete : Prop :=
  (∀ (s : State) (k : Tok) (a : Src) (h : Hand) (vals : List (Word × Tag)), Issues s k (reqRR none [a]) h vals →
    let g := s.focus
    let q := s.focusSq
    exec (.trap k a) s = .next (trapAt (closed s (opened s k (reqRR none [a]) h) k 1) g q 14 (valOf vals 0).1 (seqNext (sqOf s g q) 1)) ∧
    ((handOf s g).sup = false → (partOf s (handPart s g)).stops = [] →
      ∃ t, exec (.trap k a) s = .next t ∧ (handOf t g).sup = true ∧ (handOf t g).tinfo = (valOf vals 0).1 ∧
        (handOf t g).epcPc = ptrWord (seqNext (sqOf s g q) 1) ∧ fld (handOf t g).tcause 7 0 = 14 ∧ fld (handOf t g).tcause 9 8 = seqNo q ∧
        (handOf t g).x.pc = ptrOf (handOf s g).tvec)) ∧
  (∀ (s : State) (k : Tok) (c : BitVec 9) (h : Hand) (vals : List (Word × Tag)), Issues s k (reqRR none []) h vals →
    let g := s.focus
    let q := s.focusSq
    (handOf s g).sup = false → (partOf s (handPart s g)).stops = [] →
    ∃ t, exec (.brk k c) s = .next t ∧ (handOf t g).sup = true ∧ (handOf t g).tinfo = BitVec.ofNat 64 c.toNat ∧
      (handOf t g).epcPc = ptrWord (seqNext (sqOf s g q) 1) ∧ fld (handOf t g).tcause 7 0 = 15 ∧ fld (handOf t g).tcause 9 8 = seqNo q ∧
      (handOf t g).x.pc = ptrOf (handOf s g).tvec ∧ t.mem = s.mem)

/-- R330, R333: ERET on X in supervisor state leaves it for the state TCAUSE.PSUP names, unfreezes every sequencer, and resumes the
trapping one at EPC.PC; X resumes at EPC.XRES when it is not that one, or halts again where TCAUSE.XHALT says so; every
other sequencer goes on at the issue point at which it stopped, and the time for which it was frozen does not count for its stall. -/
def Obligations.EretCompletes : Prop :=
  ∀ (s : State) (r : Req) (h : Hand) (vals : List (Word × Tag)), request .eret s = some (noTok, r) → Issues s noTok r h vals →
    let g := s.focus
    let old := handOf s g
    s.focusSq = .x ∧ old.sup = true ∧
    ∃ t, exec .eret s = .next t ∧ (handOf t g).sup = bit old.tcause 10 ∧ (∀ q, (sqOf t g q).frozen = false ∨ (q = .x ∧ bit old.tcause 12 = true)) ∧
      (fld old.tcause 9 8 = 0 → (handOf t g).x.pc = ptrOf old.epcPc ∧ (handOf t g).x.line = none) ∧
      (fld old.tcause 9 8 = 1 → (handOf t g).l.pc = ptrOf old.epcPc ∧ (handOf t g).l.line = none) ∧
      (fld old.tcause 9 8 = 2 → (handOf t g).c.pc = ptrOf old.epcPc ∧ (handOf t g).c.line = none) ∧
      (fld old.tcause 9 8 = 3 → (handOf t g).s.pc = ptrOf old.epcPc ∧ (handOf t g).s.line = none) ∧
      (fld old.tcause 9 8 ≠ 0 → bit old.tcause 12 = true → (handOf t g).x.status = .halted) ∧
      (fld old.tcause 9 8 ≠ 0 → bit old.tcause 12 = false → (handOf t g).x.pc = ptrOf old.epcXres ∧ (handOf t g).x.line = none) ∧
      (∀ q, q ≠ .x → seqNo q ≠ fld old.tcause 9 8 →
        (sqOf t g q).pc = (sqOf s g q).pc ∧ (sqOf t g q).line = (sqOf s g q).line ∧ (sqOf t g q).status = (sqOf s g q).status ∧
        ((sqOf s g q).frozen = true → (sqOf t g q).since = (sqOf s g q).since.map (fun n => n + (s.time.toNat - old.trapTime)))) ∧
      (∀ q n, regGet (sqOf t g q) n = regGet (sqOf s g q) n) ∧ (handOf t g).tcause = old.tcause ∧ (handOf t g).epcPc = old.epcPc ∧
      t.mem = s.mem ∧ OtherHands s t none

/-- R346: HALT ends its sequencer for this leaf; on X in supervisor state it stops every sequencer and ends the leaf with
FAULT, status 4. YIELD is refused in supervisor state by R92 and otherwise issues and requests pre-emption of its hand. -/
def Obligations.HaltAndYieldComplete : Prop :=
  ∀ (s : State) (k : Tok) (h : Hand) (vals : List (Word × Tag)),
    let g := s.focus
    let q := s.focusSq
    (Issues s k (reqRR none []) h vals →
      ∃ t, exec (.halt k) s = .next t ∧ (sqOf t g q).status = .halted ∧ t.mem = s.mem ∧ OtherHands s t none ∧
        (∀ q' n, regGet (sqOf t g q') n = regGet (sqOf s g q') n) ∧
        (q = .x → (handOf s g).sup = true → (handOf t g).ending = some 4 ∧ (∀ q', (sqOf t g q').status ≠ .run) ∧
          (handOf t g).tcause = (handOf s g).tcause ∧ (handOf t g).tinfo = (handOf s g).tinfo ∧ (handOf t g).epcPc = (handOf s g).epcPc) ∧
        (¬(q = .x ∧ (handOf s g).sup = true) → (handOf t g).ending = none ∧ ∀ q', q' ≠ q → (sqOf t g q').status = (sqOf s g q').status)) ∧
    (Issues s k { reqRR none [] with limit := (handOf s g).sup } h vals → (handOf s g).sup = false ∧
      exec (.yield k) s = .next (requestPreempt (closed s (opened s k { reqRR none [] with limit := (handOf s g).sup } h) k 1) 2 g))

/-! ### Glaze -/

/-- R254 to R258: GTICK, GSTAT, GRST and GLDG on a valid region that no reconfiguration holds enter the ordering buffer with
their operands, and the registers they write wait for the reply; GEXP and GIMP do so with the whole image translated. That
GEXP and GIMP enter with an image address that is not aligned is the model's choice (log entry 12): no rule gives it a trap. -/
def Obligations.GlazeOperationsEnter : Prop :=
  ∀ (s : State) (k : Tok) (d a b m : BitVec 5) (h : Hand) (vals : List (Word × Tag)) (p : Page) (ps : List Page),
    let g := s.focus
    let q := s.focusSq
    let z := sqOf s g q
    let part := handPart s g
    let va := (regGet z a).toNat
    let ix := va % 256
    let reg := regionOf (partOf s part) ix
    let both := tagJoin (tagGet z a) (tagGet z b)
    z.ob.length < 32 →
    (Issues s k (reqCP xls [d, a, b]) h vals → cfgStallsRegion s part ix = false → rgValid reg.desc = true → rgPerTick reg.desc = true →
      ∃ t, exec (.gtick k d a b) s = .next t ∧ Entered s t { ticket := s.nextId, op := .glaze 0 [regGet z a, regGet z b] (dstRef (.reg d)), tag := both, va := 0, width := 0, pieces := [], data := [] } (some (.reg d))) ∧
    (Issues s k (reqCP xls [d, a]) h vals →
      ∃ t, exec (.gstat k d a) s = .next t ∧ Entered s t { ticket := s.nextId, op := .glaze 5 [regGet z a] (dstRef (.reg d)), tag := tagGet z a, va := 0, width := 0, pieces := [], data := [] } (some (.reg d))) ∧
    (Issues s k (reqCP xls [a, b]) h vals → xlateAll s g q false true [.glaze] [{ va := va, len := 1 }] = .pages [p] →
      cfgStalls s part va = false → wordFault s part va (physOf p va) = none →
      ∃ t e, exec (.grst k a b) s = .next t ∧ Entered s t e none ∧ e.op = .glaze 2 [regGet z b] .none ∧ e.va = va ∧ e.tag = both ∧
        e.width = rgWord (((regionAt s part va).map (·.2)).getD 0)) ∧
    (∀ r, request (.gldg k d a m) s = some (k, r) → Issues s k r h vals → xlateAll s g q true false [.glaze] [{ va := va, len := 1 }] = .pages [p] →
      cfgStalls s part va = false → wordFault s part va (physOf p va) = none →
      ∃ t e, exec (.gldg k d a m) s = .next t ∧ (sqOf t g q).ob = z.ob ++ [e] ∧ e.op = .glaze 1 [m.zeroExtend 64] (.reg d.toNat) ∧ e.va = va ∧
        e.tag = tagGet z a ∧ t.mem = s.mem ∧ (∀ x ∈ tapRegs d m, regPending (sqOf t g q) x.1 = true) ∧
        (∀ n, regGet (sqOf t g q) n = regGet z n) ∧ (sqOf t g q).pc = seqNext z 1) ∧
    (∀ imp : Bool, Issues s k (reqCP xls [d, a, b]) h vals → cfgStallsRegion s part ix = false → rgValid reg.desc = true → rgXfer reg.desc = true →
      xlateAll s g q imp (!imp) [.normal] (splitRange (regGet z b).toNat (64 + 4096 * rgSize reg.desc)) = .pages ps →
      ∃ t e, exec (if imp then .gimp k d a b else .gexp k d a b) s = .next t ∧ Entered s t e (some (.reg d)) ∧
        e.op = .glaze (if imp then 4 else 3) [regGet z a, regGet z b] (dstRef (.reg d)) ∧ e.va = (regGet z b).toNat ∧
        e.width = 64 + 4096 * rgSize reg.desc ∧ e.tag = both)

/-- R254: GTICK on a region that is not valid, or does not count ticks, takes the glaze-region trap, cause 10, with reason 3
or 4 (in supervisor state, the double trap), and enters nothing. R259: GCFG of X in supervisor state, with an aligned
descriptor on a normal page that is readable and passes the checks, the channels of the table entries taking accesses
and nothing of the region outstanding, applies the descriptor to its entry. -/
def Obligations.GtickTrapsAndGcfg : Prop :=
  (∀ (s : State) (k : Tok) (d a b : BitVec 5) (h : Hand) (vals : List (Word × Tag)), Issues s k (reqCP xls [d, a, b]) h vals →
    let g := s.focus
    let q := s.focusSq
    let ix := (regGet (sqOf s g q) a).toNat % 256
    let reg := regionOf (partOf s (handPart s g)) ix
    cfgStallsRegion s (handPart s g) ix = false →
    (rgValid reg.desc = false → exec (.gtick k d a b) s = .next (takeTrap (dropWalks s g q) g q 10 (glazeInfo 3 0 ix))) ∧
    (rgValid reg.desc = true → rgPerTick reg.desc = false →
      exec (.gtick k d a b) s = .next (takeTrap (dropWalks s g q) g q 10 (glazeInfo 4 0 ix)))) ∧
  (∀ (s : State) (k : Tok) (ix : BitVec 8) (r : BitVec 5) (h : Hand) (vals : List (Word × Tag)) (p : Page),
    let g := s.focus
    let z := sqOf s g .x
    let part := handPart s g
    let va := (regGet z r).toNat
    let rq : Req := { reqCP [.x] [r] with sup := true }
    let pc : Piece := pieceAt p va 64 0
    Issues s k rq h vals → tagEmpty (tagGet z r) = true → va % 64 = 0 →
    xlateAll s g .x true false scalarTypes [{ va := va, len := 64 }] = .pages [p] → p.ptype = .normal → mayRead s g .x pc = true →
    let x := pointRead (opened s k rq h) (dieNo g) p.kind p.ptype (physOf p va) 64
    let d := BitVec.ofNat 512 (natOfBytes x.1)
    unitsOpen s (if rgValid d then bindTables s part (rgBase d + 4096 * rgSize d) 65536 (rgBase d) else []) = true →
    cfgFault s part ix.toNat d = none → glazeOutstanding s part ix.toNat (regionOf (partOf s part) ix.toNat).desc d = false →
    ∃ t, exec (.gcfg k ix r) s = .next t ∧ t = closed s (dropWalks (cfgApply x.2 part ix.toNat d) g .x) k 2 ∧
      (regionOf (partOf t part) ix.toNat).desc = d ∧ (regionOf (partOf t part) ix.toNat).wait = none)

/-! ### Vector instructions -/

/-- R199, R200, R202, R203, R205, R206: an element-wise instruction writes every element that its guard selects with its
function of the operands' elements at issue, in the rounding mode of FRM, lands after its latency, holds the lanes for its
occupancy, carries the union of the tags it reads, and sets the FSTAT bits of its active elements. The vector-with-scalar
ones take the low word of a register of C for B. -/
def Obligations.ElementwiseResults : Prop :=
  (∀ (i : Instr) (k : Tok) (d a b g : BitVec 5) (occ lat : Nat) (f : Rm → BitVec 32 → BitVec 32 → BitVec 32 → FRes),
    elementRule i = some (k, d, a, b, g, occ, lat, f) → ∀ (s : State) (h : Hand) (vals : List (Word × Tag)),
    Issues s k (reqV [] false true 1) h vals →
    let o := handOf s s.focus
    let r := fun j => f (rmHand o) (elem (vreg o a) j) (elem (vreg o b) j) (elem (vreg o d) j)
    ∃ t l v, exec i s = .next t ∧ VectorIssued s t 1 occ l ∧ tileLands o l lat d v (preg o g) ∧
      l.tag = elementTag o d a b g (readsOld i) ∧ (l.join = true ↔ g ≠ 0) ∧ statOf l (preg o g).getLsbD r ∧
      ∀ j, j < 1024 → (preg o g).getLsbD j = true → elem v j = (r j).1) ∧
  (∀ (i : Instr) (k : Tok) (d a x g : BitVec 5) (lat : Nat) (f : Rm → BitVec 32 → BitVec 32 → BitVec 32 → FRes),
    broadcastRule i = some (k, d, a, x, g, lat, f) → ∀ (s : State) (h : Hand) (vals : List (Word × Tag)),
    Issues s k (reqV [x] false true 1) h vals →
    let o := handOf s s.focus
    let r := fun j => f (rmHand o) (elem (vreg o a) j) (BitVec.ofNat 32 (regGet o.c x).toNat) (elem (vreg o d) j)
    ∃ t l v, exec i s = .next t ∧ VectorIssued s t 1 4 l ∧ tileLands o l lat d v (preg o g) ∧
      (l.join = true ↔ g ≠ 0) ∧ statOf l (preg o g).getLsbD r ∧
      ∀ j, j < 1024 → (preg o g).getLsbD j = true → elem v j = (r j).1)

/-- R204, R214, R215: a comparison writes its predicate, false where the guard is, the comparison where both elements are
numbers, and for a NaN false (true for VCNE); VCLT and VCLE set INV for a NaN and VCEQ and VCNE do not. Predicate logic and
PSET write all 1,024 bits, after one virtual cycle, and leave the lanes alone. -/
def Obligations.PredicateResults : Prop :=
  (∀ (i : Instr) (k : Tok) (p a b g : BitVec 5) (f : Ordering → Bool) (nan : Bool),
    compareRule i = some (k, p, a, b, g, f, nan) → ∀ (s : State) (h : Hand) (vals : List (Word × Tag)),
    Issues s k (reqV [] false true 1) h vals →
    let o := handOf s s.focus
    let odd := fun j => decide (fval (elem (vreg o a) j) = .nan) || decide (fval (elem (vreg o b) j) = .nan)
    ∃ t l v, exec i s = .next t ∧ VectorIssued s t 1 4 l ∧ predLands o l 5 p v ∧
      l.tag = tagJoin (tagJoin (vtag o a) (vtag o b)) (ptag o g) ∧
      (l.stat = if (f .lt && !f .gt) && (List.range 1024).any (fun j => (preg o g).getLsbD j && odd j) then statInv else 0) ∧
      ∀ j, j < 1024 → v.getLsbD j = ((preg o g).getLsbD j &&
        if odd j then nan else f (fcmp false (fval (elem (vreg o a) j)) (fval (elem (vreg o b) j))))) ∧
  (∀ (i : Instr) (k : Tok) (d a b : BitVec 5) (f : Bool → Bool → Bool), predRule i = some (k, d, a, b, f) →
    ∀ (s : State) (h : Hand) (vals : List (Word × Tag)), Issues s k (reqV [] false false 1) h vals →
    let o := handOf s s.focus
    ∃ t l v, exec i s = .next t ∧ VectorIssued s t 1 0 l ∧ predLands o l 1 d v ∧ l.tag = tagJoin (ptag o a) (ptag o b) ∧ l.stat = 0 ∧
      ∀ j, j < 1024 → v.getLsbD j = f ((preg o a).getLsbD j) ((preg o b).getLsbD j)) ∧
  (∀ (k : Tok) (d : BitVec 5) (kd : PsetKind) (n : BitVec 11) (s : State) (h : Hand) (vals : List (Word × Tag)), n.toNat ≤ 1024 →
    Issues s k (reqV [] false false 1) h vals →
    let o := handOf s s.focus
    ∃ t l v, exec (.pset k d kd n) s = .next t ∧ VectorIssued s t 2 0 l ∧ predLands o l 1 d v ∧ l.tag = Tag.empty ∧ l.stat = 0 ∧
      ∀ j, j < 1024 → v.getLsbD j = (match kd with
        | .first => decide (j < n.toNat)
        | .last => decide (n.toNat ≤ j)
        | .col => decide (j % cols o < n.toNat)))

/-- R207, R209, R216: a permutation gives every active element the source element that its rule names; VSEL chooses each
element by a predicate; VINS writes the elements that an active source element names, the last one's value, and no other;
VTLU looks bytes up in up to eight registers. None sets an FSTAT bit. -/
def Obligations.PermutationResults : Prop :=
  (∀ (i : Instr) (k : Tok) (d a b g : BitVec 5) (f : Hand → (Nat → Nat) → Nat → Nat), permuteRule i = some (k, d, a, b, g, f) →
    ∀ (s : State) (h : Hand) (vals : List (Word × Tag)), Issues s k (reqV [] false true 1) h vals →
    let o := handOf s s.focus
    ∃ t l v, exec i s = .next t ∧ VectorIssued s t 1 8 l ∧ tileLands o l 12 d v (preg o g) ∧ l.stat = 0 ∧
      l.tag = tagJoin (tagJoin (vtag o a) (vtag o b)) (ptag o g) ∧ (l.join = true ↔ g ≠ 0) ∧
      ∀ j, j < 1024 → elem v j = elem (vreg o a) (f o (fun n => (elem (vreg o b) n).toNat) j)) ∧
  (∀ (k : Tok) (d a b g : BitVec 5) (s : State) (h : Hand) (vals : List (Word × Tag)), Issues s k (reqV [] false true 1) h vals →
    let o := handOf s s.focus
    let goal := fun j => (elem (vreg o b) j).toNat % 1024
    (∃ t l v, exec (.vsel k d a b g) s = .next t ∧ VectorIssued s t 1 4 l ∧ tileLands o l 6 d v (BitVec.allOnes 1024) ∧ l.stat = 0 ∧
      l.tag = tagJoin (tagJoin (vtag o a) (vtag o b)) (ptag o g) ∧ l.join = false ∧
      ∀ j, j < 1024 → elem v j = (if (preg o g).getLsbD j then elem (vreg o a) j else elem (vreg o b) j)) ∧
    (∃ t l v m, exec (.vins k d a b g) s = .next t ∧ VectorIssued s t 1 8 l ∧ tileLands o l 12 d v m ∧ l.stat = 0 ∧
      l.tag = tagJoin (tagJoin (vtag o a) (vtag o b)) (ptag o g) ∧ (l.join = true ↔ g ≠ 0) ∧
      (∀ j, j < 1024 → (m.getLsbD j = true ↔ ∃ n, n < 1024 ∧ (preg o g).getLsbD n = true ∧ goal n = j)) ∧
      (∀ n, n < 1024 → (preg o g).getLsbD n = true → (∀ x, n < x → x < 1024 → (preg o g).getLsbD x = true → goal x ≠ goal n) →
        elem v (goal n) = elem (vreg o a) n))) ∧
  (∀ (k : Tok) (d a b g : BitVec 5) (n : BitVec 3) (fill : BitVec 8) (s : State) (h : Hand) (vals : List (Word × Tag)),
    a.toNat + n.toNat ≤ 31 → Issues s k (reqV [] false true 1) h vals →
    let o := handOf s s.focus
    ∃ t l v, exec (.vtlu k d a b n g fill) s = .next t ∧ VectorIssued s t 2 (4 * (n.toNat + 1)) l ∧
      tileLands o l (4 * (n.toNat + 1) + 6) d v (preg o g) ∧ l.stat = 0 ∧ (l.join = true ↔ g ≠ 0) ∧
      (∀ j, j < 2048 → tileByte v j = lookupByte o a b (n.toNat + 1) fill j) ∧ (∀ j, 512 ≤ j → j < 1024 → elem v j = 0))

/-- R208, R211: a reduction gives every active element the fold of its row's or column's active elements, in order; a scan
gives every element its step on the element before it, or its own operand where the predicate restarts it. That a NaN which a restart
takes is written as the canonical NaN, and not with the bits that R211 names, is the model's choice (log entry 34). -/
def Obligations.ReductionsAndScans : Prop :=
  (∀ (i : Instr) (k : Tok) (d a g : BitVec 5) (byRow : Bool) (f : Rm → BitVec 32 → BitVec 32 → FRes),
    reduceRule i = some (k, d, a, g, byRow, f) → ∀ (s : State) (h : Hand) (vals : List (Word × Tag)),
    Issues s k (reqV [] false true 1) h vals →
    let o := handOf s s.focus
    ∃ t l v, exec i s = .next t ∧ VectorIssued s t 1 8 l ∧ tileLands o l 16 d v (preg o g) ∧
      l.tag = tagJoin (vtag o a) (ptag o g) ∧ (l.join = true ↔ g ≠ 0) ∧
      ∀ j, j < 1024 → (preg o g).getLsbD j = true →
        elem v j = (reduceLine (f (rmHand o)) (((lineOf o byRow j).filter (fun n => (preg o g).getLsbD n)).map (elem (vreg o a)))).1) ∧
  (∀ (i : Instr) (k : Tok) (d a b p : BitVec 5) (f : Rm → BitVec 32 → BitVec 32 → BitVec 32 → FRes),
    scanRule i = some (k, d, a, b, p, f) → ∀ (s : State) (h : Hand) (vals : List (Word × Tag)),
    Issues s k (reqV [] false true 1) h vals →
    let o := handOf s s.focus
    ∃ t l v, exec i s = .next t ∧ VectorIssued s t 1 4 l ∧ tileLands o l (cols o + 8) d v (BitVec.allOnes 1024) ∧
      l.tag = tagJoin (tagJoin (vtag o a) (vtag o b)) (tagJoin (ptag o p) (vtag o d)) ∧ l.join = false ∧
      ∀ j, j < 1024 → elem v j = (if (preg o p).getLsbD j then (signOp id (elem (vreg o b) j)).1
        else (f (rmHand o) (elem (vreg o a) j) (before o v (vreg o d) j) (elem (vreg o b) j)).1))

/-- R210, R228: a hypercomplex instruction works on groups of as many elements as the algebra that ALGSEL names has
components; on an empty slot it takes the algebra-slot-empty trap, cause 9, before anything of it happens. That VHMUL in slot 0 adds its
product to +0 as the loop of R210 does, and that VHCONJ copies a NaN which it does not negate, are the model's choices (log entry 34). -/
def Obligations.HypercomplexResults : Prop :=
  ∀ (i : Instr) (k : Tok) (d a b g : BitVec 5) (occ lat : Nat → Nat) (f : Rm → BitVec 640 → List (BitVec 32) → List (BitVec 32) → List FRes),
    hyperRule i = some (k, d, a, b, g, occ, lat, f) → ∀ (s : State) (h : Hand) (vals : List (Word × Tag)),
    Issues s k (reqV [] false true 1) h vals →
    let o := handOf s s.focus
    let r := algSlot o o.algsel.toNat
    let n := algDim r
    (r = 0 → exec i s = .next (takeTrap s s.focus .c 9 (algInfo o.algsel.toNat 0))) ∧
    (r ≠ 0 → algBad r = false →
      ∃ t l v, exec i s = .next t ∧ VectorIssued s t 1 (occ n) l ∧ tileLands o l (lat n) d v (preg o g) ∧
        l.tag = tagJoin (tagJoin (vtag o a) (vtag o b)) (ptag o g) ∧ (l.join = true ↔ g ≠ 0) ∧
        ∀ j, j < 1024 → (preg o g).getLsbD j = true →
          elem v j = ((f (rmHand o) r (group n (vreg o a) j) (group n (vreg o b) j)).getD (j % n) (0, 0)).1)

/-- R212, R213: VCVT converts each active element to CFMT and packs the results from byte 0 upward, VDQ decodes and scales
each container and converts it to FP32, VQNT scales each block by the power of two that its largest active element gives,
converts, and appends the blocks' scales. -/
def Obligations.ConversionResults : Prop :=
  ∀ (s : State) (k : Tok) (d a g : BitVec 5) (h : Hand) (vals : List (Word × Tag)) (f : Fmt),
    let o := handOf s s.focus
    let x := fun j => elem (vreg o a) j
    let on := fun j => (preg o g).getLsbD j
    convFmt o = some f →
    (Issues s k (reqV [] false true 1) h vals →
      (∃ t l v, exec (.vcvt k d a g) s = .next t ∧ VectorIssued s t 1 4 l ∧ tileLands o l 8 d v (BitVec.allOnes 1024) ∧
        l.tag = tagJoin (vtag o a) (ptag o g) ∧ statOf l on (fun j => ((0 : BitVec 32), (convert (fval (x j)) f (rmHand o) o.satovf).2)) ∧
        ∀ j, j < 1024 → container f.cbits v j = (if on j then (convert (fval (x j)) f (rmHand o) o.satovf).1 % 2 ^ f.cbits else 0)) ∧
      ((o.bsz = 0 ∨ narrowCode o.cfmt = true) →
        ∃ t l v, exec (.vdq k d a g) s = .next t ∧ VectorIssued s t 1 4 l ∧ tileLands o l 8 d v (preg o g) ∧
        l.tag = tagJoin (vtag o a) (ptag o g) ∧
        ∀ j, j < 1024 → on j = true → elem v j = BitVec.ofNat 32 (convert (dequant o f (vreg o a) j) fp32 (rmHand o) o.satovf).1) ∧
      (o.bsz ≠ 0 → narrowCode o.cfmt = true →
        let sc := fun j => (blockScale o.cfmt f (blockActive o (preg o g) (vreg o a) j)).1
        ∃ t l v, exec (.vqnt k d a g) s = .next t ∧ VectorIssued s t 1 4 l ∧ tileLands o l 8 d v (BitVec.allOnes 1024) ∧
        l.tag = tagJoin (vtag o a) (ptag o g) ∧
        ∀ j, j < 1024 → container f.cbits v j =
            (if on j ∧ sc j ≠ 255 then (convert (scaleVal (fval (x j)) (127 - (sc j : Int))) f (rmHand o) true).1 % 2 ^ f.cbits else 0) ∧
          tileNat v / 2 ^ (1024 * f.cbits + 16 * (j / blockOf o)) % 2 ^ 16 = sc j))

/-- R132, R135, R217: a vector load whose elements lie in the hand's window, and whose read the range checker and the vector port let proceed,
lands the words of the buffer at its active elements with an empty tag after 8 virtual cycles; a vector store enters the
range checker with the elements it writes and their tags, and changes no bank at issue. -/
def Obligations.VectorBufferAccesses : Prop :=
  ∀ (i : Instr) (k : Tok) (d : BitVec 5) (u : Buf) (r g : BitVec 5) (strided : Bool) (s : State) (h : Hand) (vals : List (Word × Tag)),
    let n := s.focus
    let o := handOf s n
    let e := easelNo n
    let w := (windowOf o u).1
    let addr := elementAddr o (regGet o.c r) strided
    TileInWindow o u (regGet o.c r) strided →
    (vloadRule i = some (k, d, u, r, g, strided) → Issues s k (reqV [r] false false 1) h vals →
      portWait s n .c s.nextId (vectorPort u) [rangeOf o u (spanOf ((List.range 1024).map addr)).1 (spanOf ((List.range 1024).map addr)).2 false] = none →
      ∃ t l v, exec i s = .next t ∧ VectorLanded s t 1 0 l ∧ PortRead s t u ∧ tileLands o l 8 d v (preg o g) ∧ l.tag = Tag.empty ∧ (l.join = true ↔ g ≠ 0) ∧ l.stat = 0 ∧
        ∀ j, j < 1024 → elem v j = BitVec.ofNat 32 (natOfBytes (bufRead (easelOf s e) u (w + addr j) 4))) ∧
    (vstoreRule i = some (k, d, u, r, g, strided) → Issues s k (reqV [r] false false 0) h vals → u ≠ .wb → (easelOf s e).rc.length < 128 →
      ∃ t x cells, exec i s = .next t ∧ HandFrame s t ∧ (sqOf t n .c).pc = seqNext (sqOf s n .c) 1 ∧
        easelOf t e = { easelOf s e with rc := (easelOf s e).rc ++ [x] } ∧ OtherEasels s t ∧ OtherHands s t none ∧
        x.ticket = s.nextId ∧ x.hand = n ∧ x.sq = .c ∧ x.what = .vst cells ∧ x.tag = tagJoin (vtag o d) (tagJoin (tagGet o.c r) (ptag o g)) ∧
        (∀ c, c ∈ cells ↔ ∃ j, j < 1024 ∧ (preg o g).getLsbD j = true ∧ c = (w + addr j, elem (vreg o d) j)) ∧
        (∀ m, regGet (sqOf t n .c) m = regGet (sqOf s n .c) m))

/-- R196, R218, R219: VSHAPE and ALGSEL change their setting and answer the old one, PSEL answers 64 bits of a predicate,
VLAND counts the elements that two predicates share; the answer lands in a register of C after 2 virtual cycles. -/
def Obligations.VectorControlsComplete : Prop :=
  ∀ (s : State) (k : Tok) (d a b : BitVec 5) (h : Hand) (vals : List (Word × Tag)),
    let n := s.focus
    let o := handOf s n
    let v := (regGet o.c a).toNat
    let p := preg o (BitVec.ofNat 5 v)
    let p' := preg o (BitVec.ofNat 5 (regGet o.c b).toNat)
    let answers := fun (t : State) (x : Word) (tg : Tag) => (sqOf t n .c).pc = seqNext (sqOf s n .c) 1 ∧ t.mem = s.mem ∧
      t.easels = s.easels ∧ OtherHands s t none ∧ (∀ m, regGet (sqOf t n .c) m = regGet (sqOf s n .c) m) ∧
      (handOf t n).vregs = o.vregs ∧ (handOf t n).pregs = o.pregs ∧
      (d ≠ 0 → (handOf t n).landings = (o.landings ++ [({ rem := 2, what := .scalar d.toNat x, tag := tg, join := false, stat := 0 } : Landing)]).map Landing.aged)
    (Issues s k (reqCPw [.c] d [a]) h vals →
      (∃ t, exec (.vshape k d a) s = .next t ∧ answers t (shapeWord o) Tag.empty ∧
        (handOf t n).logc = BitVec.ofNat 4 (min 10 (v % 16)) ∧ (handOf t n).cfmt = BitVec.ofNat 24 (v / 2 ^ 8) ∧
        (handOf t n).bsz = BitVec.ofNat 2 (if v / 2 ^ 32 % 4 = 3 then 0 else v / 2 ^ 32) ∧ (handOf t n).algsel = o.algsel) ∧
      (∃ t, exec (.algsel k d a) s = .next t ∧ answers t (BitVec.ofNat 64 o.algsel.toNat) Tag.empty ∧
        (handOf t n).algsel = BitVec.ofNat 3 v ∧ shapeWord (handOf t n) = shapeWord o)) ∧
    (Issues s k (reqCPw [.c] d [a, b]) h vals →
      (∃ t, exec (.psel k d a b) s = .next t ∧
        answers t (BitVec.ofNat 64 (p.toNat / 2 ^ (64 * ((regGet o.c b).toNat % 16))))
          (tagJoin (tagJoin (tagGet o.c a) (tagGet o.c b)) (ptag o (BitVec.ofNat 5 v)))) ∧
      (∃ t, exec (.vland k d a b) s = .next t ∧
        answers t (BitVec.ofNat 64 ((List.range 1024).filter (fun j => p.getLsbD j && p'.getLsbD j)).length)
          (tagUnion [tagGet o.c a, tagGet o.c b, ptag o (BitVec.ofNat 5 v), ptag o (BitVec.ofNat 5 (regGet o.c b).toNat)])))

/-! ### Fresco micro-instructions -/

/-- R311, R320, R321: the register operations of a fresco program change what their rows say of the context and go on one
word further: memory, hands and every other context are unchanged. R311, R320: WLOOP opens a loop, WNEXT goes back to
its body while its count is above 1 and otherwise closes it, WWIN is a window point, which opens a window for the first
four accesses that wait at the bank and else goes on, WEND ends the job and releases its bank. What a loop keeps as its
start is the model's choice (log entry 15), and so is which accesses have places in a window (log entry 40). -/
def Obligations.MicroInstructionsOnRegisters : Prop :=
  (∀ (s : State) (m : BitVec 3) (hi : Bool) (imm : BitVec 16) (mode : BitVec 3) (step : BitVec 8),
    let cx := s.microCx
    let c := ctxOf s cx
    let v := (tget 0 c.m m.toNat).toNat
    (MicroRuns s 1 →
      (∃ t, exec (.wsetm m hi imm) s = .next t ∧ MicroFrame s t ∧ ctxOf t cx = { c.after 1 with m := (ctxOf t cx).m } ∧
        (∀ n, n ≠ m.toNat → tget 0 (ctxOf t cx).m n = tget 0 c.m n) ∧
        (hi = true → (tget 0 (ctxOf t cx).m m.toNat).toNat = imm.toNat * 2 ^ 16 + v % 2 ^ 16) ∧
        (hi = false → (tget 0 (ctxOf t cx).m m.toNat).toInt = imm.toInt)) ∧
      (∃ t, exec .wclose s = .next t ∧ MicroFrame s t ∧ ctxOf t cx = { c.after 1 with hold := false, asked := [], waited := [] }) ∧
      (∃ t, exec (.wscale m step) s = .next t ∧ MicroFrame s t ∧
        ctxOf t cx = { c.after 1 with m := (ctxOf t cx).m, scale := tget 0 c.sb (v % 1024) } ∧
        (∀ n, n ≠ m.toNat → tget 0 (ctxOf t cx).m n = tget 0 c.m n) ∧
        tget 0 (ctxOf t cx).m m.toNat = BitVec.ofInt 32 ((v : Int) + step.toInt))) ∧
    (MicroRuns s (if mode.getLsbD 2 then 4 else 1) →
      ∃ t, exec (.wmode mode) s = .next t ∧ MicroFrame s t ∧
        ctxOf t cx = { c.after (if mode.getLsbD 2 then 4 else 1) with w4 := mode.getLsbD 0, sat := mode.getLsbD 1, acc := (ctxOf t cx).acc } ∧
        (∀ i, tget 0 (ctxOf t cx).acc i = (if mode.getLsbD 2 then 0 else tget 0 c.acc i))) ∧
    (MicroRuns s (if c.w4 then 4 else 8) →
      ∃ t, exec (.wadd hi) s = .next t ∧ MicroFrame s t ∧ ctxOf t cx = { c.after (if c.w4 then 4 else 8) with acc := (ctxOf t cx).acc } ∧
        (∀ i, i < 1024 → (tget 0 (ctxOf t cx).acc i).toInt =
          (if c.sat then max (-2 ^ 31) (min (2 ^ 31 - 1) (laneSum c hi i)) else wrap32 (laneSum c hi i)))) ∧
    (MicroRuns s 16 →
      ∃ t, exec .wdeq s = .next t ∧ MicroFrame s t ∧ ctxOf t cx = { c.after 16 with outB := (ctxOf t cx).outB } ∧
        (∀ i, i < 1024 → tget 0 (ctxOf t cx).outB i = BitVec.ofNat 16 (laneOut c i)))) ∧
  (∀ (s : State) (m : BitVec 3), MicroRuns s 1 →
    let cx := s.microCx
    let c := ctxOf s cx
    let goes := c.abort = false ∧ c.spiller = 0
    (goes → ∃ t, exec (.wloop m) s = .next t ∧ MicroFrame s t ∧
      ctxOf t cx = { c.after 1 with loops := c.loops ++ [((c.mpc + 1) % 1024, (tget 0 c.m m.toNat).toNat % 2 ^ 16)] }) ∧
    (goes → ∀ l start n, c.loops = l ++ [(start, n)] →
      (1 < n → ∃ t, exec .wnext s = .next t ∧ MicroFrame s t ∧ ctxOf t cx = { c.after 1 with mpc := start, loops := l ++ [(start, n - 1)] }) ∧
      (n ≤ 1 → ∃ t, exec .wnext s = .next t ∧ MicroFrame s t ∧ ctxOf t cx = { c.after 1 with loops := l })) ∧
    (∃ t, exec .wwin s = .next t ∧ MicroFrame s t ∧ (ctxOf t cx).mpc = (c.mpc + 1) % 1024 ∧ (ctxOf t cx).since = 0 ∧ (ctxOf t cx).wcnt = 0 ∧
      (let u := modCtx (modCtx s cx (fun c => { c with since := c.since + 1 })) cx mnext
       let l := arrivals u cx
       (ctxOf t cx).state = (if l = [] then c.state else .window) ∧ (ctxOf t cx).waited = windowPlaces u l ∧ (ctxOf t cx).asked = l.drop 4)) ∧
    (∃ t, exec .wend s = .next t ∧ (ctxOf t cx).state = .idle ∧ (ctxOf t cx).hold = false ∧ t.mem = s.mem))

/-- R317, R318, R320: WOPEN takes a hold on a row of the job's pages, WREAD and WWRITE move one row of them and the cursor,
WSAVE and WREST one of the nine save rows; a row that is not the job's ends the job with STATUS 9. -/
def Obligations.MicroRowOperationsComplete : Prop :=
  ∀ (s : State) (m : BitVec 3) (b : BitVec 2) (sb : Bool) (i : BitVec 8) (src : BitVec 3),
    memWf s.mem = true →
    let cx := s.microCx
    let c := ctxOf s cx
    let row := (tget 0 c.m m.toNat).toNat % 2 ^ 17
    let pa := cursorPa s
    let ends := fun (t : State) => (ctxOf t cx).state = .idle ∧ (ctxOf t cx).hold = false ∧ t.mem = s.mem
    (MicroRuns s 1 →
      (onPages (c.wpages ++ c.opages) (rowPa cx b.toNat row) = true →
        ∃ t, exec (.wopen m b) s = .next t ∧ MicroFrame s t ∧
          ctxOf t cx = { c.after 1 with curBank := b.toNat, curRow := row, hold := true, wcnt := 0, since := 0, asked := [], waited := [] }) ∧
      (onPages (c.wpages ++ c.opages) (rowPa cx b.toNat row) = false → ∃ t, exec (.wopen m b) s = .next t ∧ ends t)) ∧
    (MicroRuns s 48 →
      (onPages (c.wpages ++ c.opages) pa = true →
        ∃ t, exec (.wread sb i) s = .next t ∧ t.mem = s.mem ∧ t.hands = s.hands ∧ OtherContexts s t ∧
          (ctxOf t cx).mpc = (c.mpc + 1) % 1024 ∧ (ctxOf t cx).curRow = movedRow c i ∧ (ctxOf t cx).acc = c.acc ∧
          (∀ n, n < 1024 → tget 0 (ctxOf t cx).pb n = (if sb then tget 0 c.pb n else memGet s.mem (pa + n))) ∧
          (∀ n, n < 1024 → tget 0 (ctxOf t cx).sb n = (if sb then memGet s.mem (pa + n) else tget 0 c.sb n))) ∧
      (onPages (c.wpages ++ c.opages) pa = false → ∃ t, exec (.wread sb i) s = .next t ∧ ends t) ∧
      (src.toNat < 6 → onPages c.opages pa = true →
        ∃ t, exec (.wwrite i src) s = .next t ∧ t.hands = s.hands ∧ OtherContexts s t ∧
          (ctxOf t cx).mpc = (c.mpc + 1) % 1024 ∧ (ctxOf t cx).curRow = movedRow c i ∧ (ctxOf t cx).acc = c.acc ∧ (ctxOf t cx).outB = c.outB ∧
          (∀ a, a < pa ∨ pa + 1024 ≤ a → memGet t.mem a = memGet s.mem a) ∧
          (∀ n, n < 1024 → memGet t.mem (pa + n) =
            (if src.toNat < 2 then outRow c (512 * src.toNat) else accRow c (256 * (src.toNat - 2))).getD n 0)) ∧
      (6 ≤ src.toNat ∨ onPages c.opages pa = false → ∃ t, exec (.wwrite i src) s = .next t ∧ ends t) ∧
      (c.phase ≤ 8 →
        ∃ t, exec .wsave s = .next t ∧ t.hands = s.hands ∧ OtherContexts s t ∧
          (∀ a, a < spillPa cx c.phase ∨ spillPa cx c.phase + 1024 ≤ a → memGet t.mem a = memGet s.mem a) ∧
          (ctxOf t cx).acc = c.acc ∧ (ctxOf t cx).m = c.m ∧
          (c.phase < 8 → (ctxOf t cx).phase = c.phase + 1 ∧ (ctxOf t cx).mpc = c.mpc) ∧
          (c.phase = 8 → (ctxOf t cx).phase = 0 ∧ (ctxOf t cx).mpc = (c.mpc + 1) % 1024)) ∧
      (c.phase = 0 → saveValid s cx = false → ∃ t, exec .wrest s = .next t ∧ ends t) ∧
      (c.phase < 8 → saveValid s cx = true →
        ∃ t, exec .wrest s = .next t ∧ t.mem = s.mem ∧ t.hands = s.hands ∧ OtherContexts s t ∧ (ctxOf t cx).phase = c.phase + 1 ∧
          (ctxOf t cx).mpc = c.mpc ∧
          (c.phase < 4 → ∀ n, n < 256 → tget 0 (ctxOf t cx).acc (256 * c.phase + n) = word32At (memRead s.mem (savePa cx 0 c.phase) 1024) n)))

/-! ### One step -/

/-- R75, R156: when no latch is due, a step runs the first action of the schedule: the instruction that the words at an issue
point decode to, the micro-instruction that a context's word decodes to, or one of the device's own atomic steps; with an
empty schedule it runs the instruction at the issue point in focus, once nothing that it waits for is due. Around it a step only lets one
nanosecond pass and the results land that are then due. That a schedule in State names the next action is the model's choice (log entry
2), and so is the nanosecond of a step (log entry 6). -/
def Obligations.StepRunsTheDecodedInstruction : Prop :=
  ∀ (s : State), latchDue s = false →
    (∀ g q r i, s.agenda = .issue g q :: r →
      let s' := { s with agenda := r, focus := g, focusSq := q }
      let z := sqOf s g q
      canIssue s g q = true → z.line.isSome = true → z.ranOff = false → (isLong (headWord z) = true → z.pc.slot + 1 ≤ linkCnt (linkOf z)) →
      decode (headWord z) (nextWord z) = .ok i → ∀ u, exec i s' = .next u → step s = .next (settled u)) ∧
    (∀ i, s.agenda = [] →
      let z := sqOf s s.focus s.focusSq
      (s.focusSq = .c → (∀ l ∈ (handOf s s.focus).landings, l.rem ≠ 0) ∧ ((handOf s s.focus).c.status = .halted → (handOf s s.focus).landings = [])) →
      (∀ l ∈ z.late, l.due ≠ none) → (∀ w ∈ z.walks, walkLive w = false) →
      canIssue s s.focus s.focusSq = true → z.line.isSome = true → z.ranOff = false →
      (isLong (headWord z) = true → z.pc.slot + 1 ≤ linkCnt (linkOf z)) →
      decode (headWord z) (nextWord z) = .ok i → ∀ u, exec i s = .next u → step s = .next (settled u)) ∧
    (∀ cx r i, s.agenda = .micro cx false :: r →
      let s' := { s with agenda := r, microCx := cx }
      let c := ctxOf s cx
      c.state = .running ∨ c.state = .draining → c.begun = true → c.drained = false →
      decodeMicro (tget 0 (chanOf s (cx / 4)).ibuf c.mpc) = .ok i → ∀ u, exec i s' = .next u → step s = .next (settled u)) ∧
    (∀ i r, s.agenda = .event i :: r → isEvent i = true → ∀ u, exec i { s with agenda := r } = .next u → step s = .next (settled u)) ∧
    (∀ u : State, settled u = lateDue { u with time := u.time + 1 } ∧
      ((∀ e ∈ u.hands, ∀ q, (seqOf e.2 q).late = []) → settled u = { u with time := u.time + 1 }))

/-- R37, R52, R54, R65, R196, R222, R224, R269, R330, R353, R363: what the machine holds after reset where the spec says so (RRPTR is
R54's). That the registers of a hand with no leaf read as zero and that no link processor holds firmware are the model's choices (log
entry 1); memory reads as zero everywhere and lists nothing (log entry 4). -/
def Obligations.ResetState : Prop :=
  memWf State.reset.mem = true ∧ (∀ a, memGet State.reset.mem a = 0) ∧
  State.reset.pkg.ready = 0 ∧ State.reset.pkg.phase = 0 ∧ State.reset.pkg.lper = 1000000 ∧
  (∀ g, (handOf State.reset g).bound = none ∧ (handOf State.reset g).sup = false ∧ (handOf State.reset g).logc = 5 ∧
    (handOf State.reset g).cfmt = 0x008000 ∧ (handOf State.reset g).bsz = 0 ∧ (handOf State.reset g).waitlim = 100000 ∧
    (handOf State.reset g).lbound = 4000 ∧ (handOf State.reset g).setBudget = 64 ∧ (∀ q, canIssue State.reset g q = false) ∧
    (∀ q n, regGet (sqOf State.reset g q) n = 0) ∧ pget (handOf State.reset g) 0 = BitVec.allOnes 1024) ∧
  (∀ p, swRlq (partOf State.reset p).sched = 409 ∧ swGap (partOf State.reset p).sched = 8 ∧ swAge (partOf State.reset p).sched = 1000 ∧
    (∀ l, tget 255 (partOf State.reset p).rrptr l = 255)) ∧
  (∀ n, (tget LinkProc.reset State.reset.links n).fw = none) ∧
  (∀ q, (queueOf State.reset q).desc = 0 ∧ (queueOf State.reset q).head = 0 ∧ (queueOf State.reset q).taild = 0)

/-- The canonical form of memory is kept by every step: addresses rise strictly and no entry lists what an unlisted address
reads as. It makes equal memories equal data; the form is the model's own (log entry 4). -/
def Obligations.EveryStepKeepsMemoryCanonical : Prop :=
  ∀ s t : State, memWf s.mem = true → step s = .next t → memWf t.mem = true

/-! ### The device's own steps at a sequencer -/

/-- R75, R158: a sequencer without a line fetches the line that its code pointer names from a code page, at its die cache
where the page is homed on another die: the line stands before it when its format passes, and the fetch-format trap is
taken with the first failing reason when it does not. No register, no memory and no code pointer changes when the line
is taken. A data line, or a line of another owner, fails with reason 3 (R98, R116); which reason comes first of a line
that fails several others is the model's choice (log entry 38). R80, R182, R200: the first due landing of C writes its
value, with its tag, to the register it names, where its mask is set, or pushes it; the other landings stay, and its
FSTAT bits stick. R129, R270, R334, R335: a running walk that no invalidation has overtaken reads its next table entry,
where the channel takes it, and goes on in the table below, or ends: it puts its page in both TLBs and keeps it, or
keeps its failure; a sequencer whose stall has reached the limit takes the stall time-out trap, cause 12, with its stall
reason and the record's number, which counts on; a machine check stays with the hand that it names until X takes it, the
first report before later ones; an erroneous register reads as zero. That it reads as zero from then on, until it is
written again, is the model's choice (log entry 38). -/
def Obligations.ArrivalsAndWalks : Prop :=
  (∀ (s : State) (g : Nat) (q : SeqId) (b : Bound) (p : Page),
    let z := sqOf s g q
    let va := b.codeBase + 64 * z.pc.line.toNat
    let ws := wordsOf (pointRead s (dieNo g) p.kind .code (physOf p va) 64).1
    canIssue s g q = true → z.line = none → z.ranOff = false → (handOf s g).bound = some b →
    0 ≤ z.pc.line → z.pc.line < b.codeLen → xlateAll s g q true false [.code] [{ va := va, len := 64 }] = .pages [p] →
    canReach s .unit (dieNo g) false p.kind .code (physOf p va) 64 = true →
    (linkOwn (ws.getD 0 0) < 5 → linkOwn (ws.getD 0 0) ≠ seqNo q → lineFault q (ws.getD 0 0) z.pc.slot = some 3) ∧
    (lineFault q (ws.getD 0 0) z.pc.slot = none →
      ∃ t, exec (.lineFetch g q false) s = .next t ∧ sqOf t g q = { z with line := some ws, stall := 0, since := none, walks := [] } ∧
        t.mem = s.mem ∧ (∀ q', q' ≠ q → sqOf t g q' = sqOf s g q') ∧ (∀ g', g' ≠ g → handOf t g' = handOf s g')) ∧
    (∀ r, lineFault q (ws.getD 0 0) z.pc.slot = some r →
      ∃ u, exec (.lineFetch g q false) s = .next (takeTrap (dropWalks u g q) g q 2 (fetchInfo r z.led)) ∧ u.hands = s.hands ∧ u.mem = s.mem)) ∧
  (∀ (s : State) (g : Nat) (l : Landing) (before after : List Landing),
    let h := handOf s g
    handLive s g = true → h.c.frozen = false → h.c.status ≠ .off → h.landings = before ++ l :: after →
    (∀ x ∈ before, x.rem ≠ 0) → l.rem = 0 → l.join = false →
    (∀ n v, l.what = .scalar n v → 0 < n → n < 32 →
      ∃ t, exec (.landing g) s = .next t ∧ (handOf t g).landings = before ++ after ∧ (handOf t g).fstat = h.fstat ||| l.stat ∧
        regGet (handOf t g).c (BitVec.ofNat 5 n) = v ∧ tagGet (handOf t g).c (BitVec.ofNat 5 n) = l.tag ∧
        (∀ m, m.toNat ≠ n → regGet (handOf t g).c m = regGet h.c m) ∧ (handOf t g).vregs = h.vregs ∧ (handOf t g).pregs = h.pregs ∧ t.mem = s.mem) ∧
    (∀ n v mask, l.what = .vec n v mask →
      ∃ t, exec (.landing g) s = .next t ∧ (handOf t g).landings = before ++ after ∧ (handOf t g).fstat = h.fstat ||| l.stat ∧
        (∀ i, i < 1024 → elem (vget (handOf t g) n) i = (if mask.getLsbD i then elem v i else elem (vget h n) i)) ∧
        tget Tag.empty (handOf t g).vtags n = l.tag ∧ (∀ m, m ≠ n → vget (handOf t g) m = vget h m) ∧
        (handOf t g).c = h.c ∧ (handOf t g).pregs = h.pregs ∧ t.mem = s.mem) ∧
    (∀ n v mask, l.what = .pred n v mask →
      ∃ t, exec (.landing g) s = .next t ∧ (handOf t g).landings = before ++ after ∧
        pget (handOf t g) 0 = BitVec.allOnes 1024 ∧ (n ≠ 0 → pget (handOf t g) n = (v &&& mask) ||| (pget h n &&& ~~~mask)) ∧
        (∀ m, m ≠ n → pget (handOf t g) m = pget h m) ∧ (handOf t g).vregs = h.vregs ∧ (handOf t g).c = h.c ∧ t.mem = s.mem) ∧
    (∀ n v, l.what = .chan n v → n < 12 → chanRoom s g n = true →
      ∃ t, exec (.landing g) s = .next t ∧ (handOf t g).landings = before ++ after ∧
        chanList (handOf t g) n = chanList h n ++ [{ val := some v, ticket := 0, terms := termsOf h g .c l.tag }] ∧ t.mem = s.mem)) ∧
  (∀ (s : State) (g : Nat) (q : SeqId) (w : Walk) (ix pfn source : Nat) (item : Option (Nat × SeqId × Nat)),
    ((sqOf s g q).walks[ix]? = some w → walkLive w = true → w.start.isSome = true →
      chanOpen s (.known w.order (w.level + 1)) (w.table + 8 * levelIndex (4096 * w.va) w.level) = true →
      (∀ tb, walkRead s w.part (4096 * w.va) w.level w.table = .table tb →
        ∃ t, exec (.walkComplete g ⟨q, ix⟩) s = .next t ∧ (sqOf t g q).walks[ix]? = some { w with level := w.level - 1, table := tb } ∧
          (handOf t g).tlb = (handOf s g).tlb ∧ t.dies = s.dies ∧ t.mem = s.mem) ∧
      (∀ p, walkRead s w.part (4096 * w.va) w.level w.table = .page p → walkOld s w (some p) = false →
        ∃ t, exec (.walkComplete g ⟨q, ix⟩) s = .next t ∧ (sqOf t g q).walks[ix]? = some { w with found := some p } ∧ (handOf t g).tlb.head? = some p ∧
          (dieOf t (dieNo g)).tlb.head? = some p ∧ t.mem = s.mem ∧ (∀ n, regGet (sqOf t g q) n = regGet (sqOf s g q) n)) ∧
      (∀ f, walkRead s w.part (4096 * w.va) w.level w.table = .fault f → walkOld s w none = false →
        ∃ t, exec (.walkComplete g ⟨q, ix⟩) s = .next t ∧ (sqOf t g q).walks[ix]? = some { w with failed := some f } ∧ (handOf t g).tlb = (handOf s g).tlb ∧
          t.dies = s.dies ∧ t.mem = s.mem)) ∧
    (timedOut s g = some q → (partOf s (handPart s g)).hang = none → (∀ e ∈ (sqOf s g q).ob, isBarrier e.op = false) →
      (∀ r ∈ tget [] s.groups (clusterNo g), r.hand ≠ g) →
      ∃ u, exec (.stallTimeOut g) s = .next (takeTrap (dropWalks u g q) g q 12
          (BitVec.ofNat 64 (2 ^ 32 * (partOf s (handPart s g)).hangSeq.toNat + 2 ^ 8 + (sqOf s g q).stall))) ∧
        (partOf u (handPart s g)).hangSeq = (partOf s (handPart s g)).hangSeq + 1 ∧ u.mem = s.mem ∧
        (∀ g' q', (sqOf u g' q').regs = (sqOf s g' q').regs ∧ (sqOf u g' q').pc = (sqOf s g' q').pc)) ∧
    ((handOf s g).bound.isSome = true →
      ∃ t, exec (.machineCheck g pfn ⟨source, item⟩) s = .next t ∧
        handOf t g = { (if source = 6 then zeroItem (handOf s g) item else handOf s g) with heldMc := some ((handOf s g).heldMc.getD (mcInfo pfn source)) } ∧
        t.outbox = .log 13 (mcInfo pfn source).toNat :: s.outbox ∧ t.mem = s.mem ∧ (∀ g', g' ≠ g → handOf t g' = handOf s g') ∧
        (∀ n, source = 6 → item = some (0, q, n) → regGet (sqOf t g q) (BitVec.ofNat 5 n) = 0)))

/-! ### Memory's own steps -/

/-- R157, R162, R169, R274: an entry of an ordering buffer that nothing holds back is performed at its channel arbiter. A
load's bytes reach its register and leave memory as it is, a store's bytes reach memory, a forwarded load takes the
bytes of the store that covers it, an AMO puts its new value in memory and the old one in its register. The entry leaves
the buffer; a forwarded load stays until its store is performed. R134, R135, R165, R266: a buffer access that the range
checker and its port let go reads or writes its buffer and leaves; the oldest fence whose earlier side is performed
releases its signals and leaves; a BWAIT whose time bound has come is answered with STATUS 3 and its WAITERS bit
cleared. -/
def Obligations.BuffersPerform : Prop :=
  (∀ (s : State) (g : Nat) (q : SeqId) (ix : Nat) (e : ObEntry) (p : Piece) (n : Nat),
    let ob := (sqOf s g q).ob
    ob[ix]? = some e → 0 < n → n < 32 → e.pieces = [p] → p.ptype = .normal → viaCache (dieNo g) p.kind p.ptype p.pa = false → chanOpen s (.known e.ticket 0) p.pa = true →
    p.done = false → p.fwd = none → p.off = 0 → p.len = e.width →
    (∀ sgn, e.op = .load sgn none (.reg n) → mayPerform s g q (ob.take ix) e p = true →
      ∃ t, exec (.orderingBufferPerform g q ix 0 .plain) s = .next t ∧ t.mem = s.mem ∧
        regGet (sqOf t g q) (BitVec.ofNat 5 n) = loadValue sgn (memRead s.mem p.pa e.width) ∧
        (∀ m, m.toNat ≠ n → regGet (sqOf t g q) m = regGet (sqOf s g q) m) ∧ (∀ x ∈ (sqOf t g q).ob, x.ticket ≠ e.ticket)) ∧
    (∀ sgn st, e.op = .load sgn none (.reg n) → fwdStore (ob.take ix) [p] = some st →
      mayPerformBehind s g q (ob.take ix) e p (fun x => forwardBehind s (handPart s g) st.ticket x e p) = true →
      ∃ t, exec (.orderingBufferPerform g q ix 0 .forwarded) s = .next t ∧ t.mem = s.mem ∧
        regGet (sqOf t g q) (BitVec.ofNat 5 n) = loadValue sgn ((List.range e.width).map (fun i => storedAt st (p.pa + i))) ∧
        ∃ x ∈ (sqOf t g q).ob, x.ticket = e.ticket ∧ x.pieces.map (·.fwd) = [some st.ticket]) ∧
    (e.op = .store none → mayPerform s g q (ob.take ix) e p = true →
      ∃ t, exec (.orderingBufferPerform g q ix 0 .plain) s = .next t ∧ t.mem = memWrite s.mem p.pa (e.data.take e.width) ∧
        (∀ m, regGet (sqOf t g q) m = regGet (sqOf s g q) m) ∧ (∀ x ∈ (sqOf t g q).ob, x.ticket ≠ e.ticket)) ∧
    (∀ op dbl b c, e.op = .amo op dbl .relaxed b c (.reg n) → mayPerform s g q (ob.take ix) e p = true →
      (∀ x ∈ (dieOf s (dieNo g)).cache, x.1 < p.pa - p.pa % 128 ∨ p.pa - p.pa % 128 + 128 ≤ x.1) →
      let w := if dbl then 8 else 4
      ∃ t, exec (.orderingBufferPerform g q ix 0 .plain) s = .next t ∧
        t.mem = memWrite s.mem p.pa (bytesOfNat w (amoNew op (8 * w) (memNat s.mem p.pa w) b.toNat c.toNat)) ∧
        regGet (sqOf t g q) (BitVec.ofNat 5 n) = BitVec.ofNat 64 (memNat s.mem p.pa w) ∧ (∀ x ∈ (sqOf t g q).ob, x.ticket ≠ e.ticket))) ∧
  (∀ (s : State) (g : Nat) (q : SeqId) (e ix : Nat),
    (∀ r rg, (easelOf s e).rc[ix]? = some r → r.ranges = [rg] → rcReady s e r = true → portTurn s e (vectorPort rg.buf) = some (r.hand % 4) →
      (∀ a w n, r.what = .ldb a w (.reg n) → 0 < n → n < 32 →
        ∃ t, exec (.bufferAccessPerform e ix) s = .next t ∧ regGet (sqOf t r.hand r.sq) (BitVec.ofNat 5 n) = BitVec.ofNat 64 (natOfBytes (bufRead (easelOf s e) rg.buf a w)) ∧
          (∀ u, bufMem (easelOf t e) u = bufMem (easelOf s e) u) ∧ (∀ x ∈ (easelOf t e).rc, x.ticket ≠ r.ticket) ∧ t.mem = s.mem) ∧
      (∀ a bs, r.what = .stb a bs →
        ∃ t, exec (.bufferAccessPerform e ix) s = .next t ∧ (∀ u, bufMem (easelOf t e) u = (if u = rg.buf then memWrite (bufMem (easelOf s e) u) a bs else bufMem (easelOf s e) u)) ∧
          (∀ x ∈ (easelOf t e).rc, x.ticket ≠ r.ticket) ∧ t.mem = s.mem ∧ t.hands = s.hands) ∧
      (∀ cells, r.what = .vst cells →
        ∃ t, exec (.bufferAccessPerform e ix) s = .next t ∧ bufMem (easelOf t e) rg.buf = cells.foldl (fun m c => memWrite m c.1 (bytesOfNat 4 c.2.toNat)) (bufMem (easelOf s e) rg.buf) ∧
          (∀ u, u ≠ rg.buf → bufMem (easelOf t e) u = bufMem (easelOf s e) u) ∧ (∀ x ∈ (easelOf t e).rc, x.ticket ≠ r.ticket) ∧ t.mem = s.mem ∧ t.hands = s.hands)) ∧
    (∀ f, (sqOf s g q).ob.find? (fun x => isFence x.op && !fenceHolds s g q (sqOf s g q).ob x true true false &&
        !(fenceEng x.op && (cmdTickets s g q).any (fun t => decide (t < x.ticket)))) = some f →
      ∃ t, exec (.fenceTokenRelease g q) s = .next t ∧ (sqOf t g q).ob = (sqOf s g q).ob.filter (fun x => x.ticket != f.ticket) ∧ t.mem = s.mem ∧
        (∀ n, regGet (sqOf t g q) n = regGet (sqOf s g q) n) ∧
        ((sqOf s g q).held = [{ fwd := true, fence := some f.ticket }] → (sqOf t g q).fwdQ = (sqOf s g q).fwdQ + 1 ∧ (sqOf t g q).backQ = (sqOf s g q).backQ ∧ (sqOf t g q).held = []) ∧
        ((sqOf s g q).held = [{ fwd := false, fence := some f.ticket }] → (sqOf t g q).backQ = (sqOf s g q).backQ + 1 ∧ (sqOf t g q).fwdQ = (sqOf s g q).fwdQ ∧ (sqOf t g q).held = [])) ∧
    (∀ d r l b k x tm n at_, [0, 1, 2, 3].flatMap (fun d => ((dieOf s d).regs.filter (fun r => r.ticket == ix)).map (fun r => (d, r))) = (d, r) :: l →
      r.bound = some tm → tm ≤ s.time.toNat → (sqOf s r.hand r.sq).ob.find? (fun y => y.ticket == r.ticket) = some x → x.op = .barrier 2 b true k (.reg n) → 0 < n → n < 32 →
      (sqOf s r.hand r.sq).awaits = some (at_, true) →
      ∃ t, exec (.bwaitTimeBoundExpiry ix) s = .next t ∧ t.mem = (clearWaiter s r).mem ∧
        regGet (sqOf t r.hand r.sq) (BitVec.ofNat 5 n) = boReply 3 (boRead (clearWaiter s r) r.pa).1 ∧ (sqOf t r.hand r.sq).pc = seqNext (sqOf s r.hand r.sq) 1 ∧ (sqOf t r.hand r.sq).awaits = none ∧
        (∀ y ∈ (dieOf t d).regs, y.ticket ≠ r.ticket) ∧ (∀ y ∈ (sqOf t r.hand r.sq).ob, y.ticket ≠ r.ticket)))

/-- R130, R159: a line written back leaves every byte of it clean, what its die reads there as it was, and memory outside it
unchanged; a discard drops the line's clean bytes alone. An invalidation drops the range from every TLB, and completes, which
the controller's log shows, once nothing of the range is in flight and no older walk is outstanding. -/
def Obligations.CacheAndInvalidationSteps : Prop :=
  ∀ (s : State) (die pa p va len ix : Nat),
    memWf s.mem = true →
    let b := pa - pa % 128
    (dirtyIn s die b 128 ≠ [] → chanOpen s .unit pa = true →
      ∃ t, exec (.dieCacheWriteBack die pa) s = .next t ∧ dirtyIn t die b 128 = [] ∧ (∀ a, cacheByte t die a = cacheByte s die a) ∧
        (∀ a, a < b ∨ b + 128 ≤ a → memGet t.mem a = memGet s.mem a) ∧
        (∀ g q, (sqOf t g q).regs = (sqOf s g q).regs ∧ (sqOf t g q).pc = (sqOf s g q).pc ∧ (sqOf t g q).ob = (sqOf s g q).ob) ∧
        (∀ a c, (dieOf s die).cache.filter (fun e => e.1 == a) = [(a, c)] → c.dirty = true → b ≤ a → a < b + 128 → memGet t.mem a = c.val)) ∧
    (∃ t, exec (.dieCacheDiscard die pa) s = .next t ∧ t.mem = s.mem ∧ t.hands = s.hands ∧
      ∀ e, e ∈ (dieOf t die).cache ↔ (e ∈ (dieOf s die).cache ∧ (e.2.dirty = true ∨ e.1 < b ∨ b + 128 ≤ e.1))) ∧
    (mcUp s = true → ∃ t, exec (.invalidation p va len) s = .next t ∧ t.mem = s.mem ∧ t.invals = (s.nextId, p, va, len, s.time.toNat) :: s.invals ∧
      (∀ g, ∀ x ∈ (handOf t g).tlb, pageMeets x p va len = false) ∧ (∀ d, ∀ x ∈ (dieOf t d).tlb, pageMeets x p va len = false)) ∧
    (∀ tm, s.invals.find? (fun e => e.1 == ix) = some (ix, p, va, len, tm) → inFlight s p va len = 0 → oldWalk s p tm = false →
      ∃ t, exec (.invalidationComplete ix) s = .next t ∧ t.mem = s.mem ∧ t.outbox = .log 1 ix :: s.outbox ∧ (∀ e ∈ t.invals, e.1 ≠ ix) ∧
        (∀ g, ∀ x ∈ (handOf t g).tlb, pageMeets x p va len = false) ∧ (∀ d, ∀ x ∈ (dieOf t d).tlb, pageMeets x p va len = false))

/-! ### Engines -/

/-- R139, R148, R156, R166, R169, R253: the copy engine makes the next access of a command that nothing holds back and whose
copy port grants its hand. A copy-in puts what it reads of normal pages into the buffer, run by run, and no memory
changes; a bad source granule leaves zeros and STATUS 1; a copy-out writes its pages run by run, or combines one element
with memory by its operation, and no buffer changes; the command counts the whole access. A glaze word that ticks still
owe advances is advanced first. BYTES counts half-bytes and rounds up once, which is the model's choice (log entry 38).
R27, R141, R152, R153: a copy whose accesses are made and whose release may be performed leaves its engine, and its
token takes STATUS and BYTES; a copy node's copy enters the queue of the die that homes its destination, with the node's
fields, or ends the node with STATUS 7; a command of queue 4 that is malformed has STATUS 2 and makes no access, and a
checked one that is done has its completion word written. -/
def Obligations.CopyStepsComplete : Prop :=
  (∀ (s : State) (eng ix : Nat) (c : CopyCmd),
    let rs := accessRuns c
    let u := if c.started then s else copyStart s eng c
    (easelOf s eng).copyQ[ix]? = some c → copyEnabled s (.known c.ticket 0) eng c = true →
    (∀ x, (stepGlaze c).find? (fun x => (owing s c.part x.1 x.2.1).isSome) = some x →
      exec (.copyEngineAccess eng ix false) s = .next (glazeWait s (.known c.ticket 0) c.part x.1 x.2.1 x.2.2)) ∧
    ((∀ x ∈ stepGlaze c, owing s c.part x.1 x.2.1 = none) →
    (∀ bad, c.kind = .inn → (∀ p ∈ c.pages, p.ptype = .normal) →
      ∃ t, exec (.copyEngineAccess eng ix bad) s = .next t ∧ t.mem = s.mem ∧ (∀ b, b ≠ c.buf → bufMem (easelOf t eng) b = bufMem (easelOf s eng) b) ∧
        (∀ y ∈ (easelOf t eng).copyQ, y.ticket = c.ticket → y.started = true ∧ y.pos = c.pos + (rs.map (·.n)).sum)) ∧
    (c.kind = .out →
      ∃ t, exec (.copyEngineAccess eng ix false) s = .next t ∧ (∀ b, bufMem (easelOf t eng) b = bufMem (easelOf s eng) b) ∧
        (∀ y ∈ (easelOf t eng).copyQ, y.ticket = c.ticket → y.started = true ∧ y.pos = c.pos + (rs.map (·.n)).sum)) ∧
    (∀ bad, rs ≠ [] → c.kind = .inn → (∀ r ∈ rs, r.inside = true ∧ ∃ p, pageAt c.pages c.part (r.src / 2) = some p ∧ p.ptype = .normal) →
      let v := fun (r : Run) => if bad then 0 else takeNibbles (spanRead u (engineDie eng) c.part c.pages (r.src / 2) (byteSpan r.src r.n)).1 r.src r.n
      let h := fun (r : Run) => 2 * copyWindow c + r.buf
      ∃ t, exec (.copyEngineAccess eng ix bad) s = .next t ∧ t.mem = s.mem ∧
        bufMem (easelOf t eng) c.buf = rs.foldl (fun m r => memWrite m (h r / 2) (putNibbles (memRead m (h r / 2) (byteSpan (h r) r.n)) (h r) r.n (v r)))
          (bufMem (easelOf s eng) c.buf) ∧
        (∀ b, b ≠ c.buf → bufMem (easelOf t eng) b = bufMem (easelOf s eng) b) ∧
        (∀ y ∈ (easelOf t eng).copyQ, y.ticket = c.ticket →
          y = { c with started := true, pos := c.pos + (rs.map (·.n)).sum, bytes := c.bytes + (rs.map (·.n)).sum, status := if bad then 1 else c.status, held := [], tag := y.tag })) ∧
    (c.kind = .out → c.outOp = .copy →
      (∀ r ∈ rs, r.inside = true ∧ r.dst % 2 = 0 ∧ r.n % 2 = 0 ∧ ∃ p, pageAt c.pages c.part (r.dst / 2) = some p ∧ p.ptype = .normal) →
      let h := fun (r : Run) => 2 * copyWindow c + r.buf
      let v := fun (r : Run) => takeNibbles (bufRead (easelOf s eng) c.buf (h r / 2) (byteSpan (h r) r.n)) (h r) r.n
      ∃ t, exec (.copyEngineAccess eng ix false) s = .next t ∧
        t.mem = (rs.foldl (fun z r => spanWrite z (engineDie eng) c.part c.pages (r.dst / 2) (bytesOfNat (r.n / 2) (v r))) u).mem ∧
        (∀ b, bufMem (easelOf t eng) b = bufMem (easelOf s eng) b) ∧
        (∀ y ∈ (easelOf t eng).copyQ, y.ticket = c.ticket →
          y = { c with started := true, pos := c.pos + (rs.map (·.n)).sum, bytes := c.bytes + (rs.map (·.n)).sum, held := [] })) ∧
    (∀ r p, rs = [r] → r.inside = true → c.kind = .out → c.outOp ≠ .copy → p.ptype = .normal → memWf s.mem = true →
      (∀ i, i < r.n / 2 → pageAt c.pages c.part (r.dst / 2 + i) = some p) → r.n = 2 * (c.comps * (c.cbits / 8)) → 0 < r.n →
      (∀ x ∈ (dieOf s (engineDie eng)).cache, x.2.dirty = false) →
      let h := 2 * copyWindow c + r.buf
      let w := c.cbits / 8
      let v := takeNibbles (bufRead (easelOf s eng) c.buf (h / 2) (byteSpan h r.n)) h r.n
      let pa := physOf p (r.dst / 2)
      ∃ t, exec (.copyEngineAccess eng ix false) s = .next t ∧
        (∀ a, a < pa ∨ pa + r.n / 2 ≤ a → memGet t.mem a = memGet s.mem a) ∧
        (∀ i, i < c.comps → memRead t.mem (pa + w * i) w = bytesOfNat w (outCombine c.outOp ((fmtOf c.fmt).getD fp32)
          (natOfBytes (memRead s.mem (pa + w * i) w)) (v / 2 ^ (c.cbits * i) % 2 ^ c.cbits))) ∧
        (∀ b, bufMem (easelOf t eng) b = bufMem (easelOf s eng) b)))) ∧
  (∀ (s : State) (eng ix : Nat) (c : CopyCmd),
    let z := copyOfWords c
    ((easelOf s eng).copyQ[ix]? = some c → accessesDone s c = true → releaseReady s eng c = true →
      (∀ n, c.kind = .inn ∨ c.kind = .out ∨ c.kind = .drain → c.token = some n → 0 < n → n < 32 → leafBound s c.hand c.leaf = true →
        ∃ t, exec (.copyCompletion eng ix) s = .next t ∧ t.mem = s.mem ∧ (∀ y ∈ (easelOf t eng).copyQ, y.ticket ≠ c.ticket) ∧
          regGet (sqOf t c.hand c.sq) (BitVec.ofNat 5 n) = BitVec.ofNat 64 (2 ^ 56 * c.status + (c.bytes + 1) / 2 % 2 ^ 40) ∧
          (∀ m, m.toNat ≠ n → regGet (sqOf t c.hand c.sq) m = regGet (sqOf s c.hand c.sq) m)) ∧
      (∀ ln tk L x, c.kind = .node ln tk → c.status = 0 → launchOf s ln = some L → L.tasks[tk]? = some x →
        ∃ t L', exec (.copyCompletion eng ix) s = .next t ∧ launchOf t ln = some L' ∧ L'.tasks[tk]? = some { x with retired := [0], status := 0, detail := 0, detail1 := 0 } ∧
          t.mem = s.mem ∧ ∀ y ∈ (easelOf t eng).copyQ, y.ticket ≠ c.ticket)) ∧
    (∀ ln tk L x p, launchOf s ln = some L → L.tasks[tk]? = some x → x.state = .running → x.placed = 0 → fld (L.nodes.getD x.node 0) 3 0 = 1 →
      let nd := L.nodes.getD x.node 0
      let cp := nodeCopy s L.part ln tk nd
      walk s L.part cp.dst = .ok p →
      let d := homeDie (physOf p cp.dst)
      unitsOpen s (unitTables s L.part cp.dst) = true → globalOpen s d cp (fld nd 127 64) (originOf (fld nd 315 256)) = true →
      let checked := globalCheck (nodeTaken (copyStart (walkTouched s L.part cp.dst) (512 + d) cp) ln tk d) d cp (fld nd 127 64) (originOf (fld nd 315 256))
      (∀ cp' u, checked = (u, .ok cp') →
        ∃ t, exec (.globalCopy ln tk) s = .next t ∧ (easelOf t (512 + d)).copyQ = (easelOf s (512 + d)).copyQ ++ [cp'] ∧ t.mem = s.mem) ∧
      (∀ cause info u, checked = (u, .error (cause, info)) →
        ∃ t L' x', exec (.globalCopy ln tk) s = .next t ∧ launchOf t ln = some L' ∧ L'.tasks[tk]? = some x' ∧ x'.status = 7 ∧ x'.detail = cause ∧
          x'.detail1 = info ∧ x'.retired = [0] ∧ t.easels = s.easels ∧ t.mem = s.mem)) ∧
    ((easelOf s eng).copyQ[ix]? = some c → c.kind = .command → copyReady s z = true → stopsCmd s c.hand c.sq c.leaf c.ticket = false → (c.words.getD 5 0).toNat % 8 = 0 →
      ∀ p, unitPages s c.part false false true [.normal] [{ va := (c.words.getD 5 0).toNat, len := 8 }] = .ok [p] →
      globalMalformed (fun i => c.words.getD i 0) = true → unitsOpen s (unitTables s c.part (c.words.getD 5 0).toNat) = true →
      ∃ t, exec (.globalCopyCommand eng ix) s = .next t ∧ t.mem = s.mem ∧
        (∀ y ∈ (easelOf t eng).copyQ, y.ticket = c.ticket → y = { z with kind := .global, done := some (physOf p (c.words.getD 5 0).toNat, p), started := true, status := 2, reason := 0 })) ∧
    (∀ pa p, (easelOf s eng).copyQ[ix]? = some c → c.kind = .global → c.done = some (pa, p) → accessesDone s c = true → releaseReady s eng c = true →
      chanOpen s .unit pa = true →
      ∃ t, exec (.globalCopyCommand eng ix) s = .next t ∧ t.hands = s.hands ∧ (∀ y ∈ (easelOf t eng).copyQ, y.ticket ≠ c.ticket) ∧
        t.mem = memWrite s.mem pa (bytesOfNat 8 (BitVec.ofNat 64 (2 ^ 56 * c.status + 2 ^ 48 * c.reason + (c.bytes + 1) / 2 % 2 ^ 40)).toNat)))

/-- R192, R226, R230: the integer product of an MMA of signed bytes over the reals. Element (m, n) is the start value plus the
sum over k of A(m,k)·B(k,n), wrapped to 32 bits at every step, or saturated at every step where the palette entry says so,
whatever TA, TB and the conjugation bits are. -/
def Obligations.IntegerProductsAreExact : Prop :=
  ∀ (s : State) (e : Nat) (c : MuralCmd) (m n : Nat),
    c.group = none → c.alg = realsRecord → palClass c.pal = some .narrowInt → palA c.pal = [some (.int true 7 0)] → palB c.pal = [some (.int true 7 0)] →
    c.start = 0 → m < c.m → n < c.n →
    let x := fun k => tileInt (easelOf s e) .ab c.winA c.a c.ta m k * tileInt (easelOf s e) .wb c.winB c.b c.tb k n
    let start : Int := if c.acc then (BitVec.ofNat 32 (natOfBytes (bufRead (easelOf s e) .cb (c.winC + c.c.toNat % 2 ^ 32 + m * (c.c.toNat / 2 ^ 32) + 4 * n) 4))).toInt else 0
    (bit c.pal 122 = false → (sliceElement s e c m n 0).toInt = wrap32 (start + ((List.range c.k).map x).sum)) ∧
    (bit c.pal 122 = true → (sliceElement s e c m n 0).toInt = (List.range c.k).foldl (fun acc k => max (-2 ^ 31) (min (2 ^ 31 - 1) (acc + x k))) start)

/-- R220 to R225, R233, R234: the mural array's own steps. The holder's oldest command starts and costs one of its budget; one
that does not continue the open chain has it spilled first. A command that completes writes CB, or leaves its chain open;
a spill writes CB and closes the chain. The lease passes on as its bounds say, and goes to a group when the easel is free or
its reserving holder has nothing left to do. -/
def Obligations.MuralStepsComplete : Prop :=
  ∀ (s : State) (e h cl : Nat),
    let m := muralOf s e
    (∀ c l, m.running = none → m.spill = none → m.lease = .held → queuedOf m m.holder = c :: l → c.group = none → m.queue.find? (fun x => x.ticket == c.ticket) = some c →
      (m.chain = none → (handOf s c.hand).chainMark = none →
        ∃ t, exec (.muralCommandStart e) s = .next t ∧ (muralOf t e).running = some { c with start := 0 } ∧ (muralOf t e).budget = m.budget - 1 ∧
          (muralOf t e).queue = m.queue.filter (fun x => x.ticket != c.ticket) ∧ t.mem = s.mem ∧ (easelOf t e).cb = (easelOf s e).cb) ∧
      (∀ x, m.chain = some x → continues c x = true →
        ∃ t, exec (.muralCommandStart e) s = .next t ∧ (muralOf t e).running = some { c with start := 1 } ∧ (muralOf t e).chain = some x ∧ (easelOf t e).cb = (easelOf s e).cb) ∧
      (∀ x, m.chain = some x → continues c x = false →
        ∃ t, exec (.muralCommandStart e) s = .next t ∧ (muralOf t e).running = none ∧ (muralOf t e).spill = some s.nextId ∧ (easelOf t e).rc.length = (easelOf s e).rc.length + 1)) ∧
    (∀ c, m.running = some c → c.group = none → sliceFree s c e = true →
      let win := c.winC
      (c.chain = false →
        ∃ t, exec (.muralCommandComplete e) s = .next t ∧ (muralOf t e).running = none ∧ (muralOf t e).chain = none ∧ (∀ x ∈ (easelOf t e).rc, x.ticket ≠ c.ticket) ∧
          (easelOf t e).cb = (easelOf (writeTile s e win (tileC c.c c.m c.n c.d) c.d (outBytes c.pal) (outPat c.pal) (sliceAccs s e c)) e).cb ∧ t.mem = s.mem) ∧
      (c.chain = true →
        ∃ t x, exec (.muralCommandComplete e) s = .next t ∧ (muralOf t e).running = none ∧ (muralOf t e).chain = some x ∧ x.accs = sliceAccs s e c ∧ x.base = win ∧
          x.c = c.c ∧ (easelOf t e).cb = (easelOf s e).cb ∧ t.mem = s.mem)) ∧
    (∀ tk c, m.spill = some tk → m.chain = some c → m.running = none →
      rcBlocked (rcBefore (easelOf s e).rc tk) ((((easelOf s e).rc.find? (fun r => r.ticket == tk)).map (·.ranges)).getD []) = false →
      ∃ t, exec (.spillComplete e) s = .next t ∧ (muralOf t e).spill = none ∧ (muralOf t e).chain = none ∧ t.mem = s.mem ∧
        (easelOf t e).cb = (easelOf (writeTile s e c.base (tileC c.c c.m c.n c.d) c.d 4 (fun v => v.toNat) c.accs) e).cb ∧
        (m.lease = .spilling → (handOf t (4 * e + m.holder)).chainMark = some { c with accs := [] })) ∧
    (∀ since, m.waits.find? (fun w => w.1 == h) = some (h, since) → since + (handOf s (4 * e + h)).lbound.toNat ≤ s.time.toNat → m.expired.contains h = false →
      h < 4 → asks s e h = true → m.lease = .held → m.holder ≠ h → m.running.isSome = true →
      ∃ t, exec (.lboundExpiry e h) s = .next t ∧ h ∈ (muralOf t e).expired ∧ (muralOf t e).holder = m.holder ∧ t.mem = s.mem) ∧
    (m.lease = .held → m.running = none → m.spill = none → queuedOf m m.holder = [] → othersAsk s e = true →
      m.idle + 256 ≤ dieCycles s (e / 32) →
      (∀ c, m.chain = some c → ∃ t, exec (.leaseIdleExpiry e) s = .next t ∧ (muralOf t e).lease = .spilling ∧ (muralOf t e).spill = some s.nextId ∧ t.mem = s.mem) ∧
      (m.chain = none → exec (.leaseIdleExpiry e) s = .next (noteWaits (grantFree (noteWaits (modMural s e (fun m => { m with lease := .free, mfree := false })) e) e) e))) ∧
    (∀ r, reservationAt s e = some r → e / 16 = cl → m.running = none → m.spill = none →
      (m.lease = .free → arbitrate s e = some (r.hand % 4, true) →
        ∃ t, exec (.groupReservation cl e) s = .next t ∧ (muralOf t e).lease = .group ∧ (muralOf t e).group = r.id ∧ t.mem = s.mem ∧ ∀ y, y ≠ e → easelOf t y = easelOf s y) ∧
      (m.lease = .held → 4 * e + m.holder = r.hand → queuedOf m m.holder = [] → m.chain = none →
        ∃ t, exec (.groupReservation cl e) s = .next t ∧ (muralOf t e).lease = .group ∧ (muralOf t e).group = r.id ∧ (muralOf t e).back = some (m.holder, m.budget) ∧ t.mem = s.mem))

/-- R156, R244, R246, R252, R253, R260, R268: the glaze engine's and the synchronisation engine's own steps. A tick takes its place
at a channel, advances the channel's words one by one with the tick numbers they complete, and adds its count to TICK when the
last word is done; an export or an import places its hold at each channel and then moves its image part by part, each part read in one
step and written in another, the descriptor
first, and its end lifts the holds; a command of queue 2 or 3 is carried out and
answered on ch10 or ch11. That the parts are of 64 and then 32 bytes is the model's choice (log entry 12), and so is STATUS 4 for an image
with a zero field that is not zero (log entry 38). -/
def Obligations.GlazeAndSyncStepsComplete : Prop :=
  (∀ (d : BitVec 512) (n : Nat) (w : FWord), (tickWord d n w).1.xacc = 0 ∧ (tickWord d n w).1.count = 0 ∧
    (rgG32 d = true → (tickWord d n w).1.tick = n % 2 ^ 32) ∧
    (tickWord d n w).1.y = (roundState d (sumVal (mulVal (rgB0 d) (fp32.value w.xacc)).1 (stateVal d w.s1 w.r1))).tap) ∧
  ∀ (s : State) (ch ix e : Nat),
    (∀ j, s.glazeJobs[ix]? = some j → j.op = 0 → j.chans.contains ch = true → jobBehind s j = false →
      let r := regionOf (partOf s j.part) j.region
      ∃ t, exec (.tickPresent ch ix) s = .next t ∧ t.mem = s.mem ∧
        (chanOf t ch).ticks = (chanOf s ch).ticks ++ [{ ticket := j.ticket, part := j.part, region := j.region, tick0 := rgTick r.desc, n := j.n, words := wordsIn r ch j.n }] ∧
        (∀ y ∈ t.glazeJobs, y.ticket = j.ticket → ch ∉ y.chans)) ∧
    (∀ k rest pa left ws, (chanOf s ch).ticks = k :: rest → k.words = (pa, left) :: ws → chanOpen s (.known k.ticket 0) pa = true →
      (∀ x ∈ rest, x.ticket ≠ k.ticket) → (∀ x ∈ ws, x.1 ≠ pa) →
      let u := onWord s k.part k.region pa (fun d => tickWord d (k.tick0 + (k.n - left) + 1))
      (1 < left ∨ ws ≠ [] →
        ∃ t, exec (.wordAdvance ch) s = .next t ∧ t.mem = u.mem ∧ t.hands = s.hands ∧
          (chanOf t ch).ticks = { k with words := if left ≤ 1 then ws else (pa, left - 1) :: ws } :: rest) ∧
      (∀ j, left ≤ 1 → ws = [] → s.glazeJobs.find? (fun j => j.ticket == k.ticket) = some j → j.chans = [] → j.part = k.part → j.region = k.region →
        (∀ c ∈ s.channels, c.1 ≠ ch → ∀ x ∈ c.2.ticks, x.ticket ≠ k.ticket) →
        ∃ t, exec (.wordAdvance ch) s = .next t ∧ t.mem = u.mem ∧ (chanOf t ch).ticks = rest ∧ (∀ y ∈ t.glazeJobs, y.ticket ≠ k.ticket) ∧
          rgTick (regionOf (partOf t k.part) k.region).desc = (rgTick (regionOf (partOf s k.part) k.region).desc + j.n) % 2 ^ 32)) ∧
    (∀ j, s.glazeJobs[ix]? = some j → j.op ≠ 0 → j.chans.contains ch = true → jobBehind s j = false →
      ∃ t, exec (.tickPresent ch ix) s = .next t ∧ t.mem = s.mem ∧ (∀ y ∈ t.glazeJobs, y.ticket = j.ticket → ch ∈ y.holds ∧ ch ∉ y.chans)) ∧
    (∀ j, s.glazeJobs[ix]? = some j → j.op ≠ 0 → j.chans = [] → jobBehind s j = false → jobOpen s (.known j.ticket 0) j = true →
      let g := regionOf (partOf s j.part) j.region
      let n := if j.pos = 0 then 64 else 32
      let word := partAt (regionParts g) (j.pos - 64)
      let bs := memRead s.mem (imageAt j j.pos) n
      let becomes := fun (t : State) (j' : GlazeJob) => ∀ y ∈ t.glazeJobs, y.ticket = j.ticket → y = j'
      let gone := fun (t : State) => ∀ y ∈ t.glazeJobs, y.ticket ≠ j.ticket
      (j.op = 3 → 0 < j.pos → j.held = [] → ∃ t, exec (.glazeHold ix false) s = .next t ∧ t.mem = s.mem ∧ regionOf (partOf t j.part) j.region = g ∧
        becomes t { j with held := (List.range (32 / rgWord g.desc)).flatMap (fun i => wordSeen g.desc s.mem (word + rgWord g.desc * i)) }) ∧
      (j.op = 3 → (j.pos = 0 ∨ j.held ≠ []) → ∃ t, exec (.glazeHold ix false) s = .next t ∧
        t.mem = memWrite s.mem (imageAt j j.pos) (if j.pos = 0 then bytesOfNat 64 g.desc.toNat else j.held) ∧
        regionOf (partOf t j.part) j.region = g ∧ (j.pos + n < imageLen g.desc → becomes t { j with pos := j.pos + n, held := [] }) ∧
        (imageLen g.desc ≤ j.pos + n → gone t)) ∧
      (j.op = 4 → j.held = [] →
        ∃ t, exec (.glazeHold ix false) s = .next t ∧ t.mem = s.mem ∧ regionOf (partOf t j.part) j.region = g ∧
          (j.pos = 0 → importBad g.desc (BitVec.ofNat 512 (natOfBytes bs)) = false → becomes t { j with pos := 64, desc := BitVec.ofNat 512 (natOfBytes bs) }) ∧
          (j.pos = 0 → importBad g.desc (BitVec.ofNat 512 (natOfBytes bs)) = true → gone t) ∧
          (0 < j.pos → becomes t { j with held := bs })) ∧
      (j.op = 4 → 0 < j.pos → j.held ≠ [] →
        ∃ t, exec (.glazeHold ix false) s = .next t ∧ t.mem = (importGranule s (importDesc g.desc j.desc) word j.held).mem ∧
          (j.pos + n < imageLen g.desc → becomes t { j with pos := j.pos + n, held := [] } ∧ (regionOf (partOf t j.part) j.region).desc = g.desc) ∧
          (imageLen g.desc ≤ j.pos + n → gone t ∧ (regionOf (partOf t j.part) j.region).desc = importDesc g.desc j.desc))) ∧
    (∀ c, (easelOf s e).glazeQ[ix]? = some c → cmdReady s c.hand c.sq c.ticket c.tag = true → stopsCmd s c.hand c.sq c.leaf c.ticket = false → glazeMalformed (fun i => c.words.getD i 0) = false →
      let w := fun i => c.words.getD i 0
      let r := fld (w 0) 15 8
      let g := regionOf (partOf s c.part) r
      (fld (w 0) 7 0 = 3 → AnswerRoom s c.hand c.leaf 10 1 →
        ∃ t, exec (.glazeControlCommand e ix) s = .next t ∧ t.mem = s.mem ∧ (∀ y ∈ (easelOf t e).glazeQ, y.ticket ≠ c.ticket) ∧
          Answered s t c.hand 10 [BitVec.ofNat 64 (2 ^ 48 * 3 + 2 ^ 32 * ((w 2).toNat % 2 ^ 16) + fld (regionStatus s c.part r) 31 0)]) ∧
      (fld (w 0) 7 0 = 0 → cfgStallsRegion s c.part r = false → rgValid g.desc = true → rgPerTick g.desc = true → 0 < fld (w 1) 15 0 →
        ∃ t, exec (.glazeControlCommand e ix) s = .next t ∧ t.mem = s.mem ∧ (∀ y ∈ (easelOf t e).glazeQ, y.ticket ≠ c.ticket) ∧
          ∃ j, t.glazeJobs = s.glazeJobs ++ [j] ∧ j.op = 0 ∧ j.n = fld (w 1) 15 0 ∧ j.part = c.part ∧ j.region = r ∧ j.ticket = c.ticket ∧ j.chans = channelsOf g)) ∧
    (∀ c, (easelOf s e).syncQ[ix]? = some c → cmdReady s c.hand c.sq c.ticket c.tag = true → stopsCmd s c.hand c.sq c.leaf c.ticket = false → syncMalformed c = false → fld (c.words.getD 0 0) 7 0 = 0 →
      let w := fun i => c.words.getD i 0
      let op := fld (w 0) 14 11
      let len := if bit (w 0) 10 then 8 else 4
      let va := (w 1).toNat
      va % len = 0 → unitOpen s c.part va len = true → ∀ p old u, unitPages s c.part false true true [.normal, .sync] [{ va := va, len := len }] = .ok [p] →
      amoStep (walkTouched s c.part va) .unit (e / 32) p.ptype op len (physOf p va) (w 2).toNat (w 3).toNat = some (old, u) → AnswerRoom s c.hand c.leaf 11 2 →
      ∃ t, exec (.syncCommand e ix false) s = .next t ∧ t.mem = u.mem ∧ (∀ y ∈ (easelOf t e).syncQ, y.ticket ≠ c.ticket) ∧
        Answered s t c.hand 11 [BitVec.ofNat 64 (2 ^ 32 * fld (w 0) 31 16), BitVec.ofNat 64 old])

/-! ### Collectives -/

/-- R278, R283 to R288, R292, R294, R296, R297, R300: the collective engine's steps. A counter or scoreboard takes what is written or
added, and a trigger whose condition then holds fires once, at once or, during a pause, at the resume; a send has its source read
granule by granule, its message goes to the peer, and its counter is updated when the peer has it; a part of a message on a context of
its partition has its bytes performed and with the last its update applied, or is kept for its exchange by the link processor of its
port, and one of which a part has failed is logged and updates nothing; a running exchange sends its messages, reads its own part,
writes its shard and ends, and one that a peer fails leaves memory as it was; a malformed mesh descriptor or an unsigned image changes
nothing; CXLAY reads its record and then takes a handle or names its fault. That a part of an exchange is kept until the run ends, that
a run places its shard only once every message is in, and so that a failed one has written nothing, are the model's choices (log entry
16, by which R297 leaves partial data open), as is what of a message is a part (log entry 40). -/
def Obligations.CollectiveStepsComplete : Prop :=
  ∀ (s : State) (p e ix : Nat) (v : Word),
    let x := partOf s p
    (mcUp s = true →
      (x.triggers = [] →
        (∃ t, exec (.counterSupervisorWrite p false ix v) s = .next t ∧ partOf t p = { x with counters := tput x.counters (ix % 1024) v } ∧ t.mem = s.mem ∧ t.hands = s.hands) ∧
        (∃ t, exec (.counterSupervisorWrite p true ix v) s = .next t ∧ partOf t p = { x with boards := tput x.boards (ix % 256) v } ∧ t.mem = s.mem ∧ t.hands = s.hands)) ∧
      (∀ k tr, x.triggers = [(k, tr)] → trCond tr.record = 0 → trCidx tr.record = ix % 1024 → (trThresh tr.record).toNat ≤ v.toNat →
        (collPaused s p = false → trAct tr.record = 2 → trEvt tr.record = false →
          ∃ t, exec (.counterSupervisorWrite p false ix v) s = .next t ∧ (partOf t p).triggers = [] ∧ t.mem = s.mem ∧
            partOf t p = targetPut { x with counters := tput x.counters (ix % 1024) v, triggers := [] } (trArg tr.record) (trInc tr.record)) ∧
        (collPaused s p = true → ∃ t, exec (.counterSupervisorWrite p false ix v) s = .next t ∧ (partOf t p).triggers = [] ∧ (partOf t p).deferred = x.deferred ++ [(k, tr)])) ∧
      (∃ t, exec (.collectivePause p) s = .next t ∧ partOf t p = { x with paused := true } ∧ t.mem = s.mem ∧ t.hands = s.hands) ∧
      (x.paused = true → s.pkg.phase = 0 ∨ 4 < s.pkg.phase →
        ∃ t, exec (.collectiveResume p) s = .next t ∧ (partOf t p).paused = false ∧ (partOf t p).deferred = [] ∧ t.mem = s.mem) ∧
      (x.paused = true → 1 ≤ s.pkg.phase → s.pkg.phase ≤ 4 →
        ∃ t, exec (.collectiveResume p) s = .next t ∧ partOf t p = { x with paused := false } ∧ collPaused t p = true ∧ t.mem = s.mem) ∧
      (∀ w peers, (fld w 63 62 = 0 ∧ (∀ a, a < 4 → meshAxes w ≤ a → meshSize w a = 1) ∧ meshCount w ≤ 4096 ∧ meshRank w < meshCount w →
          ∃ t, exec (.meshDescriptorWrite p w peers) s = .next t ∧ partOf t p = { x with mesh := w, peers := peers } ∧ t.mem = s.mem) ∧
        (4096 < meshCount w ∨ meshCount w ≤ meshRank w → exec (.meshDescriptorWrite p w peers) s = .next { s with outbox := .refused 7 :: s.outbox })) ∧
      (∀ lp image sig, lp < 16 →
        (s.pkg.firmware = true → bit s.pkg.ready (35 + lp) = true →
          ∃ t, exec (.firmwareImageLoad lp image sig) s = .next t ∧ t.pkg.log = s.pkg.log ++ [(2 + lp, Config.sm3 image)] ∧ t.mem = s.mem ∧
            (keyed s (Config.sm3 image) sig = true → (tget LinkProc.reset t.links lp).fw = some (Config.sm3 image)) ∧
            (keyed s (Config.sm3 image) sig = false → t.links = s.links ∧ t.outbox = .refused 8 :: s.outbox)) ∧
        (s.pkg.firmware = false ∨ bit s.pkg.ready (35 + lp) = false →
          exec (.firmwareImageLoad lp image sig) s = .next { s with outbox := .refused 8 :: s.outbox }))) ∧
    (∀ m d, m.part = p → x.exists_ = true → ctxGet s m.ctx = some d → d.part = p → d.rod = false → linkUp s d.port = true →
      let link := portLink d.port
      let begun := (d.begun.find? (fun b => b.1 == m.id)).map (·.2)
      (begun = none → collPaused s p = true → exec (.collectiveMessage m) s = .next s) ∧
      (begun = some true → ∃ t, exec (.collectiveMessage m) s = .next t ∧ t.mem = s.mem ∧ t.parts = s.parts ∧ t.links = s.links) ∧
      (begun ≠ some true → (begun = none → collPaused s p = false) →
        (∀ h y, m.handle = some h → handleOf s p h = some y → exchangesWith x.mesh y.record m.rank = true →
          (m.bad = none → ∃ t, exec (.collectiveMessage m) s = .next t ∧ t.mem = s.mem ∧
            handleOf t p h = some { y with inbox := y.inbox ++ [{ rank := m.rank, va := m.va, bytes := m.bytes, combine := m.combine, last := m.last }] } ∧
            tget 0 (tget LinkProc.reset t.links link).seq (65536 * p + m.rank) = tget 0 (tget LinkProc.reset s.links link).seq (65536 * p + m.rank) + 1) ∧
          (m.bad.isSome = true → ∃ t, exec (.collectiveMessage m) s = .next t ∧ t.mem = s.mem ∧ t.parts = s.parts ∧ t.outbox = .log 9 m.rank :: s.outbox)) ∧
        (∀ u, m.handle = none → messageStore s m = (some true, u) → x.triggers = [] → m.upd = true → m.last = true → m.sb = false →
          ∃ t, exec (.collectiveMessage m) s = .next t ∧ t.mem = u.mem ∧ tget 0 (partOf t p).counters (m.ix % 1024) = tget 0 x.counters (m.ix % 1024) + m.inc) ∧
        (∀ u, m.handle = none → messageStore s m = (some true, u) → m.last = false → ∃ t, exec (.collectiveMessage m) s = .next t ∧ t.mem = u.mem ∧ partOf t p = x) ∧
        (∀ u, m.handle = none → messageStore s m = (some false, u) →
          ∃ t, exec (.collectiveMessage m) s = .next t ∧ t.mem = u.mem ∧ partOf t p = x ∧ t.outbox = .log 9 m.rank :: u.outbox))) ∧
    (∀ y, s.parts.findSome? (fun e => (e.2.sends.find? (fun x => x.ticket == ix)).map (fun x => (e.1, x))) = some (p, y) →
      let range := [(fld y.record 63 0, sdBytes y.record)]
      (y.sent = false → y.data ≠ [] ∨ (collPaused s p = false ∧ y.after = none) → anyLink s = true →
        (∀ va n q, nextGranule range y.data.length = some (va, n) → unitPages s p false true false [.normal] [{ va := va, len := n }] = .ok [q] →
          unitsOpen s (unitTables s p va) = true → unitsOpen s (unitTables s p va ++ [physOf q va]) = true →
          ∃ t, exec (.sendComplete ix (.access false)) s = .next t ∧ t.mem = s.mem ∧ t.outbox = s.outbox ∧
            (partOf t p).sends = x.sends.map (fun z => if z.ticket = ix then { z with data := z.data ++ memRead s.mem (physOf q va) n } else z)) ∧
        (nextGranule range y.data.length = none →
          ∃ t, exec (.sendComplete ix (.access false)) s = .next t ∧ t.mem = s.mem ∧
            (partOf t p).sends = x.sends.map (fun z => if z.ticket = ix then { z with sent := true } else z) ∧
            t.outbox = .send p (sdPeer y.record) (peerOf s p (sdPeer y.record)) (fld y.record 127 64) y.data y.record :: s.outbox)) ∧
      (y.sent = true → bit y.record 432 = false →
        (x.triggers = [] → ∃ t, exec (.sendComplete ix (.peer 0)) s = .next t ∧ t.mem = s.mem ∧ (∀ z ∈ (partOf t p).sends, z.ticket ≠ ix) ∧
          (sdLcv y.record = true → tget 0 (partOf t p).counters (fld y.record 265 256) = tget 0 x.counters (fld y.record 265 256) + y.record.extractLsb' 320 64)) ∧
        (∀ st, st = 3 ∨ st = 9 → ∃ t, exec (.sendComplete ix (.peer st)) s = .next t ∧ t.mem = s.mem ∧ (∀ z ∈ (partOf t p).sends, z.ticket ≠ ix) ∧
          (partOf t p).counters = x.counters ∧ (partOf t p).boards = x.boards))) ∧
    (∀ hd h, handleOf s p hd = some h → h.running = true →
      let n := h.record
      let w := x.mesh
      let own := (sharedRows w n h.base).map (fun r => (r.1, r.2.2))
      (s.pkg.phase = 0 ∨ s.pkg.phase = 1 ∨ s.pkg.phase = 5 → collPaused s p = false ∨ h.msg ≠ [] ∨ h.out ≠ none →
        (∀ a r rest, h.sends = (a, r) :: rest → (trafficAxes w n).head? = some a → anyLink s = true → stepReady w h a = true →
          (nextGranule (portionRows w n h.base a r) h.msg.length = none →
            ∃ t, exec (.exchangeComplete p hd (.access false)) s = .next t ∧ t.mem = s.mem ∧ handleOf t p hd = some { h with sends := rest, msg := [] } ∧
              t.outbox = .exchange p hd a (wirePattern w n) r (peerOf s p r) (some h.msg) :: s.outbox) ∧
          (∀ va k q, nextGranule (portionRows w n h.base a r) h.msg.length = some (va, k) →
            unitPages s p false true false [.normal] [{ va := va, len := k }] = .ok [q] →
            unitsOpen s (unitTables s p va) = true → unitsOpen s (unitTables s p va ++ [physOf q va]) = true →
            ∃ t, exec (.exchangeComplete p hd (.access false)) s = .next t ∧ t.mem = s.mem ∧
              handleOf t p hd = some { h with msg := h.msg ++ memRead s.mem (physOf q va) k })) ∧
        (h.sends = [] → h.out = none → ∀ va k q, nextGranule own h.own.length = some (va, k) →
          unitPages s p false true false [.normal] [{ va := va, len := k }] = .ok [q] →
          unitsOpen s (unitTables s p va) = true → unitsOpen s (unitTables s p va ++ [physOf q va]) = true →
          ∃ t, exec (.exchangeComplete p hd (.access false)) s = .next t ∧ t.mem = s.mem ∧
            handleOf t p hd = some { h with own := h.own ++ memRead s.mem (physOf q va) k }) ∧
        (h.sends = [] → h.out = none → nextGranule own h.own.length = none → (trafficAxes w n).all (axisIn w h) = true → (exShard w h).all (·.isSome) = true →
          ∃ t h', exec (.exchangeComplete p hd (.access false)) s = .next t ∧ t.mem = s.mem ∧ handleOf t p hd = some h' ∧
            h'.out.map (fun l => l.flatMap (·.2)) = some ((exShard w h).map (·.getD 0)) ∧ (h'.newHist.isSome = true ↔ (stepsOf n).any reduces = true)) ∧
        (∀ va bs rest q, h.sends = [] → h.out = some ((va, bs) :: rest) → unitPages s p false false true [.normal] [{ va := va, len := bs.length }] = .ok [q] →
          unitsOpen s (unitTables s p va) = true → unitsOpen s (unitTables s p va ++ [physOf q va]) = true →
          ∃ t, exec (.exchangeComplete p hd (.access false)) s = .next t ∧ t.mem = memWrite s.mem (physOf q va) bs ∧ handleOf t p hd = some { h with out := some rest })) ∧
      (h.node = none → h.doneCnt = none → h.evt = false →
        let ended := fun (hist : Option (List (BitVec 32))) =>
          some { h with running := false, slots := [], inbox := [], sends := [], msg := [], own := [], out := none, newHist := none, hist := hist }
        (s.pkg.phase = 0 ∨ s.pkg.phase = 1 ∨ s.pkg.phase = 5 → h.sends = [] → h.out = some [] →
          ∃ t, exec (.exchangeComplete p hd (.access false)) s = .next t ∧ t.mem = s.mem ∧ handleOf t p hd = ended (if h.newHist.isSome then h.newHist else h.hist)) ∧
        (∀ st, st = 3 ∨ st = 9 → ∃ t, exec (.exchangeComplete p hd (.peer st)) s = .next t ∧ t.mem = s.mem ∧ handleOf t p hd = ended h.hist))) ∧
    (∀ rank, ∃ t, exec (.peerUnreachable p rank) s = .next t ∧ t.mem = s.mem ∧ (∀ y ∈ (partOf t p).sends, sdPeer y.record ≠ rank) ∧
      (∀ hd h, handleOf t p hd = some h → h.running = true → exchangesWith x.mesh h.record rank = false)) ∧
    (∀ c n, (easelOf s e).collQ[ix]? = some c → cmdReady s c.hand c.sq c.ticket c.tag = true → stopsCmd s c.hand c.sq c.leaf c.ticket = false →
      (∀ y ∈ (easelOf s e).collQ.take ix, y.hand = c.hand → y.sq ≠ c.sq) →
      c.dst = .reg n → 0 < n → n < 32 → leafBound s c.hand c.leaf = true → c.part = p →
      let a := c.words.getD 0 0
      let b := c.words.getD 1 0
      let reply := fun (t : State) => regGet (sqOf t c.hand c.sq) (BitVec.ofNat 5 n)
      let gone := fun (t : State) => ∀ y ∈ (easelOf t e).collQ, y.ticket ≠ c.ticket
      (c.fn = some 0x25 → targetBad a true = false → bit a 15 = false → earlierDone s c.hand c.sq c.leaf c.ticket = true → x.triggers = [] →
        ∃ t, exec (.collectiveCommand e ix none) s = .next t ∧ gone t ∧ t.mem = s.mem ∧ tget 0 (partOf t p).counters (fld a 9 0) = tget 0 x.counters (fld a 9 0) + b ∧
          reply t = BitVec.ofNat 64 ((tget 0 x.counters (fld a 9 0)).toNat % 2 ^ 56)) ∧
      (c.fn = some 0x24 → targetBad a false = false →
        ∃ t, exec (.collectiveCommand e ix none) s = .next t ∧ gone t ∧ t.mem = s.mem ∧ t.parts = s.parts ∧
          reply t = BitVec.ofNat 64 ((if bit a 15 then tget 0 x.boards (fld a 7 0) else tget 0 x.counters (fld a 9 0)).toNat % 2 ^ 56)) ∧
      (c.fn = some 0x23 → fld a 63 9 = 0 →
        ∃ t, exec (.collectiveCommand e ix none) s = .next t ∧ gone t ∧ t.mem = s.mem ∧ (partOf t p).triggers = tdel x.triggers (fld a 8 0) ∧
          fld (reply t) 63 56 = (if x.triggers.any (fun y => y.1 == fld a 8 0) then 0 else 1)) ∧
      (c.fn = some 0x20 → c.phase = 0 → ∀ q rest, c.pages = q :: rest → chanOpen s .unit (physOf q a.toNat) = true →
        ∃ t, exec (.collectiveCommand e ix none) s = .next t ∧ t.mem = s.mem ∧ t.parts = s.parts ∧
          (∀ y ∈ (easelOf t e).collQ, y.ticket = c.ticket → y = { c with extra := memRead s.mem (physOf q a.toNat) 64, phase := 1 })) ∧
      (c.fn = some 0x20 → c.phase = 1 → plannerUp s = true →
        let n' := heldRecord c
        unitsOpen s (pairTables s p n' b.toNat) = true →
        (∀ d, pairFault s p n' b.toNat = some d → ∃ t, exec (.collectiveCommand e ix none) s = .next t ∧ gone t ∧ t.mem = s.mem ∧ t.parts = s.parts ∧
          reply t = BitVec.ofNat 64 (at' 8 56 + d % 2 ^ 56)) ∧
        (pairFault s p n' b.toNat = none → ∀ h, freeHandle s p = some h →
          ∃ t, exec (.collectiveCommand e ix none) s = .next t ∧ gone t ∧ t.mem = s.mem ∧ handleOf t p h = some (newHandle n' b.toNat none) ∧
            reply t = BitVec.ofNat 64 h) ∧
        (pairFault s p n' b.toNat = none → freeHandle s p = none →
          ∃ t, exec (.collectiveCommand e ix none) s = .next t ∧ gone t ∧ t.mem = s.mem ∧ t.parts = s.parts ∧ reply t = BitVec.ofNat 64 (at' 4 56))))

/-! ### Fresco jobs -/

/-- R311, R312, R316, R318, R324, R325, R337: the fresco unit's steps besides its program. A job whose orderings are met starts and its
FRGO is answered, unless its leaf is being pre-empted; an open window closes, and returns the context to its program, once no access that
it is open for waits any more, and not before; a drained context is written to its nine
save rows, one a step, and a restore reads them back; FRST answers with the context's state and FRSPL turns down an idle context. -/
def Obligations.FrescoStepsComplete : Prop :=
  ∀ (s : State) (cx e ix : Nat), memWf s.mem = true →
    let c := ctxOf s cx
    (∀ d l n, frWaiting s (phStart cx) = (e, d) :: l → startReleased s d = true → d.fn.isSome = true → d.dst = .reg n → 0 < n → n < 32 → leafBound s d.hand d.leaf = true →
      (stopsCmd s d.hand d.sq d.leaf d.ticket = false →
        ∃ t, exec (.jobStart cx) s = .next t ∧ ctxOf t cx = { c with begun := true } ∧ t.mem = s.mem ∧ (∀ y ∈ (easelOf t e).frescoQ, y.ticket ≠ d.ticket) ∧
          regGet (sqOf t d.hand d.sq) (BitVec.ofNat 5 n) = BitVec.ofNat 64 (cx % 2 ^ 56)) ∧
      (stopsCmd s d.hand d.sq d.leaf d.ticket = true → exec (.jobStart cx) s = .next s)) ∧
    (c.hold = true → c.state = .window →
      (windowOwes s cx = false →
        ∃ t, exec (.window (cx / 4) (cx % 4)) s = .next t ∧ t.mem = s.mem ∧ t.hands = s.hands ∧ t.easels = s.easels ∧ (∀ y, y ≠ cx → ctxOf t y = ctxOf s y) ∧
          ctxOf t cx = { c with waited := [], state := if c.spiller = 0 then .running else .draining }) ∧
      ((∃ x ∈ waiters s cx, x ∈ c.waited) → exec (.window (cx / 4) (cx % 4)) s = .next s)) ∧
    (c.state = .draining → c.drained = true → (chanOf s (cx / 4)).power = .active →
      (c.phase = 0 → ∃ t, exec (.frescoSpill cx) s = .next t ∧ t.mem = s.mem ∧ ctxOf t cx = { c with phase := 1, asked := [], waited := [] } ∧ holds (ctxOf t cx) = false) ∧
      (∀ k, c.phase = k + 1 → k < 9 → ∃ t, exec (.frescoSpill cx) s = .next t ∧
        (∀ a, (a < spillPa cx k ∨ spillPa cx k + 1024 ≤ a) → memGet t.mem a = memGet s.mem a) ∧
        (k < 4 → ∀ i, i < 256 → word32At (memRead t.mem (spillPa cx k) 1024) i = tget 0 c.acc (256 * k + i)) ∧
        (k < 8 → ctxOf t cx = { c with phase := k + 2 }) ∧
        (k = 8 → ctxOf t cx = { c with state := .spilled, drained := false, hold := false, phase := 0 } ∧ saveValid t cx = true))) ∧
    (c.state = .restoring → (chanOf s (cx / 4)).power = .active →
      (c.phase < 8 → ∃ t, exec (.frescoRestore cx) s = .next t ∧ t.mem = s.mem ∧ (ctxOf t cx).state = .restoring ∧ (ctxOf t cx).phase = c.phase + 1 ∧
        (c.phase < 4 → ∀ i, i < 256 → tget 0 (ctxOf t cx).acc (256 * c.phase + i) = word32At (memRead s.mem (spillPa cx c.phase) 1024) i)) ∧
      (c.phase = 8 → stopsLeaf s c.hand c.leaf = false → ∃ t, exec (.frescoRestore cx) s = .next t ∧ t.mem = s.mem ∧ (ctxOf t cx).state = .running ∧
        (ctxOf t cx).spiller = 0 ∧ (ctxOf t cx).phase = 0 ∧ (ctxOf t cx).hand = c.hand ∧ (ctxOf t cx).acc = c.acc ∧
        (ctxOf t cx).mpc = natOfBytes (((memRead s.mem (spillPa cx 8) 1024).drop 32).take 2) % 1024)) ∧
    (∀ d n, (easelOf s e).frescoQ[ix]? = some d → d.phase = 0 → cmdReady s d.hand d.sq d.ticket d.tag = true → stopsCmd s d.hand d.sq d.leaf d.ticket = false →
      d.dst = .reg n → 0 < n → n < 32 →
      leafBound s d.hand d.leaf = true → d.words.getD 0 0 = BitVec.ofNat 64 cx → cx < 1536 → (chanOf s (cx / 4)).owner = some d.part →
      (d.fn = some 0x11 →
        ∃ t, exec (.frescoCommand e ix) s = .next t ∧ t.mem = s.mem ∧ ctxOf t cx = c ∧ (∀ y ∈ (easelOf t e).frescoQ, y.ticket ≠ d.ticket) ∧
          regGet (sqOf t d.hand d.sq) (BitVec.ofNat 5 n) = BitVec.ofNat 64 ((2 ^ 53 * ctxStateNo c.state + 2 ^ 51 * c.spiller + 2 ^ 32 * c.cookie.toNat +
            2 ^ 27 * c.loops.length + 2 ^ 10 * c.mpc + c.hand) % 2 ^ 56)) ∧
      (d.fn = some 0x12 → c.state = .idle →
        ∃ t, exec (.frescoCommand e ix) s = .next t ∧ t.mem = s.mem ∧ ctxOf t cx = c ∧ fld (regGet (sqOf t d.hand d.sq) (BitVec.ofNat 5 n)) 63 56 = 4))

/-! ### The host and the supervisor -/

/-- R36 to R41, R172: what the host sends. Bytes of a write on one page reach memory and the last of them counts in WDONE, a read,
behind the writes of its ROD context, answers with memory
as it stands, and a failed translation is answered with an error; UE atomics are refused; a context is established within the
rules and closed; a tail of the right form is held until the writes before it are done, and then moves TAILD, counts as stale, or
halts the queue on an overrun. That a message with another tag is dropped and counted like a malformed tail is the model's choice (log entry
39), as is that a message comes in parts (log entry 32). -/
def Obligations.HostMessagesComplete : Prop :=
  ∀ (s : State) (ctx va : Nat) (c : Delivery),
    (∀ part port mode rccc secure, ctxGet s ctx = none →
      ((mode = .rudi ∨ rccc = true ∨ secure = false ∨ portUp s port = false ∨ (partOf s part).exists_ = false) →
        exec (.deliveryContextEstablishment ctx ⟨part, port⟩ mode rccc secure) s = .next { s with outbox := .refused 1 :: s.outbox }) ∧
      (mode ≠ .rudi → rccc = false → secure = true → portUp s port = true → (partOf s part).exists_ = true →
        ∃ t, exec (.deliveryContextEstablishment ctx ⟨part, port⟩ mode rccc secure) s = .next t ∧ t.mem = s.mem ∧ t.queues = s.queues ∧
          ctxGet t ctx = some { part := part, port := port, rod := mode == .rod, wdone := 0, open_ := false, tails := [], begun := [] } ∧ ∀ x, x ≠ ctx → ctxGet t x = ctxGet s x)) ∧
    (ctxGet s ctx = some c →
      (∀ bad, (∀ tl ∈ c.tails, ringOpen s (fld tl 7 0) = true) → ∃ t, exec (.deliveryContextClose ⟨ctx, bad⟩) s = .next t ∧ ctxGet t ctx = none ∧
        (c.tails = [] → t = { s with ctxs := s.ctxs.filter (fun e => e.1 != ctx) })) ∧
      (portUp s c.port = false → exec (.ueAtomicRequest ctx) s = .next s) ∧
      (portUp s c.port = true →
        exec (.ueAtomicRequest ctx) s = .next { s with outbox := .atomicError ctx :: s.outbox } ∧
        (∀ bs p last, bs ≠ [] → unitsOpen s (rangeTables s c.part va bs.length) = true → unitPages s c.part false false true dataTypes (splitRange va bs.length) = .ok [p] → rangeOpen s va bs.length [p] = true →
          ∃ t, exec (.hostRmaWrite ctx va ⟨bs, last⟩) s = .next t ∧ t.mem = memWrite s.mem (physOf p va) bs ∧ t.hands = s.hands ∧
            ctxGet t ctx = some { c with open_ := !last, wdone := if last then c.wdone + 1 else c.wdone }) ∧
        (∀ bs f last, unitsOpen s (rangeTables s c.part va bs.length) = true → unitPages s c.part false false true dataTypes (splitRange va bs.length) = .error f →
          ∃ t, exec (.hostRmaWrite ctx va ⟨bs, last⟩) s = .next t ∧ t.outbox = .rmaError ctx :: s.outbox ∧ ctxGet t ctx = some { c with open_ := false } ∧
            t.mem = s.mem ∧ t.hands = s.hands) ∧
        (∀ n p, 0 < n → (c.rod = false ∨ c.open_ = false) → unitsOpen s (rangeTables s c.part va n) = true → unitPages s c.part false true false dataTypes (splitRange va n) = .ok [p] → rangeOpen s va n [p] = true →
          ∃ t, exec (.hostRmaRead ctx va n) s = .next t ∧ t.outbox = .rmaRead ctx (memRead s.mem (physOf p va) n) :: s.outbox ∧
            t.mem = s.mem ∧ t.ctxs = s.ctxs ∧ t.hands = s.hands) ∧
        (∀ (tag : Word) (payload : BitVec 128), let d := (queueOf s (fld payload 7 0)).desc
          (tag = 0x5441494C → fld payload 63 8 = 0 → c.rod = true → qEn d = true → qPart d = c.part →
            ∃ t, exec (.tailMessage ctx tag payload) s = .next t ∧ ctxGet t ctx = some { c with tails := c.tails ++ [payload] } ∧ t.mem = s.mem ∧ t.queues = s.queues) ∧
          (tag ≠ 0x5441494C ∨ fld payload 63 8 ≠ 0 ∨ c.rod = false ∨ qEn d = false ∨ qPart d ≠ c.part →
            ∃ t, exec (.tailMessage ctx tag payload) s = .next t ∧ t.ctxs = s.ctxs ∧ t.mem = s.mem ∧ t.queues = s.queues ∧
              tget 0 t.pkg.errs ctx = tget 0 s.pkg.errs ctx + 1))) ∧
      (∀ tl r bad, c.tails = tl :: r → ringOpen s (fld tl 7 0) = true → (c.wdone - tl.extractLsb' 96 32).toNat < 2 ^ 31 →
        let q := fld tl 7 0
        let x := queueOf s q
        let v := tl.extractLsb' 64 32
        ∃ t, exec (.tailPresent ⟨ctx, bad⟩) s = .next t ∧ ctxGet t ctx = some { c with tails := r } ∧
          (qHalted x.desc = true → queueOf t q = { x with drops := x.drops + 1 } ∧ t.mem = s.mem) ∧
          (qHalted x.desc = false → 2 ^ qLogN x.desc < (v - x.head).toNat → qHalted (queueOf t q).desc = true ∧ (queueOf t q).taild = x.taild ∧ (queueOf t q).head = x.head) ∧
          (qHalted x.desc = false → (v - x.head).toNat ≤ 2 ^ qLogN x.desc → (v - x.head).toNat < (x.taild - x.head).toNat →
            queueOf t q = { x with stale := x.stale + 1 } ∧ t.mem = s.mem) ∧
          (qHalted x.desc = false → (v - x.head).toNat ≤ 2 ^ qLogN x.desc → (x.taild - x.head).toNat ≤ (v - x.head).toNat →
            queueOf t q = { x with taild := v } ∧ t.mem = s.mem)))

/-- R37, R41, R46, R48, R52: what the supervisor asks of the management controller. A queue descriptor is taken and, where it
moves the queue, restarts it; a halted queue is cleared; a composition within R46 makes a partition that owns what it names; a
resource of an idle partition passes to another, cleared; a scheduling word within its ranges is taken; what the rules exclude
changes nothing but the answer, and a controller that is off takes nothing. That HALTED_CLEAR with a tail word acts on a queue that is not
halted, the bounds of counters and quotas at a composition, and that a scheduling word accepted before it stands are the model's choices (log
entries 39 and 40), as is that a reassigned queue starts afresh (log entry 32). -/
def Obligations.SupervisorRequestsComplete : Prop :=
  ∀ (s : State) (p q : Nat), (mcUp s = false → (∀ d h, exec (.queueDescriptorWrite q d h) s = .next s) ∧ (∀ v, exec (.haltedClear q v) s = .next s) ∧
      (∀ l c k n m, exec (.partitionComposition p l c k n m) s = .next s) ∧ (∀ r, exec (.resourceReassignment r p) s = .next s) ∧ (∀ w, exec (.schedulingWordWrite p w) s = .next s)) ∧
    (mcUp s = true →
    (∀ d, queueBad d = true ∨ 256 ≤ q → ∀ h, exec (.queueDescriptorWrite q d h) s = .next { s with outbox := .refused 2 :: s.outbox }) ∧
    (∀ d, queueBad d = false → q < 256 → qEn (queueOf s q).desc = false →
      (∀ h, ∃ t, exec (.queueDescriptorWrite q d (some h)) s = .next t ∧ (queueOf t q).desc = d ∧ (queueOf t q).head = h ∧ (queueOf t q).taild = h ∧ t.mem = s.mem ∧
        ∀ q', q' ≠ q → queueOf t q' = queueOf s q') ∧
      (qRing d ≠ qRing (queueOf s q).desc →
        ∃ t, exec (.queueDescriptorWrite q d none) s = .next t ∧ (queueOf t q).desc = d ∧ (queueOf t q).head = 0 ∧ (queueOf t q).taild = 0 ∧ (queueOf t q).count = 0 ∧
          t.mem = s.mem ∧ ∀ x y, ctxGet t x = some y → ∀ tl ∈ y.tails, fld tl 7 0 ≠ q)) ∧
    (∃ t, exec (.haltedClear q none) s = .next t ∧ qHalted (queueOf t q).desc = false ∧ (queueOf t q).taild = (queueOf s q).taild ∧ (queueOf t q).head = (queueOf s q).head ∧
      qEn (queueOf t q).desc = qEn (queueOf s q).desc ∧ t.mem = s.mem) ∧
    (∀ v, (v - (queueOf s q).head).toNat ≤ 2 ^ qLogN (queueOf s q).desc →
      ∃ t, exec (.haltedClear q (some v)) s = .next t ∧ qHalted (queueOf t q).desc = false ∧ (queueOf t q).taild = v) ∧
    (∀ pairs channels queues counters quota, CompositionOk s p pairs channels queues counters quota →
      ∃ t, exec (.partitionComposition p pairs channels queues counters quota) s = .next t ∧ t.mem = s.mem ∧
        partOf t p = { Part.reset with sched := (partOf s p).sched, exists_ := true, pairs := pairs, chans := channels, queues := queues, nCounters := counters, quota := quota } ∧
        (∀ k ∈ pairs, (easelOf t (2 * k)).owner = some p ∧ (easelOf t (2 * k + 1)).owner = some p) ∧ (∀ c ∈ channels, (chanOf t c).owner = some p) ∧
        (∀ p', p' ≠ p → partOf t p' = partOf s p')) ∧
    (∀ pairs channels queues counters quota, pairs = [] ∨ channels.length < 8 ∨ queues = [] ∨ 40 ≤ p →
      exec (.partitionComposition p pairs channels queues counters quota) s = .next { s with outbox := .refused 4 :: s.outbox }) ∧
    (∀ r o, ownerOf s r = some o → o ≠ p → (partOf s p).exists_ = true → partRules (without (partOf s o) r) = true → partRules (withRes (partOf s p) r) = true → partIdle s o = true →
      ∃ t, exec (.resourceReassignment r p) s = .next t ∧ partOf t o = without (partOf s o) r ∧ partOf t p = withRes (partOf s p) r ∧
        (∀ k, r = .easelPair k → easelOf t (2 * k) = { Easel.reset with owner := some p } ∧ easelOf t (2 * k + 1) = { Easel.reset with owner := some p } ∧
          (∀ g, easelNo g = 2 * k ∨ easelNo g = 2 * k + 1 → handOf t g = Hand.reset) ∧ t.mem = s.mem) ∧
        (∀ c, r = .channel c → chanOf t c = { Channel.reset with owner := some p } ∧ t.mem = memRekey s.mem c ∧ ∀ d, ∀ x ∈ (dieOf t d).cache, chanNo x.1 ≠ c) ∧
        (∀ k, r = .queue k → queueOf t k = HwQueue.reset ∧ t.mem = s.mem ∧ ∀ x y, ctxGet t x = some y → ∀ tl ∈ y.tails, fld tl 7 0 ≠ k) ∧
        (∀ k n, r = .counters k n ∨ r = .slots k n → t.mem = s.mem ∧ t.hands = s.hands ∧ t.easels = s.easels ∧ t.queues = s.queues)) ∧
    (∀ w, let total := (((List.range 40).filter (fun i => i != p)).map (fun i => swRlq (partOf s i).sched)).sum + swRlq w
      (fld w 63 55 = 0 → swGap w ≤ 31 → (swAge w = 0 ∨ (100 ≤ swAge w ∧ swAge w ≤ 1000000)) → total ≤ 16384 →
        ∃ t, exec (.schedulingWordWrite p w) s = .next t ∧ partOf t p = { partOf s p with sched := w } ∧ t.mem = s.mem ∧ t.queues = s.queues) ∧
      (16384 < total → exec (.schedulingWordWrite p w) s = .next { s with outbox := .refused 6 :: s.outbox })))

/-! ### Launches and the scheduler -/

/-- R31, R32, R42, R44, R50, R343: a queue's oldest entry that passes the checks starts a launch and moves HEAD on, and one that
cannot be read halts the queue; a control node's word decides its selector, or a loop's next iteration; a task whose work is
done completes; a launch whose tasks have all ended has its completion record written, bytes 8-63 first and then bytes 0-7, and is
forgotten. -/
def Obligations.LaunchStepsComplete : Prop :=
  ∀ (s : State) (q ln tk : Nat),
    let x := queueOf s q
    let p := qPart x.desc
    let slot := qRing x.desc + 32 * (x.head.toNat % 2 ^ qLogN x.desc)
    (schedUp s = true → fld s.pkg.ready 34 19 ≠ 0 → qEn x.desc = true → qHalted x.desc = false → x.head ≠ x.taild → acceptOpen s q = true →
      (∀ bad, (bad.contains badEntry = true ∨ ∃ f, unitRead s p false dataTypes slot 32 = .error f) →
        ∃ t, exec (.queueEntryAccept ⟨q, bad⟩) s = .next t ∧ qHalted (queueOf t q).desc = true ∧ (queueOf t q).head = x.head ∧ t.launches = s.launches ∧ t.mem = s.mem) ∧
      (∀ eb hb, unitRead s p false dataTypes slot 32 = .ok eb → wordAt eb 0 = 0 → wordAt eb 1 = 0 →
        unitRead s p false dataTypes (wordAt eb 3).toNat 128 = .ok hb →
        let h := BitVec.ofNat 512 (natOfBytes (hb.take 64))
        let lv := (List.range 8).map (fun i => wordAt hb (8 + i))
        let r := readTables s p (wordAt eb 3).toNat h lv
        launchFault s p r.1 lv r.2 = none → rlqUsed s p + 4 * hdNnode h ≤ swRlq (partOf s p).sched →
        ∃ t l, exec (.queueEntryAccept ⟨q, []⟩) s = .next t ∧ (queueOf t q).head = x.head + 1 ∧ launchOf t s.nextId = some l ∧ l.queue = q ∧ l.part = p ∧
          l.entry = x.head.toNat ∧ l.cookie = wordAt eb 2 ∧ l.header = h ∧ l.tstart = s.time ∧ ∀ n, n ≠ s.nextId → launchOf t n = launchOf s n)) ∧
    (∀ l t0, launchOf s ln = some l → l.tasks[tk]? = some t0 →
      let n := nodeOf l t0.node
      let cc := fld n 258 256
      let c := n.extractLsb' 192 64
      (schedUp s = true → l.cut = false → t0.state = .running → ∀ v ty pfn u, conditionWord s l n = .word v ty pfn u →
        (selector (ndKind n) = true → (ndKind n = 5 → t0.exited = false ∧ ∀ j, j + (fld n 273 272 + 1) = t0.iters → iterationDone l t0 j = true) →
          ∃ t l', exec (.conditionEvaluation ln ⟨tk, true⟩) s = .next t ∧ launchOf t ln = some l' ∧ t.mem = u.mem ∧
            (l.status = 0 → l'.status = 7 ∧ l'.detail = 13 ∧ l'.node = t0.node) ∧ (l.status ≠ 0 → l'.status = l.status ∧ l'.detail = l.detail)) ∧
        (ndKind n = 4 → ∃ t l' t', exec (.conditionEvaluation ln ⟨tk, false⟩) s = .next t ∧ launchOf t ln = some l' ∧ l'.tasks[tk]? = some t' ∧ t'.state = .complete ∧
          t'.sel = some (if conditionHolds v c cc then 1 else 0)) ∧
        (ndKind n = 6 →
          let w := v.toNat / 2 ^ fld n 269 264
          ∃ t l' t', exec (.conditionEvaluation ln ⟨tk, false⟩) s = .next t ∧ launchOf t ln = some l' ∧ l'.tasks[tk]? = some t' ∧ t'.state = .complete ∧
            t'.sel = some (if w ≤ 7 ∧ (∃ e ∈ l.edges, egFrom e = t0.node ∧ egSel e = w) then w else 8)) ∧
        (ndKind n = 5 → t0.exited = false → (∀ j, j + (fld n 273 272 + 1) = t0.iters → iterationDone l t0 j = true) →
          let more := conditionHolds v c cc = true ∧ (fld n 319 288 = 0 ∨ t0.iters < fld n 319 288)
          (more → l.tasks.countP (fun y => !taskEnded y) + (nodesIn l (some t0.node)).length ≤ 4 * l.nodes.length →
            ∃ t l' t', exec (.conditionEvaluation ln ⟨tk, false⟩) s = .next t ∧ launchOf t ln = some l' ∧ l'.tasks[tk]? = some t' ∧ t'.iters = t0.iters + 1 ∧ t'.exited = false) ∧
          (¬more → ∃ t l' t', exec (.conditionEvaluation ln ⟨tk, false⟩) s = .next t ∧ launchOf t ln = some l' ∧ l'.tasks[tk]? = some t' ∧ t'.exited = true ∧
            t'.sel = some 1 ∧ t'.iters = t0.iters ∧ t.mem = u.mem))) ∧
      (schedEnds s = true → t0.state = .running → taskDone s l ln tk t0 = true →
        ∃ t l' t', exec (.nodeCompletion ln tk) s = .next t ∧ launchOf t ln = some l' ∧ l'.tasks[tk]? = some t' ∧ t'.state = .complete ∧
          l'.status = (if l.status = 0 then t0.status else l.status)) ∧
      (schedEnds s = true → (∀ y ∈ l.tasks, taskEnded y = true) → (∀ u ∈ l.units, u.2.1 = 0 → anyDirty s (dieNo u.2.2.2) = false) → recordOpen s l = true →
        let bs := recordBytes l.status l.detail l.node l.queue (BitVec.ofNat 64 l.va) l.cookie l.tstart s.time (l.dwords.getD 0 0) (l.dwords.getD 1 0) (l.dwords.getD 2 0)
        (∀ u, l.posted = none → unitWrite s l.part false dataTypes (hdComp l.header + 8) (bs.drop 8) = .ok u →
          ∃ t, exec (.launchCompletionRecord ⟨ln, []⟩) s = .next t ∧ t.mem = u.mem ∧ launchOf t ln = some { l with posted := some (false, hdComp l.header, bs) } ∧
            t.queues = s.queues ∧ ∀ m, m ≠ ln → launchOf t m = launchOf s m) ∧
        (∀ va cs u, l.posted = some (false, va, cs) → unitWrite s l.part false dataTypes va (cs.take 8) = .ok u →
          ∃ t, exec (.launchCompletionRecord ⟨ln, []⟩) s = .next t ∧ t.mem = u.mem ∧ launchOf t ln = none ∧ t.queues = s.queues ∧
            ∀ m, m ≠ ln → launchOf t m = launchOf s m) ∧
        (∀ va cs u, l.posted = some (true, va, cs) → unitWrite s (qPart (queueOf s l.queue).desc) false dataTypes va (cs.take 8) = .ok u →
          ∃ t, exec (.launchCompletionRecord ⟨ln, []⟩) s = .next t ∧ t.mem = u.mem ∧ launchOf t ln = none ∧
            queueOf t l.queue = { queueOf s l.queue with count := (queueOf s l.queue).count + 1 } ∧ ∀ m, m ≠ ln → launchOf t m = launchOf s m)))

/-- R25, R26, R54, R58, R59, R60: the dispatch choice places the one candidate that has room on the hands of its plan; a placed leaf,
once the hand is idle or its leaf's windows are disjoint, becomes resident where it has no prefetches or resumes, else its prefetches
are issued, and a list that cannot be read stops its task with status 3; a resident leaf is bound with its sequencers started as R25 says; a gang
whose leaves are all resident is given a start 64 ns ahead and is bound whole once TIME reaches it; a head that has waited long
enough pre-empts the leaf that makes room for it (the last in the model's reading of R60, log entry 19). -/
def Obligations.DispatchStepsComplete : Prop :=
  ∀ (s : State) (p g g' q ep ln tk j : Nat) (x y : Slot) (l : Launch) (t0 : Task),
    let s' := retryExchanges s p
    (schedUp s = true → (partOf s p).exists_ = true → candidates s' p = [.task q ep ln tk] → ep < 32 → launchOf s' ln = some l → l.tasks[tk]? = some t0 →
      ∀ plan, planNext s' [] l ln tk t0 = some plan →
      ∃ t, exec (.dispatchChoice p) s = .next t ∧ t.mem = s.mem ∧ t.hands = s.hands ∧
        ∀ e ∈ plan.1, ∃ z ∈ slotsOf t e.2, z.launch = ln ∧ z.task = tk ∧ z.leaf = e.1 ∧ z.state = .placed ∧ z.resume = false) ∧
    (∀ bad, waitingSlot s g = some x → x.state = .placed → (∀ b, (handOf s g).bound = some b → windowsApart b.windows x.windows = true) → stopping s g = false →
      let becomes := fun (t : State) (st : SlotState) => slotsOf t g = (slotsOf s g).map (fun z => if z.order = x.order then { x with state := st } else z)
      (x.resume = true → ∃ t, exec (.prefetch ⟨g, bad⟩) s = .next t ∧ becomes t .resident ∧ t.mem = s.mem ∧ t.hands = s.hands ∧ t.launches = s.launches) ∧
      (x.resume = false → blocked s g x.windows = false → reserved s g = false → launchOf s x.launch = some l → l.tasks[x.task]? = some t0 →
        let n := nodeOf l t0.node
        let va := fld n 511 448
        let k := ndPref n
        let e := easelOf s (easelNo g)
        (k = 0 → ∃ t, exec (.prefetch ⟨g, bad⟩) s = .next t ∧ becomes t .resident ∧ t.mem = s.mem ∧ t.hands = s.hands ∧ t.launches = s.launches) ∧
        (0 < k → e.copyQ.length + k ≤ 64 → e.rc.length + k ≤ 128 → (∀ z ∈ slotsOf s g, z.order = x.order → z = x) →
          let s1 := setSlot s g { x with state := .fetching }
          let part := handPart s g
          let pages := unitPages s part false true false dataTypes (splitRange va (32 * k))
          (∀ ps, pages = .ok ps → listOpen s g x va ps (32 * k) = true → bad = false →
            let r := spanRead ((splitRange va (32 * k)).foldl (fun s t => walkTouched s part t.va) s1) (dieNo g) part ps va (32 * k)
            ∀ u, prefetched part g x r.1 r.2 (List.range k) = some u →
              ∃ t, exec (.prefetch ⟨g, bad⟩) s = .next t ∧ t = u ∧ becomes t .fetching ∧ (easelOf t (easelNo g)).copyQ.length = e.copyQ.length + k ∧
                t.mem = s.mem ∧ t.hands = s.hands ∧ t.launches = s.launches) ∧
          ((∃ f, pages = .error f) ∨ (bad = true ∧ ∃ ps, pages = .ok ps ∧ listOpen s g x va ps (32 * k) = true) →
            ∃ t l' t', exec (.prefetch ⟨g, bad⟩) s = .next t ∧ launchOf t x.launch = some l' ∧ l'.tasks[x.task]? = some t' ∧ t'.stopped = true ∧
              t'.status = (if t0.status = 0 then 3 else t0.status) ∧ t.mem = s.mem ∧ t.hands = s.hands ∧
              ∀ z ∈ slotsOf t g, z.launch = x.launch → z.task = x.task → z.state = .bound ∨ z.resume = true)))) ∧
    (waitingSlot s g = some x → x.gang = none → x.resume = false → bindable s g x = true → launchOf s x.launch = some l → l.tasks[x.task]? = some t0 →
      (partOf s (handPart s g)).stops = [] →
      let n := nodeOf l t0.node
      ∃ t, exec (.leafBind g) s = .next t ∧ (handOf t g).bound = some (slotLeaf s x) ∧ (handOf t g).sup = false ∧ (handOf t g).ending = none ∧
        (handOf t g).tvec = (partOf s (handPart s g)).tvec ∧ (handOf t g).chans = [] ∧ t.mem = s.mem ∧
        (∀ sq, let e := ndEntry n (seqNo sq)
          (bits e 31 31 = 1 → (sqOf t g sq).status = .run ∧ (sqOf t g sq).pc = { line := (bits e 23 0 : Nat), slot := 1 } ∧
            regGet (sqOf t g sq) 1 = n.extractLsb' 128 64 ∧ regGet (sqOf t g sq) 2 = n.extractLsb' 192 64 ∧
            ∀ r, r ≠ 1 → r ≠ 2 → regGet (sqOf t g sq) r = 0) ∧
          (bits e 31 31 = 0 → (sqOf t g sq).status = .off)) ∧
        ∀ g2, g2 ≠ g → handOf t g2 = handOf s g2) ∧
    (g ≠ g' → s.slots = [(g, [x]), (g', [y])] → x.launch = ln → y.launch = ln → y.task = x.task → x.gang.isSome = true → y.gang = x.gang → x.order = j →
      y.order ≠ x.order → x.state = .resident → y.state = .resident →
      (x.start = none →
        ∃ t, exec (.gangStart ln j) s = .next t ∧ slotsOf t g = [{ x with start := some (s.time.toNat + 64) }] ∧
          slotsOf t g' = [{ y with start := some (s.time.toNat + 64) }] ∧ t.hands = s.hands ∧ t.mem = s.mem) ∧
      (∀ tm, x.start = some tm → tm ≤ s.time.toNat → bindable s g x = true → bindable s g' y = true → x.resume = false → y.resume = false →
        launchOf s ln = some l → l.tasks[x.task]? = some t0 → (partOf s (handPart s g)).stops = [] → (partOf s (handPart s g')).stops = [] →
        ∃ t, exec (.gangStart ln j) s = .next t ∧ (handOf t g).bound = some (slotLeaf s x) ∧ (handOf t g').bound = some (slotLeaf s y) ∧ t.mem = s.mem)) ∧
    (let w := (partOf s p).sched;
      schedUp s = true → swGap w ≠ 0 → s.preempts = [] → candidates s p = [.task q ep ln tk] → launchOf s ln = some l → l.tasks[tk]? = some t0 →
      t0.lastPlaced + 1000 * (if swAge w = 0 then 1000 else swAge w) ≤ s.time.toNat → planNext s [] l ln tk t0 = none →
      victims s p ep (nodeOf l t0.node) = [g] → gangHands s g = [g] → ∀ plan, planNext s [g] l ln tk t0 = some plan → (∃ e ∈ plan.1, e.2 = g) →
      ∃ t v, exec (.priorityPreemption p) s = .next t ∧ (g, v) ∈ t.preempts ∧ v.by_ = 0 ∧ v.saved = false ∧ v.leaf = (handOf s g).bound ∧
        ∀ sq, canIssue t g sq = false)

/-! ### The end of a leaf, and its pre-emption -/

/-- R336, R338, R342, R344: a leaf whose sequencers have stopped and whose work is done retires: the hand is free, the leaf counts
as retired, its status is the launch's unless one came before. An abort stops every sequencer of the leaf, of a saved context, or
of every leaf of the launch. A pre-emption requested of a hand stops its issue at once, and once the hand is quiet and free of the
lease its context is written to the save area and kept. A saved leaf that is aborted
resumes no more: its copies and commands are taken up again, and once its copies have completed it ends with status 6; that, and what a
saved image holds, are the model's choices (log entries 23 and 21). -/
def Obligations.LeavesEnd : Prop :=
  ∀ (s : State) (g : Nat) (b : Bound),
    ((handOf s g).bound = some b →
      (∀ l t0, launchOf s b.launch = some l → l.tasks[b.task]? = some t0 → t0.state = .running →
        savedOver s g = none → ((handOf s g).ending.isSome = true ∨ ∀ q, (sqOf s g q).status ≠ .run) → workOver s g (some b) = true → stopping s g = false →
        let st := (handOf s g).ending.getD 0
        ∃ t l' t', exec (.leafRetire g) s = .next t ∧ (handOf t g).bound = none ∧ (∀ q, (sqOf t g q).status = .off) ∧ (handOf t g).sup = false ∧
          (handOf t g).heldMc = none ∧ (handOf t g).chans = [] ∧ launchOf t b.launch = some l' ∧ l'.tasks[b.task]? = some t' ∧ t'.retired = b.leaf :: t0.retired ∧
          l'.status = (if l.status = 0 then st else l.status)) ∧
      (mcUp s = true → (handOf s g).ending = none →
        ∃ t, exec (.leafAbort g false) s = .next t ∧ (handOf t g).bound = some b ∧ (handOf t g).ending = some 6 ∧
          (∀ q, (sqOf t g q).status ≠ .run ∧ (sqOf t g q).frozen = false) ∧ ∀ e ∈ t.preempts, e.1 = g → e.2.saved = true) ∧
      (mcUp s = true → ∃ t, exec (.leafAbort g true) s = .next t ∧
        (∀ g' b' q, (handOf s g').bound = some b' → b'.launch = b.launch → (handOf s g').ending = none → (handOf t g').ending = some 6 ∧ (sqOf t g' q).status ≠ .run) ∧
        ∀ l, launchOf s b.launch = some l → ∃ l', launchOf t b.launch = some l' ∧ (l.status = 0 → l'.status = 6)) ∧
      (mcUp s = true → stopping s g = false → gangHands s g = [g] →
        ∃ t p, exec (.supervisorPreemptionRequest g) s = .next t ∧ (g, p) ∈ t.preempts ∧ p.by_ = 1 ∧ p.saved = false ∧ p.leaf = some b ∧
          (∀ q, canIssue t g q = false) ∧ ∀ q n, regGet (sqOf t g q) n = regGet (sqOf s g q) n ∧ (sqOf t g q).pc = (sqOf s g q).pc) ∧
      (∀ e p va u, s.preempts.find? (fun e => e.1 == g && !e.2.saved) = some (e, p) → quiet s g (some b) = true →
        let m := (easelOf s (easelNo g)).mural
        (m.spill = none ∨ m.holder ≠ g % 4) → ((m.lease = .held ∨ m.lease = .spilling) → m.holder ≠ g % 4) → (m.lease = .group → m.back.any (fun x => x.1 == g % 4) = false) →
        ctxsOf s g (some b) (fun c => ctxLive c && !c.begun) = [] → (partOf s (handPart s g)).saveVa = some va →
        unitOpen s (handPart s g) (va + 0x34000 * g) 0x34000 = true → unitWrite s (handPart s g) true [.normal] (va + 0x34000 * g) (contextBytes (handOf s g) s.fresh) = .ok u →
        ∃ t v, exec (.preemptionSave g) s = .next t ∧ t.mem = u.mem ∧ (handOf t g).bound = none ∧ (g, v) ∈ t.preempts ∧ v.saved = true ∧ v.leaf = p.leaf ∧
          (∀ q n, regGet (seqOf v.image q) n = regGet (sqOf s g q) n ∧ (seqOf v.image q).pc = (sqOf s g q).pc) ∧
          v.image.chans = (handOf s g).chans ∧ v.image.vregs = (handOf s g).vregs)) ∧
    (mcUp s = true → (handOf s g).bound = none → ∀ e p, s.preempts.find? (fun e => e.1 == g && e.2.saved) = some (e, p) → p.leaf = some b →
      ∃ t v, exec (.leafAbort g false) s = .next t ∧ (g, v) ∈ t.preempts ∧ v.leaf = some b ∧ v.image.ending.isSome = true ∧ v.copies = [] ∧ v.cmds = [] ∧
        ∀ c ∈ p.copies, c.1 ∈ (easelOf t (easelNo g)).copyQ) ∧
    (∀ p, savedOver s g = some p → p.leaf = some b →
      ∃ t, exec (.leafRetire g) s = .next t ∧ t.hands = s.hands ∧ (∀ e ∈ t.preempts, e.1 = g → e.2.order ≠ p.order) ∧
        ∀ l, launchOf s b.launch = some l → ∃ l', launchOf t b.launch = some l' ∧ (l.status = 0 → l'.status = 6))

/-! ### Observation and the controller's settings -/

/-- R348 to R351, R353, R355, R356: the supervisor's settings and stop descriptors are taken within their ranges and refused
otherwise; a cut freezes the hands of its launch from T on, and a resume ends it; a latch copies every counter; a snapshot is
armed and read; a guest reads nothing outside its mask or its partition, and otherwise the quantised value of the latch; a controller that
is off takes none of it. That an unowned unit is refused with 13, which settings are refused or clamped, and what a resume leaves out of
the waits are the model's choices (log entries 26, 31 and 24). -/
def Obligations.ObservationStepsComplete : Prop :=
  ∀ (s : State) (p k g e : Nat),
    (mcUp s = false → exec .latch s = .next s ∧ (∀ w, exec (.mcRegisterWrite p w) s = .next s) ∧ (∀ d, exec (.stopDescriptorWrite p k d) s = .next s) ∧
      exec (.stopResume k) s = .next s ∧ (∀ w, exec (.latchRequest w) s = .next s) ∧ exec (.snapshotRead e) s = .next s) ∧
    (mcUp s = true →
    (∀ w, (∀ n, w ≠ .latchPeriod n) →
      ((settingRule w (partOf s p)).2 = true → ∃ t, exec (.mcRegisterWrite p w) s = .next t ∧ partOf t p = (settingRule w (partOf s p)).1 ∧ t.mem = s.mem ∧ t.hands = s.hands ∧
        ∀ p', p' ≠ p → partOf t p' = partOf s p') ∧
      ((settingRule w (partOf s p)).2 = false → exec (.mcRegisterWrite p w) s = .next { s with outbox := .refused 11 :: s.outbox })) ∧
    (∀ us, (1000 ≤ us ∧ us ≤ 10000000 → exec (.mcRegisterWrite p (.latchPeriod us)) s = .next { s with pkg := { s.pkg with lper := us } }) ∧
      (us < 1000 ∨ 10000000 < us → exec (.mcRegisterWrite p (.latchPeriod us)) s = .next { s with outbox := .refused 11 :: s.outbox })) ∧
    (∀ d, (8 ≤ k ∨ 3 < fld d 3 1 ∨ fld d 127 100 ≠ 0 ∨ fld d 15 4 ≠ 0 → exec (.stopDescriptorWrite p k d) s = .next { s with outbox := .refused 12 :: s.outbox }) ∧
      (k < 8 → fld d 3 1 ≤ 3 → fld d 127 100 = 0 → fld d 15 4 = 0 →
        (∀ g ∈ partHands s p, ∀ q, stopMatch (modPart s p (fun x => { x with stops := tput x.stops k d })) g 0 (some q) = none) →
        ∃ t, exec (.stopDescriptorWrite p k d) s = .next t ∧ tget 0 (partOf t p).stops k = d ∧
          (∀ i, i ≠ k → tget 0 (partOf t p).stops i = tget 0 (partOf s p).stops i) ∧ t.hands = s.hands ∧ t.mem = s.mem)) ∧
    (∀ c, cutOf s g = some c → (∀ x ∈ c.frozen, x.1 ≠ g) → c.asked.contains g = false → stopping s g = false →
      (s.time.toNat < c.time → exec (.cutFreeze g) s = .next s) ∧
      (c.time ≤ s.time.toNat → ∃ t, exec (.cutFreeze g) s = .next t ∧ (∃ c' ∈ t.cuts, c'.launch = c.launch ∧ (g, s.time.toNat) ∈ c'.frozen) ∧ (∀ q, canIssue t g q = false) ∧
        (c.save = false → t.mem = s.mem ∧ t.hands = s.hands ∧ t.preempts = s.preempts) ∧
        (c.save = true → ∃ v, (g, v) ∈ t.preempts ∧ v.by_ = 4 ∧ v.saved = false))) ∧
    ((∃ c ∈ s.cuts, c.launch = k ∧ cutMade s c = false) → exec (.stopResume k) s = .next s) ∧
    ((∀ c ∈ s.cuts, c.launch = k → cutMade s c = true) → (∀ e ∈ s.preempts, e.2.by_ ≠ 4) →
      ∃ t, exec (.stopResume k) s = .next t ∧ (∀ c, c ∈ t.cuts ↔ c ∈ s.cuts ∧ c.launch ≠ k) ∧ t.mem = s.mem ∧
        (∀ g' q, (sqOf t g' q).regs = (sqOf s g' q).regs ∧ (sqOf t g' q).pc = (sqOf s g' q).pc ∧ (sqOf t g' q).status = (sqOf s g' q).status) ∧
        (∀ c tm q, s.cuts.filter (fun c => c.launch == k) = [c] → c.frozen = [(g, tm)] → launchHands s k = [g] →
          (sqOf t g q).since = (sqOf s g q).since.map (fun a => a + (s.time.toNat - min c.time tm))) ∧
        ∀ l, launchOf s k = some l → launchOf t k = some { l with cut := false }) ∧
    (∀ w : Word, ∃ t, exec (.latchRequest w) s = .next t ∧ t.pkg.latches = s.pkg.latches ++ [if w.toNat ≤ s.time.toNat then s.time else w] ∧ t.pkg.shadow = s.pkg.shadow) ∧
    (∀ r, s.pkg.latches.find? (fun w => decide (w.toNat ≤ s.time.toNat)) = some r →
      ∃ t, exec .latch s = .next t ∧ t.pkg.latchT = r ∧ t.pkg.latchNo = s.pkg.latchNo + 1 ∧ t.pkg.counters = s.pkg.counters ∧
        (∀ i, i < 2 ^ 32 * 3 → tget 0 t.pkg.shadow i = tget 0 s.pkg.counters i) ∧
        (∀ d, d < 4 → let i := 2 ^ 32 * 3 + 2 ^ 16 * d + stepIndex (dieOf s d)
          tget 0 t.pkg.shadow i = tget 0 s.pkg.counters i + BitVec.ofNat 64 (stepCycles s (dieOf s d)))) ∧
    ((∀ w ∈ s.pkg.latches, s.time.toNat < w.toNat) → bit s.pkg.ready 0 = true → s.pkg.latchAt + 1000 * s.pkg.lper ≤ s.time.toNat →
      ∃ t, exec .latch s = .next t ∧ t.pkg.latchT = s.time ∧ t.pkg.latchAt = s.time.toNat ∧ t.pkg.latchNo = s.pkg.latchNo + 1) ∧
    (∀ q lc every, ∃ t, exec (.snapshotArm g q lc every) s = .next t ∧ (easelOf t (easelNo g)).snap = { (easelOf s (easelNo g)).snap with armed := some (g, q, lc.toNat, every) }) ∧
    (let x := (easelOf s e).snap;
      ∃ t, exec (.snapshotRead e) s = .next t ∧ (easelOf t e).snap = { x with ready := false } ∧ t.outbox = .snapshot e x.time x.missed x.image :: s.outbox) ∧
    (∀ grp unit ix, let y := partOf s p
      (6 < grp ∨ bit y.gmask grp = false → ∃ tm n, exec (.guestCounterRead p grp unit ix) s = .next { s with outbox := .counter p 0 tm n :: s.outbox }) ∧
      (grp ≤ 6 → bit y.gmask grp = true → ownsUnit s p grp unit = false → exec (.guestCounterRead p grp unit ix) s = .next { s with outbox := .refused 13 :: s.outbox }) ∧
      (grp ≤ 2 → bit y.gmask grp = true → ownsUnit s p grp unit = true → y.gdelay = 0 → s.pkg.latchT.toNat ≤ s.time.toNat →
        let v := (tget 0 s.pkg.shadow (2 ^ 32 * grp + 2 ^ 16 * unit + ix)).toNat
        exec (.guestCounterRead p grp unit ix) s = .next { s with outbox := .counter p (BitVec.ofNat 64 (v - v % 2 ^ y.qshift)) s.pkg.latchT s.pkg.latchNo :: s.outbox })))

/-! ### Power, suspend, bring-up -/

/-- R357, R358: the clock of a die steps down by one at a supply sag, at a cycle boundary, at most once per 50 ns and never below 8, and up by one
per microsecond; an idle channel enters power-down after a microsecond and self-refresh on request, and returns once an access has waited for it, 30 ns or two
microseconds after that came. -/
def Obligations.PowerStepsComplete : Prop :=
  ∀ (s : State) (d ch : Nat),
    let x := dieOf s d
    let c := chanOf s ch
    (atBoundary s x = false → exec (.supplySag d) s = .next s ∧ exec (.supplyRecoveryStep d) s = .next s) ∧
    (atBoundary s x = true → 8 < x.k → (16 ≤ x.k ∨ x.kTime + 50 ≤ s.time.toNat) → ∃ t, exec (.supplySag d) s = .next t ∧ dieOf t d = { x with k := x.k - 1, kTime := s.time.toNat, run := x.run + (s.time.toNat - x.kTime) * x.k } ∧ t.mem = s.mem ∧ t.hands = s.hands) ∧
    ((x.k ≤ 8 ∨ (x.k < 16 ∧ s.time.toNat < x.kTime + 50)) → exec (.supplySag d) s = .next s) ∧
    (atBoundary s x = true → x.k < 16 → x.kTime + 1000 ≤ s.time.toNat → ∃ t, exec (.supplyRecoveryStep d) s = .next t ∧ dieOf t d = { x with k := x.k + 1, kTime := s.time.toNat, run := x.run + (s.time.toNat - x.kTime) * x.k } ∧ t.mem = s.mem ∧ t.hands = s.hands) ∧
    ((16 ≤ x.k ∨ s.time.toNat < x.kTime + 1000) → exec (.supplyRecoveryStep d) s = .next s) ∧
    (c.power = .active → liveOf s ch = [] →
      (c.access + 1000 ≤ s.time.toNat → ∃ t, exec (.powerDownEntry ch) s = .next t ∧ chanOf t ch = { c with power := .powerDown } ∧ t.mem = s.mem) ∧
      (s.time.toNat < c.access + 1000 → exec (.powerDownEntry ch) s = .next s)) ∧
    (c.power = .powerDown → wakeDue s ch 30 = false → exec (.powerDownExit ch) s = .next s) ∧
    (c.power = .powerDown → wakeDue s ch 30 = true → ∃ t, exec (.powerDownExit ch) s = .next t ∧ (chanOf t ch).power = .active ∧ (chanOf t ch).access = s.time.toNat ∧ t.mem = s.mem) ∧
    (mcUp s = true → (c.power = .active ∨ c.power = .powerDown) → liveOf s ch = [] →
      ∃ t, exec (.selfRefreshRequest ch) s = .next t ∧ chanOf t ch = { c with power := .selfRefresh } ∧ t.mem = s.mem) ∧
    (c.power = .selfRefresh → wakeDue s ch 2000 = false → exec (.selfRefreshExit ch) s = .next s) ∧
    (c.power = .selfRefresh → wakeDue s ch 2000 = true → ∃ t, exec (.selfRefreshExit ch) s = .next t ∧ (chanOf t ch).power = .active ∧ (chanOf t ch).access = s.time.toNat ∧ t.mem = s.mem)

/-- R359 to R363: a suspend is accepted in phase 0 only, stops every hand and pauses every partition; at the quiesce limit no leaf is
left bound; once all is quiet the image is saved in phase 2, and then, in phase 3, every channel keeps its contents and no function is
ready; a resume moves TIME on in phase 4, waits until bring-up has made every function ready again that was, wakes the channels, and gives
phase 0 once jobs and hands are back for the image that was saved, for another image an empty device in phase 5 with each of its 256
queues halted, which an acknowledgement ends. That suspend and resume take several steps each, and that a resume is refused elsewhere, are the
model's choices (log entry 29). -/
def Obligations.SuspendAndResumeComplete : Prop :=
  ∀ (s : State) (epoch : BitVec 16) (us : Nat) (image : List Byte),
    (s.pkg.rejected = true → exec (.suspendRequest epoch) s = .next s) ∧
    (s.pkg.rejected = false → s.pkg.phase ≠ 0 → exec (.suspendRequest epoch) s = .next { s with outbox := .refused 14 :: s.outbox }) ∧
    (s.pkg.rejected = false → s.pkg.phase = 0 → ∃ t, exec (.suspendRequest epoch) s = .next t ∧ t.pkg.phase = 1 ∧ t.pkg.epoch = epoch ∧ t.pkg.phaseAt = s.time.toNat ∧
      (∀ p, collPaused t p = true) ∧
      (∀ g, (handOf s g).bound.isSome = true → (∀ q, canIssue t g q = false) ∧ (stopping s g = false → ∃ v, (g, v) ∈ t.preempts ∧ v.by_ = 3 ∧ v.saved = false))) ∧
    (s.pkg.phase = 1 → s.pkg.phaseAt + 200000000 ≤ s.time.toNat → ∃ t, exec .quiesceLimitExpiry s = .next t ∧ (∀ g, (handOf t g).bound = none) ∧ t.pkg.phase = 1) ∧
    ((s.pkg.phase ≠ 1 ∨ s.time.toNat < s.pkg.phaseAt + 200000000) → exec .quiesceLimitExpiry s = .next s) ∧
    (s.pkg.phase = 1 → quiesced s = true → ∃ t, exec .suspendSave s = .next t ∧ t.pkg.phase = 2 ∧ t.pkg.image = Config.imageLayout (imageWords s) ∧
      t.pkg.digest = some (Config.sm3 t.pkg.image) ∧ t.channels = s.channels ∧ t.mem = s.mem) ∧
    (s.pkg.phase = 2 → ∃ t, exec .suspendSave s = .next t ∧ t.pkg.phase = 3 ∧ t.pkg.phaseAt = s.time.toNat ∧ t.pkg.digest = s.pkg.digest ∧ t.pkg.ready = 0 ∧ t.pkg.readyWas = s.pkg.ready ∧
      (∀ ch, ch < 384 → (chanOf t ch).power = .retention) ∧ t.mem = s.mem) ∧
    (s.pkg.phase ≠ 3 → s.pkg.phase ≠ 4 → exec (.resumeRequest us image) s = .next { s with outbox := .refused 15 :: s.outbox }) ∧
    (s.pkg.phase = 3 → ∃ t, exec (.resumeRequest us image) s = .next t ∧ t.time = BitVec.ofNat 64 (max s.time.toNat (s.pkg.phaseAt + 1000 * us)) ∧
      t.pkg.phase = 4 ∧ t.pkg.ready = s.pkg.readyWas &&& 1 ∧ t.channels = s.channels ∧ t.mem = s.mem) ∧
    (s.pkg.phase = 4 → s.pkg.ready &&& s.pkg.readyWas ≠ s.pkg.readyWas → exec (.resumeRequest us image) s = .next s) ∧
    (s.pkg.phase = 4 → s.pkg.ready &&& s.pkg.readyWas = s.pkg.readyWas →
      (s.pkg.digest ≠ some (Config.sm3 image) → ∃ t, exec (.resumeRequest us image) s = .next t ∧ t.pkg.phase = 5 ∧ t.hands = [] ∧ t.launches = [] ∧ t.preempts = [] ∧
        (∀ q, q < 256 → qHalted (queueOf t q).desc = true) ∧ t.pkg.slotsUsed = [] ∧ t.mem = s.mem) ∧
      (s.pkg.digest = some (Config.sm3 image) →
        ((∃ c ∈ s.channels, c.2.power = .retention) →
          ∃ t, exec (.resumeRequest us image) s = .next t ∧ t.pkg.phase = 4 ∧ (∀ c ∈ t.channels, c.2.power = .active) ∧ t.mem = s.mem ∧ t.hands = s.hands) ∧
        ((∀ c ∈ s.channels, c.2.power ≠ .retention) → wakeAll s ≠ s → exec (.resumeRequest us image) s = .next (wakeAll s)) ∧
        ((∀ c ∈ s.channels, c.2.power ≠ .retention) → wakeAll s = s → (∀ c ∈ s.channels, ∀ x ∈ c.2.ctx, x.2.state ≠ .restoring) →
          ∀ u, reinstateAll s (heldFor s 3 (fun _ => true)) = some u → heldFor u 3 (fun _ => true) = [] →
          ∃ t, exec (.resumeRequest us image) s = .next t ∧ t.pkg.phase = 0 ∧ t.mem = u.mem))) ∧
    (s.pkg.phase = 5 → s.pkg.rejected = false → exec .failureAcknowledge s = .next { s with pkg := { s.pkg with phase := 0 } }) ∧
    (s.pkg.phase ≠ 5 → exec .failureAcknowledge s = .next s)

/-- R363 to R366: the boot ROM measures the management firmware, and runs it only under a valid signature; a self test sets the READY bit of a
function that the accepted configuration record keeps in service; a record is accepted where its checks hold, and another leaves
only MC and PORT 0 ready, and the device takes only a new record; each is measured; an attestation reports what was measured. That the
digest of a record is over its bytes 0 to 447, and that only PORT 0 passes its self test before a record, are the model's choices (log
entry 30). -/
def Obligations.BringUpCompletes : Prop :=
  ∀ (s : State) (fw : List Byte) (sig : BitVec 512) (k : Nat) (r : BitVec 4096) (nonce : BitVec 256),
    (s.pkg.firmware = false → Config.sm2Valid Config.vendorKey (Config.sm3 fw) sig = true →
      ∃ t, exec (.powerOn fw sig) s = .next t ∧ t.pkg.firmware = true ∧ bit t.pkg.ready 0 = true ∧ t.pkg.log = s.pkg.log ++ [(0, Config.sm3 fw)] ∧
        (∀ i, i ≠ 0 → bit t.pkg.ready i = bit s.pkg.ready i)) ∧
    (s.pkg.firmware = false → Config.sm2Valid Config.vendorKey (Config.sm3 fw) sig = false →
      exec (.powerOn fw sig) s = .next { s with pkg := { s.pkg with log := s.pkg.log ++ [(0, Config.sm3 fw)] } }) ∧
    (s.pkg.firmware = true → exec (.powerOn fw sig) s = .next s) ∧
    (s.pkg.rejected = true → exec (.selfTestPass k) s = .next s ∧ exec (.attestationRequest nonce) s = .next s ∧ (∀ p, portUp s p = false)) ∧
    (s.pkg.firmware = true → mcUp s = true →
      ((∃ c, s.pkg.config = some c ∧ ((1 ≤ k ∧ k ≤ 18) ∨ (35 ≤ k ∧ k ≤ 51) ∨ (19 ≤ k ∧ k ≤ 34 ∧ bit c (640 + (k - 19)) = true))) ∨ (s.pkg.config = none ∧ k = 19) →
        ∃ t, exec (.selfTestPass k) s = .next t ∧ bit t.pkg.ready k = true ∧ (∀ i, i ≠ k → bit t.pkg.ready i = bit s.pkg.ready i) ∧ t.pkg.log = s.pkg.log) ∧
      ((s.pkg.config = none ∧ k ≠ 19) ∨ k = 0 ∨ 51 < k → exec (.selfTestPass k) s = .next s) ∧
      (let d := Config.sm3 (bytesOfNat 448 (r.toNat % 2 ^ 3584));
        let ok := Config.sm2Valid Config.vendorKey d (r.extractLsb' 3584 512) = true ∧ fld r 31 0 = 0x4B5A4352 ∧ fld r 63 32 = 1 ∧ fld r 671 656 = 0 ∧ 1000 ≤ fld r 687 672 ∧
          fld r 687 672 ≤ 2800 ∧ fld r 767 688 = 0 ∧ fld r 3583 1792 = 0
        ∃ t, exec (.configurationRecordWrite r) s = .next t ∧ t.pkg.log = s.pkg.log ++ [(1, d)] ∧
          (ok → t.pkg.config = some r ∧ t.pkg.ready = s.pkg.ready ∧ t.pkg.rejected = false) ∧
          (¬ok → t.pkg.config = none ∧ t.pkg.rejected = true ∧ ∀ i, bit t.pkg.ready i = (bit s.pkg.ready i && (i == 0 || i == 19)))) ∧
      (∃ d sg, exec (.attestationRequest nonce) s = .next { s with outbox := .report ((s.pkg.config.map (fun c => c.extractLsb' 64 64)).getD 0) nonce s.time s.pkg.ready (pwrstat s) d s.pkg.log sg :: s.outbox }))
end

