-- ==== Sys2Proof/Laws/Fields.lean ====
section
/-! SUPPORT. What a named update leaves alone: one law for each field of the state that it does not write. -/

namespace Sys2Proof.Machine

set_option Elab.async false

/-! setHand writes `hands` alone. -/

@[simp] theorem setHand_agenda (s : State) (g : Nat) (h : Hand) : (setHand s g h).agenda = s.agenda := rfl
@[simp] theorem setHand_focus (s : State) (g : Nat) (h : Hand) : (setHand s g h).focus = s.focus := rfl
@[simp] theorem setHand_focusSq (s : State) (g : Nat) (h : Hand) : (setHand s g h).focusSq = s.focusSq := rfl
@[simp] theorem setHand_microCx (s : State) (g : Nat) (h : Hand) : (setHand s g h).microCx = s.microCx := rfl
@[simp] theorem setHand_fresh (s : State) (g : Nat) (h : Hand) : (setHand s g h).fresh = s.fresh := rfl
@[simp] theorem setHand_nextId (s : State) (g : Nat) (h : Hand) : (setHand s g h).nextId = s.nextId := rfl
@[simp] theorem setHand_time (s : State) (g : Nat) (h : Hand) : (setHand s g h).time = s.time := rfl
@[simp] theorem setHand_mem (s : State) (g : Nat) (h : Hand) : (setHand s g h).mem = s.mem := rfl
@[simp] theorem setHand_preempts (s : State) (g : Nat) (h : Hand) : (setHand s g h).preempts = s.preempts := rfl
@[simp] theorem setHand_pushes (s : State) (g : Nat) (h : Hand) : (setHand s g h).pushes = s.pushes := rfl
@[simp] theorem setHand_easels (s : State) (g : Nat) (h : Hand) : (setHand s g h).easels = s.easels := rfl
@[simp] theorem setHand_groups (s : State) (g : Nat) (h : Hand) : (setHand s g h).groups = s.groups := rfl
@[simp] theorem setHand_slots (s : State) (g : Nat) (h : Hand) : (setHand s g h).slots = s.slots := rfl
@[simp] theorem setHand_dies (s : State) (g : Nat) (h : Hand) : (setHand s g h).dies = s.dies := rfl
@[simp] theorem setHand_channels (s : State) (g : Nat) (h : Hand) : (setHand s g h).channels = s.channels := rfl
@[simp] theorem setHand_glazeJobs (s : State) (g : Nat) (h : Hand) : (setHand s g h).glazeJobs = s.glazeJobs := rfl
@[simp] theorem setHand_parts (s : State) (g : Nat) (h : Hand) : (setHand s g h).parts = s.parts := rfl
@[simp] theorem setHand_queues (s : State) (g : Nat) (h : Hand) : (setHand s g h).queues = s.queues := rfl
@[simp] theorem setHand_ctxs (s : State) (g : Nat) (h : Hand) : (setHand s g h).ctxs = s.ctxs := rfl
@[simp] theorem setHand_links (s : State) (g : Nat) (h : Hand) : (setHand s g h).links = s.links := rfl
@[simp] theorem setHand_launches (s : State) (g : Nat) (h : Hand) : (setHand s g h).launches = s.launches := rfl
@[simp] theorem setHand_cuts (s : State) (g : Nat) (h : Hand) : (setHand s g h).cuts = s.cuts := rfl
@[simp] theorem setHand_invals (s : State) (g : Nat) (h : Hand) : (setHand s g h).invals = s.invals := rfl
@[simp] theorem setHand_traceQ (s : State) (g : Nat) (h : Hand) : (setHand s g h).traceQ = s.traceQ := rfl
@[simp] theorem setHand_pkg (s : State) (g : Nat) (h : Hand) : (setHand s g h).pkg = s.pkg := rfl
@[simp] theorem setHand_outbox (s : State) (g : Nat) (h : Hand) : (setHand s g h).outbox = s.outbox := rfl
@[simp] theorem setHand_left (s : State) (g : Nat) (h : Hand) : (setHand s g h).left = s.left := rfl

/-! modHand writes `hands` alone. -/

@[simp] theorem modHand_agenda (s : State) (g : Nat) (f : Hand → Hand) : (modHand s g f).agenda = s.agenda := rfl
@[simp] theorem modHand_focus (s : State) (g : Nat) (f : Hand → Hand) : (modHand s g f).focus = s.focus := rfl
@[simp] theorem modHand_focusSq (s : State) (g : Nat) (f : Hand → Hand) : (modHand s g f).focusSq = s.focusSq := rfl
@[simp] theorem modHand_microCx (s : State) (g : Nat) (f : Hand → Hand) : (modHand s g f).microCx = s.microCx := rfl
@[simp] theorem modHand_fresh (s : State) (g : Nat) (f : Hand → Hand) : (modHand s g f).fresh = s.fresh := rfl
@[simp] theorem modHand_nextId (s : State) (g : Nat) (f : Hand → Hand) : (modHand s g f).nextId = s.nextId := rfl
@[simp] theorem modHand_time (s : State) (g : Nat) (f : Hand → Hand) : (modHand s g f).time = s.time := rfl
@[simp] theorem modHand_mem (s : State) (g : Nat) (f : Hand → Hand) : (modHand s g f).mem = s.mem := rfl
@[simp] theorem modHand_preempts (s : State) (g : Nat) (f : Hand → Hand) : (modHand s g f).preempts = s.preempts := rfl
@[simp] theorem modHand_pushes (s : State) (g : Nat) (f : Hand → Hand) : (modHand s g f).pushes = s.pushes := rfl
@[simp] theorem modHand_easels (s : State) (g : Nat) (f : Hand → Hand) : (modHand s g f).easels = s.easels := rfl
@[simp] theorem modHand_groups (s : State) (g : Nat) (f : Hand → Hand) : (modHand s g f).groups = s.groups := rfl
@[simp] theorem modHand_slots (s : State) (g : Nat) (f : Hand → Hand) : (modHand s g f).slots = s.slots := rfl
@[simp] theorem modHand_dies (s : State) (g : Nat) (f : Hand → Hand) : (modHand s g f).dies = s.dies := rfl
@[simp] theorem modHand_channels (s : State) (g : Nat) (f : Hand → Hand) : (modHand s g f).channels = s.channels := rfl
@[simp] theorem modHand_glazeJobs (s : State) (g : Nat) (f : Hand → Hand) : (modHand s g f).glazeJobs = s.glazeJobs := rfl
@[simp] theorem modHand_parts (s : State) (g : Nat) (f : Hand → Hand) : (modHand s g f).parts = s.parts := rfl
@[simp] theorem modHand_queues (s : State) (g : Nat) (f : Hand → Hand) : (modHand s g f).queues = s.queues := rfl
@[simp] theorem modHand_ctxs (s : State) (g : Nat) (f : Hand → Hand) : (modHand s g f).ctxs = s.ctxs := rfl
@[simp] theorem modHand_links (s : State) (g : Nat) (f : Hand → Hand) : (modHand s g f).links = s.links := rfl
@[simp] theorem modHand_launches (s : State) (g : Nat) (f : Hand → Hand) : (modHand s g f).launches = s.launches := rfl
@[simp] theorem modHand_cuts (s : State) (g : Nat) (f : Hand → Hand) : (modHand s g f).cuts = s.cuts := rfl
@[simp] theorem modHand_invals (s : State) (g : Nat) (f : Hand → Hand) : (modHand s g f).invals = s.invals := rfl
@[simp] theorem modHand_traceQ (s : State) (g : Nat) (f : Hand → Hand) : (modHand s g f).traceQ = s.traceQ := rfl
@[simp] theorem modHand_pkg (s : State) (g : Nat) (f : Hand → Hand) : (modHand s g f).pkg = s.pkg := rfl
@[simp] theorem modHand_outbox (s : State) (g : Nat) (f : Hand → Hand) : (modHand s g f).outbox = s.outbox := rfl
@[simp] theorem modHand_left (s : State) (g : Nat) (f : Hand → Hand) : (modHand s g f).left = s.left := rfl

/-! modSq writes `hands` alone. -/

@[simp] theorem modSq_agenda (s : State) (g : Nat) (q : SeqId) (f : Seqr → Seqr) : (modSq s g q f).agenda = s.agenda := rfl
@[simp] theorem modSq_focus (s : State) (g : Nat) (q : SeqId) (f : Seqr → Seqr) : (modSq s g q f).focus = s.focus := rfl
@[simp] theorem modSq_focusSq (s : State) (g : Nat) (q : SeqId) (f : Seqr → Seqr) : (modSq s g q f).focusSq = s.focusSq := rfl
@[simp] theorem modSq_microCx (s : State) (g : Nat) (q : SeqId) (f : Seqr → Seqr) : (modSq s g q f).microCx = s.microCx := rfl
@[simp] theorem modSq_fresh (s : State) (g : Nat) (q : SeqId) (f : Seqr → Seqr) : (modSq s g q f).fresh = s.fresh := rfl
@[simp] theorem modSq_nextId (s : State) (g : Nat) (q : SeqId) (f : Seqr → Seqr) : (modSq s g q f).nextId = s.nextId := rfl
@[simp] theorem modSq_time (s : State) (g : Nat) (q : SeqId) (f : Seqr → Seqr) : (modSq s g q f).time = s.time := rfl
@[simp] theorem modSq_mem (s : State) (g : Nat) (q : SeqId) (f : Seqr → Seqr) : (modSq s g q f).mem = s.mem := rfl
@[simp] theorem modSq_preempts (s : State) (g : Nat) (q : SeqId) (f : Seqr → Seqr) : (modSq s g q f).preempts = s.preempts := rfl
@[simp] theorem modSq_pushes (s : State) (g : Nat) (q : SeqId) (f : Seqr → Seqr) : (modSq s g q f).pushes = s.pushes := rfl
@[simp] theorem modSq_easels (s : State) (g : Nat) (q : SeqId) (f : Seqr → Seqr) : (modSq s g q f).easels = s.easels := rfl
@[simp] theorem modSq_groups (s : State) (g : Nat) (q : SeqId) (f : Seqr → Seqr) : (modSq s g q f).groups = s.groups := rfl
@[simp] theorem modSq_slots (s : State) (g : Nat) (q : SeqId) (f : Seqr → Seqr) : (modSq s g q f).slots = s.slots := rfl
@[simp] theorem modSq_dies (s : State) (g : Nat) (q : SeqId) (f : Seqr → Seqr) : (modSq s g q f).dies = s.dies := rfl
@[simp] theorem modSq_channels (s : State) (g : Nat) (q : SeqId) (f : Seqr → Seqr) : (modSq s g q f).channels = s.channels := rfl
@[simp] theorem modSq_glazeJobs (s : State) (g : Nat) (q : SeqId) (f : Seqr → Seqr) : (modSq s g q f).glazeJobs = s.glazeJobs := rfl
@[simp] theorem modSq_parts (s : State) (g : Nat) (q : SeqId) (f : Seqr → Seqr) : (modSq s g q f).parts = s.parts := rfl
@[simp] theorem modSq_queues (s : State) (g : Nat) (q : SeqId) (f : Seqr → Seqr) : (modSq s g q f).queues = s.queues := rfl
@[simp] theorem modSq_ctxs (s : State) (g : Nat) (q : SeqId) (f : Seqr → Seqr) : (modSq s g q f).ctxs = s.ctxs := rfl
@[simp] theorem modSq_links (s : State) (g : Nat) (q : SeqId) (f : Seqr → Seqr) : (modSq s g q f).links = s.links := rfl
@[simp] theorem modSq_launches (s : State) (g : Nat) (q : SeqId) (f : Seqr → Seqr) : (modSq s g q f).launches = s.launches := rfl
@[simp] theorem modSq_cuts (s : State) (g : Nat) (q : SeqId) (f : Seqr → Seqr) : (modSq s g q f).cuts = s.cuts := rfl
@[simp] theorem modSq_invals (s : State) (g : Nat) (q : SeqId) (f : Seqr → Seqr) : (modSq s g q f).invals = s.invals := rfl
@[simp] theorem modSq_traceQ (s : State) (g : Nat) (q : SeqId) (f : Seqr → Seqr) : (modSq s g q f).traceQ = s.traceQ := rfl
@[simp] theorem modSq_pkg (s : State) (g : Nat) (q : SeqId) (f : Seqr → Seqr) : (modSq s g q f).pkg = s.pkg := rfl
@[simp] theorem modSq_outbox (s : State) (g : Nat) (q : SeqId) (f : Seqr → Seqr) : (modSq s g q f).outbox = s.outbox := rfl
@[simp] theorem modSq_left (s : State) (g : Nat) (q : SeqId) (f : Seqr → Seqr) : (modSq s g q f).left = s.left := rfl

/-! setEasel writes `easels` alone. -/

@[simp] theorem setEasel_agenda (s : State) (e : Nat) (x : Easel) : (setEasel s e x).agenda = s.agenda := rfl
@[simp] theorem setEasel_focus (s : State) (e : Nat) (x : Easel) : (setEasel s e x).focus = s.focus := rfl
@[simp] theorem setEasel_focusSq (s : State) (e : Nat) (x : Easel) : (setEasel s e x).focusSq = s.focusSq := rfl
@[simp] theorem setEasel_microCx (s : State) (e : Nat) (x : Easel) : (setEasel s e x).microCx = s.microCx := rfl
@[simp] theorem setEasel_fresh (s : State) (e : Nat) (x : Easel) : (setEasel s e x).fresh = s.fresh := rfl
@[simp] theorem setEasel_nextId (s : State) (e : Nat) (x : Easel) : (setEasel s e x).nextId = s.nextId := rfl
@[simp] theorem setEasel_time (s : State) (e : Nat) (x : Easel) : (setEasel s e x).time = s.time := rfl
@[simp] theorem setEasel_mem (s : State) (e : Nat) (x : Easel) : (setEasel s e x).mem = s.mem := rfl
@[simp] theorem setEasel_hands (s : State) (e : Nat) (x : Easel) : (setEasel s e x).hands = s.hands := rfl
@[simp] theorem setEasel_preempts (s : State) (e : Nat) (x : Easel) : (setEasel s e x).preempts = s.preempts := rfl
@[simp] theorem setEasel_pushes (s : State) (e : Nat) (x : Easel) : (setEasel s e x).pushes = s.pushes := rfl
@[simp] theorem setEasel_groups (s : State) (e : Nat) (x : Easel) : (setEasel s e x).groups = s.groups := rfl
@[simp] theorem setEasel_slots (s : State) (e : Nat) (x : Easel) : (setEasel s e x).slots = s.slots := rfl
@[simp] theorem setEasel_dies (s : State) (e : Nat) (x : Easel) : (setEasel s e x).dies = s.dies := rfl
@[simp] theorem setEasel_channels (s : State) (e : Nat) (x : Easel) : (setEasel s e x).channels = s.channels := rfl
@[simp] theorem setEasel_glazeJobs (s : State) (e : Nat) (x : Easel) : (setEasel s e x).glazeJobs = s.glazeJobs := rfl
@[simp] theorem setEasel_parts (s : State) (e : Nat) (x : Easel) : (setEasel s e x).parts = s.parts := rfl
@[simp] theorem setEasel_queues (s : State) (e : Nat) (x : Easel) : (setEasel s e x).queues = s.queues := rfl
@[simp] theorem setEasel_ctxs (s : State) (e : Nat) (x : Easel) : (setEasel s e x).ctxs = s.ctxs := rfl
@[simp] theorem setEasel_links (s : State) (e : Nat) (x : Easel) : (setEasel s e x).links = s.links := rfl
@[simp] theorem setEasel_launches (s : State) (e : Nat) (x : Easel) : (setEasel s e x).launches = s.launches := rfl
@[simp] theorem setEasel_cuts (s : State) (e : Nat) (x : Easel) : (setEasel s e x).cuts = s.cuts := rfl
@[simp] theorem setEasel_invals (s : State) (e : Nat) (x : Easel) : (setEasel s e x).invals = s.invals := rfl
@[simp] theorem setEasel_traceQ (s : State) (e : Nat) (x : Easel) : (setEasel s e x).traceQ = s.traceQ := rfl
@[simp] theorem setEasel_pkg (s : State) (e : Nat) (x : Easel) : (setEasel s e x).pkg = s.pkg := rfl
@[simp] theorem setEasel_outbox (s : State) (e : Nat) (x : Easel) : (setEasel s e x).outbox = s.outbox := rfl
@[simp] theorem setEasel_left (s : State) (e : Nat) (x : Easel) : (setEasel s e x).left = s.left := rfl

/-! modEasel writes `easels` alone. -/

@[simp] theorem modEasel_agenda (s : State) (e : Nat) (f : Easel → Easel) : (modEasel s e f).agenda = s.agenda := rfl
@[simp] theorem modEasel_focus (s : State) (e : Nat) (f : Easel → Easel) : (modEasel s e f).focus = s.focus := rfl
@[simp] theorem modEasel_focusSq (s : State) (e : Nat) (f : Easel → Easel) : (modEasel s e f).focusSq = s.focusSq := rfl
@[simp] theorem modEasel_microCx (s : State) (e : Nat) (f : Easel → Easel) : (modEasel s e f).microCx = s.microCx := rfl
@[simp] theorem modEasel_fresh (s : State) (e : Nat) (f : Easel → Easel) : (modEasel s e f).fresh = s.fresh := rfl
@[simp] theorem modEasel_nextId (s : State) (e : Nat) (f : Easel → Easel) : (modEasel s e f).nextId = s.nextId := rfl
@[simp] theorem modEasel_time (s : State) (e : Nat) (f : Easel → Easel) : (modEasel s e f).time = s.time := rfl
@[simp] theorem modEasel_mem (s : State) (e : Nat) (f : Easel → Easel) : (modEasel s e f).mem = s.mem := rfl
@[simp] theorem modEasel_hands (s : State) (e : Nat) (f : Easel → Easel) : (modEasel s e f).hands = s.hands := rfl
@[simp] theorem modEasel_preempts (s : State) (e : Nat) (f : Easel → Easel) : (modEasel s e f).preempts = s.preempts := rfl
@[simp] theorem modEasel_pushes (s : State) (e : Nat) (f : Easel → Easel) : (modEasel s e f).pushes = s.pushes := rfl
@[simp] theorem modEasel_groups (s : State) (e : Nat) (f : Easel → Easel) : (modEasel s e f).groups = s.groups := rfl
@[simp] theorem modEasel_slots (s : State) (e : Nat) (f : Easel → Easel) : (modEasel s e f).slots = s.slots := rfl
@[simp] theorem modEasel_dies (s : State) (e : Nat) (f : Easel → Easel) : (modEasel s e f).dies = s.dies := rfl
@[simp] theorem modEasel_channels (s : State) (e : Nat) (f : Easel → Easel) : (modEasel s e f).channels = s.channels := rfl
@[simp] theorem modEasel_glazeJobs (s : State) (e : Nat) (f : Easel → Easel) : (modEasel s e f).glazeJobs = s.glazeJobs := rfl
@[simp] theorem modEasel_parts (s : State) (e : Nat) (f : Easel → Easel) : (modEasel s e f).parts = s.parts := rfl
@[simp] theorem modEasel_queues (s : State) (e : Nat) (f : Easel → Easel) : (modEasel s e f).queues = s.queues := rfl
@[simp] theorem modEasel_ctxs (s : State) (e : Nat) (f : Easel → Easel) : (modEasel s e f).ctxs = s.ctxs := rfl
@[simp] theorem modEasel_links (s : State) (e : Nat) (f : Easel → Easel) : (modEasel s e f).links = s.links := rfl
@[simp] theorem modEasel_launches (s : State) (e : Nat) (f : Easel → Easel) : (modEasel s e f).launches = s.launches := rfl
@[simp] theorem modEasel_cuts (s : State) (e : Nat) (f : Easel → Easel) : (modEasel s e f).cuts = s.cuts := rfl
@[simp] theorem modEasel_invals (s : State) (e : Nat) (f : Easel → Easel) : (modEasel s e f).invals = s.invals := rfl
@[simp] theorem modEasel_traceQ (s : State) (e : Nat) (f : Easel → Easel) : (modEasel s e f).traceQ = s.traceQ := rfl
@[simp] theorem modEasel_pkg (s : State) (e : Nat) (f : Easel → Easel) : (modEasel s e f).pkg = s.pkg := rfl
@[simp] theorem modEasel_outbox (s : State) (e : Nat) (f : Easel → Easel) : (modEasel s e f).outbox = s.outbox := rfl
@[simp] theorem modEasel_left (s : State) (e : Nat) (f : Easel → Easel) : (modEasel s e f).left = s.left := rfl

/-! modDie writes `dies` alone. -/

@[simp] theorem modDie_agenda (s : State) (d : Nat) (f : Die → Die) : (modDie s d f).agenda = s.agenda := rfl
@[simp] theorem modDie_focus (s : State) (d : Nat) (f : Die → Die) : (modDie s d f).focus = s.focus := rfl
@[simp] theorem modDie_focusSq (s : State) (d : Nat) (f : Die → Die) : (modDie s d f).focusSq = s.focusSq := rfl
@[simp] theorem modDie_microCx (s : State) (d : Nat) (f : Die → Die) : (modDie s d f).microCx = s.microCx := rfl
@[simp] theorem modDie_fresh (s : State) (d : Nat) (f : Die → Die) : (modDie s d f).fresh = s.fresh := rfl
@[simp] theorem modDie_nextId (s : State) (d : Nat) (f : Die → Die) : (modDie s d f).nextId = s.nextId := rfl
@[simp] theorem modDie_time (s : State) (d : Nat) (f : Die → Die) : (modDie s d f).time = s.time := rfl
@[simp] theorem modDie_mem (s : State) (d : Nat) (f : Die → Die) : (modDie s d f).mem = s.mem := rfl
@[simp] theorem modDie_hands (s : State) (d : Nat) (f : Die → Die) : (modDie s d f).hands = s.hands := rfl
@[simp] theorem modDie_preempts (s : State) (d : Nat) (f : Die → Die) : (modDie s d f).preempts = s.preempts := rfl
@[simp] theorem modDie_pushes (s : State) (d : Nat) (f : Die → Die) : (modDie s d f).pushes = s.pushes := rfl
@[simp] theorem modDie_easels (s : State) (d : Nat) (f : Die → Die) : (modDie s d f).easels = s.easels := rfl
@[simp] theorem modDie_groups (s : State) (d : Nat) (f : Die → Die) : (modDie s d f).groups = s.groups := rfl
@[simp] theorem modDie_slots (s : State) (d : Nat) (f : Die → Die) : (modDie s d f).slots = s.slots := rfl
@[simp] theorem modDie_channels (s : State) (d : Nat) (f : Die → Die) : (modDie s d f).channels = s.channels := rfl
@[simp] theorem modDie_glazeJobs (s : State) (d : Nat) (f : Die → Die) : (modDie s d f).glazeJobs = s.glazeJobs := rfl
@[simp] theorem modDie_parts (s : State) (d : Nat) (f : Die → Die) : (modDie s d f).parts = s.parts := rfl
@[simp] theorem modDie_queues (s : State) (d : Nat) (f : Die → Die) : (modDie s d f).queues = s.queues := rfl
@[simp] theorem modDie_ctxs (s : State) (d : Nat) (f : Die → Die) : (modDie s d f).ctxs = s.ctxs := rfl
@[simp] theorem modDie_links (s : State) (d : Nat) (f : Die → Die) : (modDie s d f).links = s.links := rfl
@[simp] theorem modDie_launches (s : State) (d : Nat) (f : Die → Die) : (modDie s d f).launches = s.launches := rfl
@[simp] theorem modDie_cuts (s : State) (d : Nat) (f : Die → Die) : (modDie s d f).cuts = s.cuts := rfl
@[simp] theorem modDie_invals (s : State) (d : Nat) (f : Die → Die) : (modDie s d f).invals = s.invals := rfl
@[simp] theorem modDie_traceQ (s : State) (d : Nat) (f : Die → Die) : (modDie s d f).traceQ = s.traceQ := rfl
@[simp] theorem modDie_pkg (s : State) (d : Nat) (f : Die → Die) : (modDie s d f).pkg = s.pkg := rfl
@[simp] theorem modDie_outbox (s : State) (d : Nat) (f : Die → Die) : (modDie s d f).outbox = s.outbox := rfl
@[simp] theorem modDie_left (s : State) (d : Nat) (f : Die → Die) : (modDie s d f).left = s.left := rfl

/-! modChan writes `channels` alone. -/

@[simp] theorem modChan_agenda (s : State) (c : Nat) (f : Channel → Channel) : (modChan s c f).agenda = s.agenda := rfl
@[simp] theorem modChan_focus (s : State) (c : Nat) (f : Channel → Channel) : (modChan s c f).focus = s.focus := rfl
@[simp] theorem modChan_focusSq (s : State) (c : Nat) (f : Channel → Channel) : (modChan s c f).focusSq = s.focusSq := rfl
@[simp] theorem modChan_microCx (s : State) (c : Nat) (f : Channel → Channel) : (modChan s c f).microCx = s.microCx := rfl
@[simp] theorem modChan_fresh (s : State) (c : Nat) (f : Channel → Channel) : (modChan s c f).fresh = s.fresh := rfl
@[simp] theorem modChan_nextId (s : State) (c : Nat) (f : Channel → Channel) : (modChan s c f).nextId = s.nextId := rfl
@[simp] theorem modChan_time (s : State) (c : Nat) (f : Channel → Channel) : (modChan s c f).time = s.time := rfl
@[simp] theorem modChan_mem (s : State) (c : Nat) (f : Channel → Channel) : (modChan s c f).mem = s.mem := rfl
@[simp] theorem modChan_hands (s : State) (c : Nat) (f : Channel → Channel) : (modChan s c f).hands = s.hands := rfl
@[simp] theorem modChan_preempts (s : State) (c : Nat) (f : Channel → Channel) : (modChan s c f).preempts = s.preempts := rfl
@[simp] theorem modChan_pushes (s : State) (c : Nat) (f : Channel → Channel) : (modChan s c f).pushes = s.pushes := rfl
@[simp] theorem modChan_easels (s : State) (c : Nat) (f : Channel → Channel) : (modChan s c f).easels = s.easels := rfl
@[simp] theorem modChan_groups (s : State) (c : Nat) (f : Channel → Channel) : (modChan s c f).groups = s.groups := rfl
@[simp] theorem modChan_slots (s : State) (c : Nat) (f : Channel → Channel) : (modChan s c f).slots = s.slots := rfl
@[simp] theorem modChan_dies (s : State) (c : Nat) (f : Channel → Channel) : (modChan s c f).dies = s.dies := rfl
@[simp] theorem modChan_glazeJobs (s : State) (c : Nat) (f : Channel → Channel) : (modChan s c f).glazeJobs = s.glazeJobs := rfl
@[simp] theorem modChan_parts (s : State) (c : Nat) (f : Channel → Channel) : (modChan s c f).parts = s.parts := rfl
@[simp] theorem modChan_queues (s : State) (c : Nat) (f : Channel → Channel) : (modChan s c f).queues = s.queues := rfl
@[simp] theorem modChan_ctxs (s : State) (c : Nat) (f : Channel → Channel) : (modChan s c f).ctxs = s.ctxs := rfl
@[simp] theorem modChan_links (s : State) (c : Nat) (f : Channel → Channel) : (modChan s c f).links = s.links := rfl
@[simp] theorem modChan_launches (s : State) (c : Nat) (f : Channel → Channel) : (modChan s c f).launches = s.launches := rfl
@[simp] theorem modChan_cuts (s : State) (c : Nat) (f : Channel → Channel) : (modChan s c f).cuts = s.cuts := rfl
@[simp] theorem modChan_invals (s : State) (c : Nat) (f : Channel → Channel) : (modChan s c f).invals = s.invals := rfl
@[simp] theorem modChan_traceQ (s : State) (c : Nat) (f : Channel → Channel) : (modChan s c f).traceQ = s.traceQ := rfl
@[simp] theorem modChan_pkg (s : State) (c : Nat) (f : Channel → Channel) : (modChan s c f).pkg = s.pkg := rfl
@[simp] theorem modChan_outbox (s : State) (c : Nat) (f : Channel → Channel) : (modChan s c f).outbox = s.outbox := rfl
@[simp] theorem modChan_left (s : State) (c : Nat) (f : Channel → Channel) : (modChan s c f).left = s.left := rfl

/-! modPart writes `parts` alone. -/

@[simp] theorem modPart_agenda (s : State) (p : Nat) (f : Part → Part) : (modPart s p f).agenda = s.agenda := rfl
@[simp] theorem modPart_focus (s : State) (p : Nat) (f : Part → Part) : (modPart s p f).focus = s.focus := rfl
@[simp] theorem modPart_focusSq (s : State) (p : Nat) (f : Part → Part) : (modPart s p f).focusSq = s.focusSq := rfl
@[simp] theorem modPart_microCx (s : State) (p : Nat) (f : Part → Part) : (modPart s p f).microCx = s.microCx := rfl
@[simp] theorem modPart_fresh (s : State) (p : Nat) (f : Part → Part) : (modPart s p f).fresh = s.fresh := rfl
@[simp] theorem modPart_nextId (s : State) (p : Nat) (f : Part → Part) : (modPart s p f).nextId = s.nextId := rfl
@[simp] theorem modPart_time (s : State) (p : Nat) (f : Part → Part) : (modPart s p f).time = s.time := rfl
@[simp] theorem modPart_mem (s : State) (p : Nat) (f : Part → Part) : (modPart s p f).mem = s.mem := rfl
@[simp] theorem modPart_hands (s : State) (p : Nat) (f : Part → Part) : (modPart s p f).hands = s.hands := rfl
@[simp] theorem modPart_preempts (s : State) (p : Nat) (f : Part → Part) : (modPart s p f).preempts = s.preempts := rfl
@[simp] theorem modPart_pushes (s : State) (p : Nat) (f : Part → Part) : (modPart s p f).pushes = s.pushes := rfl
@[simp] theorem modPart_easels (s : State) (p : Nat) (f : Part → Part) : (modPart s p f).easels = s.easels := rfl
@[simp] theorem modPart_groups (s : State) (p : Nat) (f : Part → Part) : (modPart s p f).groups = s.groups := rfl
@[simp] theorem modPart_slots (s : State) (p : Nat) (f : Part → Part) : (modPart s p f).slots = s.slots := rfl
@[simp] theorem modPart_dies (s : State) (p : Nat) (f : Part → Part) : (modPart s p f).dies = s.dies := rfl
@[simp] theorem modPart_channels (s : State) (p : Nat) (f : Part → Part) : (modPart s p f).channels = s.channels := rfl
@[simp] theorem modPart_glazeJobs (s : State) (p : Nat) (f : Part → Part) : (modPart s p f).glazeJobs = s.glazeJobs := rfl
@[simp] theorem modPart_queues (s : State) (p : Nat) (f : Part → Part) : (modPart s p f).queues = s.queues := rfl
@[simp] theorem modPart_ctxs (s : State) (p : Nat) (f : Part → Part) : (modPart s p f).ctxs = s.ctxs := rfl
@[simp] theorem modPart_links (s : State) (p : Nat) (f : Part → Part) : (modPart s p f).links = s.links := rfl
@[simp] theorem modPart_launches (s : State) (p : Nat) (f : Part → Part) : (modPart s p f).launches = s.launches := rfl
@[simp] theorem modPart_cuts (s : State) (p : Nat) (f : Part → Part) : (modPart s p f).cuts = s.cuts := rfl
@[simp] theorem modPart_invals (s : State) (p : Nat) (f : Part → Part) : (modPart s p f).invals = s.invals := rfl
@[simp] theorem modPart_traceQ (s : State) (p : Nat) (f : Part → Part) : (modPart s p f).traceQ = s.traceQ := rfl
@[simp] theorem modPart_pkg (s : State) (p : Nat) (f : Part → Part) : (modPart s p f).pkg = s.pkg := rfl
@[simp] theorem modPart_outbox (s : State) (p : Nat) (f : Part → Part) : (modPart s p f).outbox = s.outbox := rfl
@[simp] theorem modPart_left (s : State) (p : Nat) (f : Part → Part) : (modPart s p f).left = s.left := rfl

/-! modQueue writes `queues` alone. -/

@[simp] theorem modQueue_agenda (s : State) (q : Nat) (f : HwQueue → HwQueue) : (modQueue s q f).agenda = s.agenda := rfl
@[simp] theorem modQueue_focus (s : State) (q : Nat) (f : HwQueue → HwQueue) : (modQueue s q f).focus = s.focus := rfl
@[simp] theorem modQueue_focusSq (s : State) (q : Nat) (f : HwQueue → HwQueue) : (modQueue s q f).focusSq = s.focusSq := rfl
@[simp] theorem modQueue_microCx (s : State) (q : Nat) (f : HwQueue → HwQueue) : (modQueue s q f).microCx = s.microCx := rfl
@[simp] theorem modQueue_fresh (s : State) (q : Nat) (f : HwQueue → HwQueue) : (modQueue s q f).fresh = s.fresh := rfl
@[simp] theorem modQueue_nextId (s : State) (q : Nat) (f : HwQueue → HwQueue) : (modQueue s q f).nextId = s.nextId := rfl
@[simp] theorem modQueue_time (s : State) (q : Nat) (f : HwQueue → HwQueue) : (modQueue s q f).time = s.time := rfl
@[simp] theorem modQueue_mem (s : State) (q : Nat) (f : HwQueue → HwQueue) : (modQueue s q f).mem = s.mem := rfl
@[simp] theorem modQueue_hands (s : State) (q : Nat) (f : HwQueue → HwQueue) : (modQueue s q f).hands = s.hands := rfl
@[simp] theorem modQueue_preempts (s : State) (q : Nat) (f : HwQueue → HwQueue) : (modQueue s q f).preempts = s.preempts := rfl
@[simp] theorem modQueue_pushes (s : State) (q : Nat) (f : HwQueue → HwQueue) : (modQueue s q f).pushes = s.pushes := rfl
@[simp] theorem modQueue_easels (s : State) (q : Nat) (f : HwQueue → HwQueue) : (modQueue s q f).easels = s.easels := rfl
@[simp] theorem modQueue_groups (s : State) (q : Nat) (f : HwQueue → HwQueue) : (modQueue s q f).groups = s.groups := rfl
@[simp] theorem modQueue_slots (s : State) (q : Nat) (f : HwQueue → HwQueue) : (modQueue s q f).slots = s.slots := rfl
@[simp] theorem modQueue_dies (s : State) (q : Nat) (f : HwQueue → HwQueue) : (modQueue s q f).dies = s.dies := rfl
@[simp] theorem modQueue_channels (s : State) (q : Nat) (f : HwQueue → HwQueue) : (modQueue s q f).channels = s.channels := rfl
@[simp] theorem modQueue_glazeJobs (s : State) (q : Nat) (f : HwQueue → HwQueue) : (modQueue s q f).glazeJobs = s.glazeJobs := rfl
@[simp] theorem modQueue_parts (s : State) (q : Nat) (f : HwQueue → HwQueue) : (modQueue s q f).parts = s.parts := rfl
@[simp] theorem modQueue_ctxs (s : State) (q : Nat) (f : HwQueue → HwQueue) : (modQueue s q f).ctxs = s.ctxs := rfl
@[simp] theorem modQueue_links (s : State) (q : Nat) (f : HwQueue → HwQueue) : (modQueue s q f).links = s.links := rfl
@[simp] theorem modQueue_launches (s : State) (q : Nat) (f : HwQueue → HwQueue) : (modQueue s q f).launches = s.launches := rfl
@[simp] theorem modQueue_cuts (s : State) (q : Nat) (f : HwQueue → HwQueue) : (modQueue s q f).cuts = s.cuts := rfl
@[simp] theorem modQueue_invals (s : State) (q : Nat) (f : HwQueue → HwQueue) : (modQueue s q f).invals = s.invals := rfl
@[simp] theorem modQueue_traceQ (s : State) (q : Nat) (f : HwQueue → HwQueue) : (modQueue s q f).traceQ = s.traceQ := rfl
@[simp] theorem modQueue_pkg (s : State) (q : Nat) (f : HwQueue → HwQueue) : (modQueue s q f).pkg = s.pkg := rfl
@[simp] theorem modQueue_outbox (s : State) (q : Nat) (f : HwQueue → HwQueue) : (modQueue s q f).outbox = s.outbox := rfl
@[simp] theorem modQueue_left (s : State) (q : Nat) (f : HwQueue → HwQueue) : (modQueue s q f).left = s.left := rfl

/-! modLaunch writes `launches` alone. -/

@[simp] theorem modLaunch_agenda (s : State) (n : Nat) (f : Launch → Launch) : (modLaunch s n f).agenda = s.agenda := rfl
@[simp] theorem modLaunch_focus (s : State) (n : Nat) (f : Launch → Launch) : (modLaunch s n f).focus = s.focus := rfl
@[simp] theorem modLaunch_focusSq (s : State) (n : Nat) (f : Launch → Launch) : (modLaunch s n f).focusSq = s.focusSq := rfl
@[simp] theorem modLaunch_microCx (s : State) (n : Nat) (f : Launch → Launch) : (modLaunch s n f).microCx = s.microCx := rfl
@[simp] theorem modLaunch_fresh (s : State) (n : Nat) (f : Launch → Launch) : (modLaunch s n f).fresh = s.fresh := rfl
@[simp] theorem modLaunch_nextId (s : State) (n : Nat) (f : Launch → Launch) : (modLaunch s n f).nextId = s.nextId := rfl
@[simp] theorem modLaunch_time (s : State) (n : Nat) (f : Launch → Launch) : (modLaunch s n f).time = s.time := rfl
@[simp] theorem modLaunch_mem (s : State) (n : Nat) (f : Launch → Launch) : (modLaunch s n f).mem = s.mem := rfl
@[simp] theorem modLaunch_hands (s : State) (n : Nat) (f : Launch → Launch) : (modLaunch s n f).hands = s.hands := rfl
@[simp] theorem modLaunch_preempts (s : State) (n : Nat) (f : Launch → Launch) : (modLaunch s n f).preempts = s.preempts := rfl
@[simp] theorem modLaunch_pushes (s : State) (n : Nat) (f : Launch → Launch) : (modLaunch s n f).pushes = s.pushes := rfl
@[simp] theorem modLaunch_easels (s : State) (n : Nat) (f : Launch → Launch) : (modLaunch s n f).easels = s.easels := rfl
@[simp] theorem modLaunch_groups (s : State) (n : Nat) (f : Launch → Launch) : (modLaunch s n f).groups = s.groups := rfl
@[simp] theorem modLaunch_slots (s : State) (n : Nat) (f : Launch → Launch) : (modLaunch s n f).slots = s.slots := rfl
@[simp] theorem modLaunch_dies (s : State) (n : Nat) (f : Launch → Launch) : (modLaunch s n f).dies = s.dies := rfl
@[simp] theorem modLaunch_channels (s : State) (n : Nat) (f : Launch → Launch) : (modLaunch s n f).channels = s.channels := rfl
@[simp] theorem modLaunch_glazeJobs (s : State) (n : Nat) (f : Launch → Launch) : (modLaunch s n f).glazeJobs = s.glazeJobs := rfl
@[simp] theorem modLaunch_parts (s : State) (n : Nat) (f : Launch → Launch) : (modLaunch s n f).parts = s.parts := rfl
@[simp] theorem modLaunch_queues (s : State) (n : Nat) (f : Launch → Launch) : (modLaunch s n f).queues = s.queues := rfl
@[simp] theorem modLaunch_ctxs (s : State) (n : Nat) (f : Launch → Launch) : (modLaunch s n f).ctxs = s.ctxs := rfl
@[simp] theorem modLaunch_links (s : State) (n : Nat) (f : Launch → Launch) : (modLaunch s n f).links = s.links := rfl
@[simp] theorem modLaunch_cuts (s : State) (n : Nat) (f : Launch → Launch) : (modLaunch s n f).cuts = s.cuts := rfl
@[simp] theorem modLaunch_invals (s : State) (n : Nat) (f : Launch → Launch) : (modLaunch s n f).invals = s.invals := rfl
@[simp] theorem modLaunch_traceQ (s : State) (n : Nat) (f : Launch → Launch) : (modLaunch s n f).traceQ = s.traceQ := rfl
@[simp] theorem modLaunch_pkg (s : State) (n : Nat) (f : Launch → Launch) : (modLaunch s n f).pkg = s.pkg := rfl
@[simp] theorem modLaunch_outbox (s : State) (n : Nat) (f : Launch → Launch) : (modLaunch s n f).outbox = s.outbox := rfl
@[simp] theorem modLaunch_left (s : State) (n : Nat) (f : Launch → Launch) : (modLaunch s n f).left = s.left := rfl

/-! modTask writes `launches` alone. -/

@[simp] theorem modTask_agenda (s : State) (n k : Nat) (f : Task → Task) : (modTask s n k f).agenda = s.agenda := rfl
@[simp] theorem modTask_focus (s : State) (n k : Nat) (f : Task → Task) : (modTask s n k f).focus = s.focus := rfl
@[simp] theorem modTask_focusSq (s : State) (n k : Nat) (f : Task → Task) : (modTask s n k f).focusSq = s.focusSq := rfl
@[simp] theorem modTask_microCx (s : State) (n k : Nat) (f : Task → Task) : (modTask s n k f).microCx = s.microCx := rfl
@[simp] theorem modTask_fresh (s : State) (n k : Nat) (f : Task → Task) : (modTask s n k f).fresh = s.fresh := rfl
@[simp] theorem modTask_nextId (s : State) (n k : Nat) (f : Task → Task) : (modTask s n k f).nextId = s.nextId := rfl
@[simp] theorem modTask_time (s : State) (n k : Nat) (f : Task → Task) : (modTask s n k f).time = s.time := rfl
@[simp] theorem modTask_mem (s : State) (n k : Nat) (f : Task → Task) : (modTask s n k f).mem = s.mem := rfl
@[simp] theorem modTask_hands (s : State) (n k : Nat) (f : Task → Task) : (modTask s n k f).hands = s.hands := rfl
@[simp] theorem modTask_preempts (s : State) (n k : Nat) (f : Task → Task) : (modTask s n k f).preempts = s.preempts := rfl
@[simp] theorem modTask_pushes (s : State) (n k : Nat) (f : Task → Task) : (modTask s n k f).pushes = s.pushes := rfl
@[simp] theorem modTask_easels (s : State) (n k : Nat) (f : Task → Task) : (modTask s n k f).easels = s.easels := rfl
@[simp] theorem modTask_groups (s : State) (n k : Nat) (f : Task → Task) : (modTask s n k f).groups = s.groups := rfl
@[simp] theorem modTask_slots (s : State) (n k : Nat) (f : Task → Task) : (modTask s n k f).slots = s.slots := rfl
@[simp] theorem modTask_dies (s : State) (n k : Nat) (f : Task → Task) : (modTask s n k f).dies = s.dies := rfl
@[simp] theorem modTask_channels (s : State) (n k : Nat) (f : Task → Task) : (modTask s n k f).channels = s.channels := rfl
@[simp] theorem modTask_glazeJobs (s : State) (n k : Nat) (f : Task → Task) : (modTask s n k f).glazeJobs = s.glazeJobs := rfl
@[simp] theorem modTask_parts (s : State) (n k : Nat) (f : Task → Task) : (modTask s n k f).parts = s.parts := rfl
@[simp] theorem modTask_queues (s : State) (n k : Nat) (f : Task → Task) : (modTask s n k f).queues = s.queues := rfl
@[simp] theorem modTask_ctxs (s : State) (n k : Nat) (f : Task → Task) : (modTask s n k f).ctxs = s.ctxs := rfl
@[simp] theorem modTask_links (s : State) (n k : Nat) (f : Task → Task) : (modTask s n k f).links = s.links := rfl
@[simp] theorem modTask_cuts (s : State) (n k : Nat) (f : Task → Task) : (modTask s n k f).cuts = s.cuts := rfl
@[simp] theorem modTask_invals (s : State) (n k : Nat) (f : Task → Task) : (modTask s n k f).invals = s.invals := rfl
@[simp] theorem modTask_traceQ (s : State) (n k : Nat) (f : Task → Task) : (modTask s n k f).traceQ = s.traceQ := rfl
@[simp] theorem modTask_pkg (s : State) (n k : Nat) (f : Task → Task) : (modTask s n k f).pkg = s.pkg := rfl
@[simp] theorem modTask_outbox (s : State) (n k : Nat) (f : Task → Task) : (modTask s n k f).outbox = s.outbox := rfl
@[simp] theorem modTask_left (s : State) (n k : Nat) (f : Task → Task) : (modTask s n k f).left = s.left := rfl

/-! ticketed writes `nextId` alone. -/

@[simp] theorem ticketed_agenda (s : State) : (ticketed s).agenda = s.agenda := rfl
@[simp] theorem ticketed_focus (s : State) : (ticketed s).focus = s.focus := rfl
@[simp] theorem ticketed_focusSq (s : State) : (ticketed s).focusSq = s.focusSq := rfl
@[simp] theorem ticketed_microCx (s : State) : (ticketed s).microCx = s.microCx := rfl
@[simp] theorem ticketed_fresh (s : State) : (ticketed s).fresh = s.fresh := rfl
@[simp] theorem ticketed_time (s : State) : (ticketed s).time = s.time := rfl
@[simp] theorem ticketed_mem (s : State) : (ticketed s).mem = s.mem := rfl
@[simp] theorem ticketed_hands (s : State) : (ticketed s).hands = s.hands := rfl
@[simp] theorem ticketed_preempts (s : State) : (ticketed s).preempts = s.preempts := rfl
@[simp] theorem ticketed_pushes (s : State) : (ticketed s).pushes = s.pushes := rfl
@[simp] theorem ticketed_easels (s : State) : (ticketed s).easels = s.easels := rfl
@[simp] theorem ticketed_groups (s : State) : (ticketed s).groups = s.groups := rfl
@[simp] theorem ticketed_slots (s : State) : (ticketed s).slots = s.slots := rfl
@[simp] theorem ticketed_dies (s : State) : (ticketed s).dies = s.dies := rfl
@[simp] theorem ticketed_channels (s : State) : (ticketed s).channels = s.channels := rfl
@[simp] theorem ticketed_glazeJobs (s : State) : (ticketed s).glazeJobs = s.glazeJobs := rfl
@[simp] theorem ticketed_parts (s : State) : (ticketed s).parts = s.parts := rfl
@[simp] theorem ticketed_queues (s : State) : (ticketed s).queues = s.queues := rfl
@[simp] theorem ticketed_ctxs (s : State) : (ticketed s).ctxs = s.ctxs := rfl
@[simp] theorem ticketed_links (s : State) : (ticketed s).links = s.links := rfl
@[simp] theorem ticketed_launches (s : State) : (ticketed s).launches = s.launches := rfl
@[simp] theorem ticketed_cuts (s : State) : (ticketed s).cuts = s.cuts := rfl
@[simp] theorem ticketed_invals (s : State) : (ticketed s).invals = s.invals := rfl
@[simp] theorem ticketed_traceQ (s : State) : (ticketed s).traceQ = s.traceQ := rfl
@[simp] theorem ticketed_pkg (s : State) : (ticketed s).pkg = s.pkg := rfl
@[simp] theorem ticketed_outbox (s : State) : (ticketed s).outbox = s.outbox := rfl
@[simp] theorem ticketed_left (s : State) : (ticketed s).left = s.left := rfl

/-! emit writes `outbox` alone. -/

@[simp] theorem emit_agenda (s : State) (m : OutMsg) : (emit s m).agenda = s.agenda := rfl
@[simp] theorem emit_focus (s : State) (m : OutMsg) : (emit s m).focus = s.focus := rfl
@[simp] theorem emit_focusSq (s : State) (m : OutMsg) : (emit s m).focusSq = s.focusSq := rfl
@[simp] theorem emit_microCx (s : State) (m : OutMsg) : (emit s m).microCx = s.microCx := rfl
@[simp] theorem emit_fresh (s : State) (m : OutMsg) : (emit s m).fresh = s.fresh := rfl
@[simp] theorem emit_nextId (s : State) (m : OutMsg) : (emit s m).nextId = s.nextId := rfl
@[simp] theorem emit_time (s : State) (m : OutMsg) : (emit s m).time = s.time := rfl
@[simp] theorem emit_mem (s : State) (m : OutMsg) : (emit s m).mem = s.mem := rfl
@[simp] theorem emit_hands (s : State) (m : OutMsg) : (emit s m).hands = s.hands := rfl
@[simp] theorem emit_preempts (s : State) (m : OutMsg) : (emit s m).preempts = s.preempts := rfl
@[simp] theorem emit_pushes (s : State) (m : OutMsg) : (emit s m).pushes = s.pushes := rfl
@[simp] theorem emit_easels (s : State) (m : OutMsg) : (emit s m).easels = s.easels := rfl
@[simp] theorem emit_groups (s : State) (m : OutMsg) : (emit s m).groups = s.groups := rfl
@[simp] theorem emit_slots (s : State) (m : OutMsg) : (emit s m).slots = s.slots := rfl
@[simp] theorem emit_dies (s : State) (m : OutMsg) : (emit s m).dies = s.dies := rfl
@[simp] theorem emit_channels (s : State) (m : OutMsg) : (emit s m).channels = s.channels := rfl
@[simp] theorem emit_glazeJobs (s : State) (m : OutMsg) : (emit s m).glazeJobs = s.glazeJobs := rfl
@[simp] theorem emit_parts (s : State) (m : OutMsg) : (emit s m).parts = s.parts := rfl
@[simp] theorem emit_queues (s : State) (m : OutMsg) : (emit s m).queues = s.queues := rfl
@[simp] theorem emit_ctxs (s : State) (m : OutMsg) : (emit s m).ctxs = s.ctxs := rfl
@[simp] theorem emit_links (s : State) (m : OutMsg) : (emit s m).links = s.links := rfl
@[simp] theorem emit_launches (s : State) (m : OutMsg) : (emit s m).launches = s.launches := rfl
@[simp] theorem emit_cuts (s : State) (m : OutMsg) : (emit s m).cuts = s.cuts := rfl
@[simp] theorem emit_invals (s : State) (m : OutMsg) : (emit s m).invals = s.invals := rfl
@[simp] theorem emit_traceQ (s : State) (m : OutMsg) : (emit s m).traceQ = s.traceQ := rfl
@[simp] theorem emit_pkg (s : State) (m : OutMsg) : (emit s m).pkg = s.pkg := rfl

/-! count writes `pkg` alone. -/

@[simp] theorem count_agenda (s : State) (gr u i n : Nat) : (count s gr u i n).agenda = s.agenda := rfl
@[simp] theorem count_focus (s : State) (gr u i n : Nat) : (count s gr u i n).focus = s.focus := rfl
@[simp] theorem count_focusSq (s : State) (gr u i n : Nat) : (count s gr u i n).focusSq = s.focusSq := rfl
@[simp] theorem count_microCx (s : State) (gr u i n : Nat) : (count s gr u i n).microCx = s.microCx := rfl
@[simp] theorem count_fresh (s : State) (gr u i n : Nat) : (count s gr u i n).fresh = s.fresh := rfl
@[simp] theorem count_nextId (s : State) (gr u i n : Nat) : (count s gr u i n).nextId = s.nextId := rfl
@[simp] theorem count_time (s : State) (gr u i n : Nat) : (count s gr u i n).time = s.time := rfl
@[simp] theorem count_mem (s : State) (gr u i n : Nat) : (count s gr u i n).mem = s.mem := rfl
@[simp] theorem count_hands (s : State) (gr u i n : Nat) : (count s gr u i n).hands = s.hands := rfl
@[simp] theorem count_preempts (s : State) (gr u i n : Nat) : (count s gr u i n).preempts = s.preempts := rfl
@[simp] theorem count_pushes (s : State) (gr u i n : Nat) : (count s gr u i n).pushes = s.pushes := rfl
@[simp] theorem count_easels (s : State) (gr u i n : Nat) : (count s gr u i n).easels = s.easels := rfl
@[simp] theorem count_groups (s : State) (gr u i n : Nat) : (count s gr u i n).groups = s.groups := rfl
@[simp] theorem count_slots (s : State) (gr u i n : Nat) : (count s gr u i n).slots = s.slots := rfl
@[simp] theorem count_dies (s : State) (gr u i n : Nat) : (count s gr u i n).dies = s.dies := rfl
@[simp] theorem count_channels (s : State) (gr u i n : Nat) : (count s gr u i n).channels = s.channels := rfl
@[simp] theorem count_glazeJobs (s : State) (gr u i n : Nat) : (count s gr u i n).glazeJobs = s.glazeJobs := rfl
@[simp] theorem count_parts (s : State) (gr u i n : Nat) : (count s gr u i n).parts = s.parts := rfl
@[simp] theorem count_queues (s : State) (gr u i n : Nat) : (count s gr u i n).queues = s.queues := rfl
@[simp] theorem count_ctxs (s : State) (gr u i n : Nat) : (count s gr u i n).ctxs = s.ctxs := rfl
@[simp] theorem count_links (s : State) (gr u i n : Nat) : (count s gr u i n).links = s.links := rfl
@[simp] theorem count_launches (s : State) (gr u i n : Nat) : (count s gr u i n).launches = s.launches := rfl
@[simp] theorem count_cuts (s : State) (gr u i n : Nat) : (count s gr u i n).cuts = s.cuts := rfl
@[simp] theorem count_invals (s : State) (gr u i n : Nat) : (count s gr u i n).invals = s.invals := rfl
@[simp] theorem count_traceQ (s : State) (gr u i n : Nat) : (count s gr u i n).traceQ = s.traceQ := rfl
@[simp] theorem count_outbox (s : State) (gr u i n : Nat) : (count s gr u i n).outbox = s.outbox := rfl
@[simp] theorem count_left (s : State) (gr u i n : Nat) : (count s gr u i n).left = s.left := rfl

/-! trace writes `traceQ` alone. -/

@[simp] theorem trace_agenda (s : State) (g kind : Nat) (q : SeqId) (d0 d1 : Word) : (trace s g kind q d0 d1).agenda = s.agenda := rfl
@[simp] theorem trace_focus (s : State) (g kind : Nat) (q : SeqId) (d0 d1 : Word) : (trace s g kind q d0 d1).focus = s.focus := rfl
@[simp] theorem trace_focusSq (s : State) (g kind : Nat) (q : SeqId) (d0 d1 : Word) : (trace s g kind q d0 d1).focusSq = s.focusSq := rfl
@[simp] theorem trace_microCx (s : State) (g kind : Nat) (q : SeqId) (d0 d1 : Word) : (trace s g kind q d0 d1).microCx = s.microCx := rfl
@[simp] theorem trace_fresh (s : State) (g kind : Nat) (q : SeqId) (d0 d1 : Word) : (trace s g kind q d0 d1).fresh = s.fresh := rfl
@[simp] theorem trace_nextId (s : State) (g kind : Nat) (q : SeqId) (d0 d1 : Word) : (trace s g kind q d0 d1).nextId = s.nextId := rfl
@[simp] theorem trace_time (s : State) (g kind : Nat) (q : SeqId) (d0 d1 : Word) : (trace s g kind q d0 d1).time = s.time := rfl
@[simp] theorem trace_mem (s : State) (g kind : Nat) (q : SeqId) (d0 d1 : Word) : (trace s g kind q d0 d1).mem = s.mem := rfl
@[simp] theorem trace_hands (s : State) (g kind : Nat) (q : SeqId) (d0 d1 : Word) : (trace s g kind q d0 d1).hands = s.hands := rfl
@[simp] theorem trace_preempts (s : State) (g kind : Nat) (q : SeqId) (d0 d1 : Word) : (trace s g kind q d0 d1).preempts = s.preempts := rfl
@[simp] theorem trace_pushes (s : State) (g kind : Nat) (q : SeqId) (d0 d1 : Word) : (trace s g kind q d0 d1).pushes = s.pushes := rfl
@[simp] theorem trace_easels (s : State) (g kind : Nat) (q : SeqId) (d0 d1 : Word) : (trace s g kind q d0 d1).easels = s.easels := rfl
@[simp] theorem trace_groups (s : State) (g kind : Nat) (q : SeqId) (d0 d1 : Word) : (trace s g kind q d0 d1).groups = s.groups := rfl
@[simp] theorem trace_slots (s : State) (g kind : Nat) (q : SeqId) (d0 d1 : Word) : (trace s g kind q d0 d1).slots = s.slots := rfl
@[simp] theorem trace_dies (s : State) (g kind : Nat) (q : SeqId) (d0 d1 : Word) : (trace s g kind q d0 d1).dies = s.dies := rfl
@[simp] theorem trace_channels (s : State) (g kind : Nat) (q : SeqId) (d0 d1 : Word) : (trace s g kind q d0 d1).channels = s.channels := rfl
@[simp] theorem trace_glazeJobs (s : State) (g kind : Nat) (q : SeqId) (d0 d1 : Word) : (trace s g kind q d0 d1).glazeJobs = s.glazeJobs := rfl
@[simp] theorem trace_parts (s : State) (g kind : Nat) (q : SeqId) (d0 d1 : Word) : (trace s g kind q d0 d1).parts = s.parts := rfl
@[simp] theorem trace_queues (s : State) (g kind : Nat) (q : SeqId) (d0 d1 : Word) : (trace s g kind q d0 d1).queues = s.queues := rfl
@[simp] theorem trace_ctxs (s : State) (g kind : Nat) (q : SeqId) (d0 d1 : Word) : (trace s g kind q d0 d1).ctxs = s.ctxs := rfl
@[simp] theorem trace_links (s : State) (g kind : Nat) (q : SeqId) (d0 d1 : Word) : (trace s g kind q d0 d1).links = s.links := rfl
@[simp] theorem trace_launches (s : State) (g kind : Nat) (q : SeqId) (d0 d1 : Word) : (trace s g kind q d0 d1).launches = s.launches := rfl
@[simp] theorem trace_cuts (s : State) (g kind : Nat) (q : SeqId) (d0 d1 : Word) : (trace s g kind q d0 d1).cuts = s.cuts := rfl
@[simp] theorem trace_invals (s : State) (g kind : Nat) (q : SeqId) (d0 d1 : Word) : (trace s g kind q d0 d1).invals = s.invals := rfl
@[simp] theorem trace_pkg (s : State) (g kind : Nat) (q : SeqId) (d0 d1 : Word) : (trace s g kind q d0 d1).pkg = s.pkg := rfl
@[simp] theorem trace_outbox (s : State) (g kind : Nat) (q : SeqId) (d0 d1 : Word) : (trace s g kind q d0 d1).outbox = s.outbox := rfl
@[simp] theorem trace_left (s : State) (g kind : Nat) (q : SeqId) (d0 d1 : Word) : (trace s g kind q d0 d1).left = s.left := rfl

/-! modSaved writes `preempts` alone. -/

@[simp] theorem modSaved_agenda (s : State) (p : Nat → Bool) (f : Preempt → Preempt) : (modSaved s p f).agenda = s.agenda := rfl
@[simp] theorem modSaved_focus (s : State) (p : Nat → Bool) (f : Preempt → Preempt) : (modSaved s p f).focus = s.focus := rfl
@[simp] theorem modSaved_focusSq (s : State) (p : Nat → Bool) (f : Preempt → Preempt) : (modSaved s p f).focusSq = s.focusSq := rfl
@[simp] theorem modSaved_microCx (s : State) (p : Nat → Bool) (f : Preempt → Preempt) : (modSaved s p f).microCx = s.microCx := rfl
@[simp] theorem modSaved_fresh (s : State) (p : Nat → Bool) (f : Preempt → Preempt) : (modSaved s p f).fresh = s.fresh := rfl
@[simp] theorem modSaved_nextId (s : State) (p : Nat → Bool) (f : Preempt → Preempt) : (modSaved s p f).nextId = s.nextId := rfl
@[simp] theorem modSaved_time (s : State) (p : Nat → Bool) (f : Preempt → Preempt) : (modSaved s p f).time = s.time := rfl
@[simp] theorem modSaved_mem (s : State) (p : Nat → Bool) (f : Preempt → Preempt) : (modSaved s p f).mem = s.mem := rfl
@[simp] theorem modSaved_hands (s : State) (p : Nat → Bool) (f : Preempt → Preempt) : (modSaved s p f).hands = s.hands := rfl
@[simp] theorem modSaved_pushes (s : State) (p : Nat → Bool) (f : Preempt → Preempt) : (modSaved s p f).pushes = s.pushes := rfl
@[simp] theorem modSaved_easels (s : State) (p : Nat → Bool) (f : Preempt → Preempt) : (modSaved s p f).easels = s.easels := rfl
@[simp] theorem modSaved_groups (s : State) (p : Nat → Bool) (f : Preempt → Preempt) : (modSaved s p f).groups = s.groups := rfl
@[simp] theorem modSaved_slots (s : State) (p : Nat → Bool) (f : Preempt → Preempt) : (modSaved s p f).slots = s.slots := rfl
@[simp] theorem modSaved_dies (s : State) (p : Nat → Bool) (f : Preempt → Preempt) : (modSaved s p f).dies = s.dies := rfl
@[simp] theorem modSaved_channels (s : State) (p : Nat → Bool) (f : Preempt → Preempt) : (modSaved s p f).channels = s.channels := rfl
@[simp] theorem modSaved_glazeJobs (s : State) (p : Nat → Bool) (f : Preempt → Preempt) : (modSaved s p f).glazeJobs = s.glazeJobs := rfl
@[simp] theorem modSaved_parts (s : State) (p : Nat → Bool) (f : Preempt → Preempt) : (modSaved s p f).parts = s.parts := rfl
@[simp] theorem modSaved_queues (s : State) (p : Nat → Bool) (f : Preempt → Preempt) : (modSaved s p f).queues = s.queues := rfl
@[simp] theorem modSaved_ctxs (s : State) (p : Nat → Bool) (f : Preempt → Preempt) : (modSaved s p f).ctxs = s.ctxs := rfl
@[simp] theorem modSaved_links (s : State) (p : Nat → Bool) (f : Preempt → Preempt) : (modSaved s p f).links = s.links := rfl
@[simp] theorem modSaved_launches (s : State) (p : Nat → Bool) (f : Preempt → Preempt) : (modSaved s p f).launches = s.launches := rfl
@[simp] theorem modSaved_cuts (s : State) (p : Nat → Bool) (f : Preempt → Preempt) : (modSaved s p f).cuts = s.cuts := rfl
@[simp] theorem modSaved_invals (s : State) (p : Nat → Bool) (f : Preempt → Preempt) : (modSaved s p f).invals = s.invals := rfl
@[simp] theorem modSaved_traceQ (s : State) (p : Nat → Bool) (f : Preempt → Preempt) : (modSaved s p f).traceQ = s.traceQ := rfl
@[simp] theorem modSaved_pkg (s : State) (p : Nat → Bool) (f : Preempt → Preempt) : (modSaved s p f).pkg = s.pkg := rfl
@[simp] theorem modSaved_outbox (s : State) (p : Nat → Bool) (f : Preempt → Preempt) : (modSaved s p f).outbox = s.outbox := rfl
@[simp] theorem modSaved_left (s : State) (p : Nat → Bool) (f : Preempt → Preempt) : (modSaved s p f).left = s.left := rfl

/-! traceLeaf writes `traceQ` alone. -/

@[simp] theorem traceLeaf_agenda (s : State) (g : Nat) (b : Option Bound) (kind : Nat) (q : SeqId) (d0 d1 : Word) : (traceLeaf s g b kind q d0 d1).agenda = s.agenda := rfl
@[simp] theorem traceLeaf_focus (s : State) (g : Nat) (b : Option Bound) (kind : Nat) (q : SeqId) (d0 d1 : Word) : (traceLeaf s g b kind q d0 d1).focus = s.focus := rfl
@[simp] theorem traceLeaf_focusSq (s : State) (g : Nat) (b : Option Bound) (kind : Nat) (q : SeqId) (d0 d1 : Word) : (traceLeaf s g b kind q d0 d1).focusSq = s.focusSq := rfl
@[simp] theorem traceLeaf_microCx (s : State) (g : Nat) (b : Option Bound) (kind : Nat) (q : SeqId) (d0 d1 : Word) : (traceLeaf s g b kind q d0 d1).microCx = s.microCx := rfl
@[simp] theorem traceLeaf_fresh (s : State) (g : Nat) (b : Option Bound) (kind : Nat) (q : SeqId) (d0 d1 : Word) : (traceLeaf s g b kind q d0 d1).fresh = s.fresh := rfl
@[simp] theorem traceLeaf_nextId (s : State) (g : Nat) (b : Option Bound) (kind : Nat) (q : SeqId) (d0 d1 : Word) : (traceLeaf s g b kind q d0 d1).nextId = s.nextId := rfl
@[simp] theorem traceLeaf_time (s : State) (g : Nat) (b : Option Bound) (kind : Nat) (q : SeqId) (d0 d1 : Word) : (traceLeaf s g b kind q d0 d1).time = s.time := rfl
@[simp] theorem traceLeaf_mem (s : State) (g : Nat) (b : Option Bound) (kind : Nat) (q : SeqId) (d0 d1 : Word) : (traceLeaf s g b kind q d0 d1).mem = s.mem := rfl
@[simp] theorem traceLeaf_hands (s : State) (g : Nat) (b : Option Bound) (kind : Nat) (q : SeqId) (d0 d1 : Word) : (traceLeaf s g b kind q d0 d1).hands = s.hands := rfl
@[simp] theorem traceLeaf_preempts (s : State) (g : Nat) (b : Option Bound) (kind : Nat) (q : SeqId) (d0 d1 : Word) : (traceLeaf s g b kind q d0 d1).preempts = s.preempts := rfl
@[simp] theorem traceLeaf_pushes (s : State) (g : Nat) (b : Option Bound) (kind : Nat) (q : SeqId) (d0 d1 : Word) : (traceLeaf s g b kind q d0 d1).pushes = s.pushes := rfl
@[simp] theorem traceLeaf_easels (s : State) (g : Nat) (b : Option Bound) (kind : Nat) (q : SeqId) (d0 d1 : Word) : (traceLeaf s g b kind q d0 d1).easels = s.easels := rfl
@[simp] theorem traceLeaf_groups (s : State) (g : Nat) (b : Option Bound) (kind : Nat) (q : SeqId) (d0 d1 : Word) : (traceLeaf s g b kind q d0 d1).groups = s.groups := rfl
@[simp] theorem traceLeaf_slots (s : State) (g : Nat) (b : Option Bound) (kind : Nat) (q : SeqId) (d0 d1 : Word) : (traceLeaf s g b kind q d0 d1).slots = s.slots := rfl
@[simp] theorem traceLeaf_dies (s : State) (g : Nat) (b : Option Bound) (kind : Nat) (q : SeqId) (d0 d1 : Word) : (traceLeaf s g b kind q d0 d1).dies = s.dies := rfl
@[simp] theorem traceLeaf_channels (s : State) (g : Nat) (b : Option Bound) (kind : Nat) (q : SeqId) (d0 d1 : Word) : (traceLeaf s g b kind q d0 d1).channels = s.channels := rfl
@[simp] theorem traceLeaf_glazeJobs (s : State) (g : Nat) (b : Option Bound) (kind : Nat) (q : SeqId) (d0 d1 : Word) : (traceLeaf s g b kind q d0 d1).glazeJobs = s.glazeJobs := rfl
@[simp] theorem traceLeaf_parts (s : State) (g : Nat) (b : Option Bound) (kind : Nat) (q : SeqId) (d0 d1 : Word) : (traceLeaf s g b kind q d0 d1).parts = s.parts := rfl
@[simp] theorem traceLeaf_queues (s : State) (g : Nat) (b : Option Bound) (kind : Nat) (q : SeqId) (d0 d1 : Word) : (traceLeaf s g b kind q d0 d1).queues = s.queues := rfl
@[simp] theorem traceLeaf_ctxs (s : State) (g : Nat) (b : Option Bound) (kind : Nat) (q : SeqId) (d0 d1 : Word) : (traceLeaf s g b kind q d0 d1).ctxs = s.ctxs := rfl
@[simp] theorem traceLeaf_links (s : State) (g : Nat) (b : Option Bound) (kind : Nat) (q : SeqId) (d0 d1 : Word) : (traceLeaf s g b kind q d0 d1).links = s.links := rfl
@[simp] theorem traceLeaf_launches (s : State) (g : Nat) (b : Option Bound) (kind : Nat) (q : SeqId) (d0 d1 : Word) : (traceLeaf s g b kind q d0 d1).launches = s.launches := rfl
@[simp] theorem traceLeaf_cuts (s : State) (g : Nat) (b : Option Bound) (kind : Nat) (q : SeqId) (d0 d1 : Word) : (traceLeaf s g b kind q d0 d1).cuts = s.cuts := rfl
@[simp] theorem traceLeaf_invals (s : State) (g : Nat) (b : Option Bound) (kind : Nat) (q : SeqId) (d0 d1 : Word) : (traceLeaf s g b kind q d0 d1).invals = s.invals := rfl
@[simp] theorem traceLeaf_pkg (s : State) (g : Nat) (b : Option Bound) (kind : Nat) (q : SeqId) (d0 d1 : Word) : (traceLeaf s g b kind q d0 d1).pkg = s.pkg := rfl
@[simp] theorem traceLeaf_outbox (s : State) (g : Nat) (b : Option Bound) (kind : Nat) (q : SeqId) (d0 d1 : Word) : (traceLeaf s g b kind q d0 d1).outbox = s.outbox := rfl
@[simp] theorem traceLeaf_left (s : State) (g : Nat) (b : Option Bound) (kind : Nat) (q : SeqId) (d0 d1 : Word) : (traceLeaf s g b kind q d0 d1).left = s.left := rfl

end Sys2Proof.Machine
end

