-- ==== Sys2Proof/Laws/Table.lean ====
section
/-! SUPPORT. Laws of the sparse tables: what a key reads after another key is written. -/

namespace Sys2Proof.Machine

@[simp] theorem tget_nil {α : Type} (d : α) (k : Nat) : tget d [] k = d := rfl

theorem tget_filter_ne {α : Type} (d : α) (t : Table α) (j k : Nat) (h : j ≠ k) :
    tget d (t.filter (fun e => decide (e.1 ≠ k))) j = tget d t j := by
  induction t with
  | nil => rfl
  | cons e r ih =>
    by_cases he : e.1 = k
    · simp only [List.filter_cons, he, ne_eq, not_true_eq_false, decide_false, Bool.false_eq_true, if_false, tget]
      rw [if_neg (fun hh => h hh.symm)]
      simpa using ih
    · simp only [List.filter_cons, he, ne_eq, not_false_eq_true, decide_true, if_true, tget]
      split
      · rfl
      · simpa using ih

/-- The key written reads as written. -/
@[simp] theorem tget_tput_self {α : Type} (d : α) (t : Table α) (k : Nat) (v : α) : tget d (tput t k v) k = v := by
  simp [tput, tget]

/-- Every other key reads as before. -/
@[simp] theorem tget_tput_ne {α : Type} (d : α) (t : Table α) {j k : Nat} (v : α) (h : j ≠ k) :
    tget d (tput t k v) j = tget d t j := by
  simp only [tput, tget]
  rw [if_neg (fun hh => h hh.symm), tget_filter_ne d t j k h]

theorem tget_tput {α : Type} (d : α) (t : Table α) (j k : Nat) (v : α) :
    tget d (tput t k v) j = if j = k then v else tget d t j := by
  by_cases h : j = k
  · subst h; simp
  · simp [h]

@[simp] theorem tget_tmod_self {α : Type} (d : α) (t : Table α) (k : Nat) (f : α → α) : tget d (tmod d t k f) k = f (tget d t k) := by
  simp [tmod]

@[simp] theorem tget_tmod_ne {α : Type} (d : α) (t : Table α) {j k : Nat} (f : α → α) (h : j ≠ k) :
    tget d (tmod d t k f) j = tget d t j := by
  simp [tmod, h]

@[simp] theorem tget_tdel_self {α : Type} (d : α) (t : Table α) (k : Nat) : tget d (tdel t k) k = d := by
  induction t with
  | nil => rfl
  | cons e r ih =>
    by_cases he : e.1 = k <;> simp_all [tdel, tget]

end Sys2Proof.Machine
end

