-- ==== Sys2Proof/Laws/State.lean ====
section
/-! SUPPORT. Laws of the state's named updates: one for each field that an update reaches, and one that says the rest of the
state is untouched. -/

namespace Sys2Proof.Machine

/-! ### Hands and sequencers -/

@[simp] theorem handOf_setHand_self (s : State) (g : Nat) (h : Hand) : handOf (setHand s g h) g = h := by
  simp [handOf, setHand]

@[simp] theorem handOf_setHand_ne (s : State) {g g' : Nat} (h : Hand) (hn : g' ≠ g) : handOf (setHand s g h) g' = handOf s g' := by
  simp [handOf, setHand, hn]

@[simp] theorem handOf_modHand_self (s : State) (g : Nat) (f : Hand → Hand) : handOf (modHand s g f) g = f (handOf s g) := by
  simp [modHand]

@[simp] theorem handOf_modHand_ne (s : State) {g g' : Nat} (f : Hand → Hand) (hn : g' ≠ g) :
    handOf (modHand s g f) g' = handOf s g' := by
  simp [modHand, hn]

theorem setHand_eq (s : State) (g : Nat) (h : Hand) : setHand s g h = { s with hands := (setHand s g h).hands } := rfl

theorem modHand_eq (s : State) (g : Nat) (f : Hand → Hand) : modHand s g f = { s with hands := (modHand s g f).hands } := rfl

@[simp] theorem seqOf_setSeq_self (h : Hand) (q : SeqId) (v : Seqr) : seqOf (setSeq h q v) q = v := by cases q <;> rfl

@[simp] theorem seqOf_setSeq_ne (h : Hand) {q q' : SeqId} (v : Seqr) (hn : q' ≠ q) : seqOf (setSeq h q v) q' = seqOf h q' := by
  cases q <;> cases q' <;> first | rfl | exact absurd rfl hn

@[simp] theorem seqOf_modSeq_self (h : Hand) (q : SeqId) (f : Seqr → Seqr) : seqOf (modSeq h q f) q = f (seqOf h q) := by
  simp [modSeq]

@[simp] theorem seqOf_modSeq_ne (h : Hand) {q q' : SeqId} (f : Seqr → Seqr) (hn : q' ≠ q) : seqOf (modSeq h q f) q' = seqOf h q' := by
  simp [modSeq, hn]

@[simp] theorem sqOf_modSq_self (s : State) (g : Nat) (q : SeqId) (f : Seqr → Seqr) : sqOf (modSq s g q f) g q = f (sqOf s g q) := by
  simp [sqOf, modSq]

@[simp] theorem sqOf_modSq_ne (s : State) (g : Nat) {q q' : SeqId} (f : Seqr → Seqr) (hn : q' ≠ q) :
    sqOf (modSq s g q f) g q' = sqOf s g q' := by
  simp [sqOf, modSq, hn]

@[simp] theorem handOf_modSq_ne (s : State) {g g' : Nat} (q : SeqId) (f : Seqr → Seqr) (hn : g' ≠ g) :
    handOf (modSq s g q f) g' = handOf s g' := by
  simp [modSq, hn]

end Sys2Proof.Machine
end

