-- ==== Sys2Proof/Laws/Issue.lean ====
section
/-! SUPPORT. Laws of the issue point: what issue answers when the instruction issues, is refused by a check of R92, or
waits. Later proofs cite these and do not unfold the gate. -/

namespace Sys2Proof.Machine

theorem barrierPending_iff (z : Seqr) : z.awaits.isSome = true ↔ barrierPending z := by
  simp [barrierPending, Option.isSome_iff_ne_none]

/-- A landing of C is not due. -/
theorem Standing.not_due {s : State} (h : Standing s) :
    ¬(s.focusSq = .c ∧ (handOf s s.focus).landings.any (fun l => l.rem == 0) = true) := by
  rintro ⟨hc, ha⟩
  obtain ⟨l, hl, hz⟩ := List.any_eq_true.1 ha
  exact h.noDue hc l hl (by simpa using hz)

theorem none_pending {z : Seqr} {l : List (BitVec 5)} (h : ∀ n ∈ l, regPending z n = false) : l.any (regPending z) = false := by
  rw [← Bool.not_eq_true, List.any_eq_true]
  rintro ⟨n, hn, hv⟩
  rw [h n hn] at hv
  cases hv

/-- What stands before an instruction's own checks does not hold it: what the gate answers decides. -/
theorem issue_atHead {s : State} (hh : AtHead s) (k : Tok) (r : Req) (body : State → List (Word × Tag) → Nat → Res) :
    (∀ c o, gate s s.focus s.focusSq k r = .illegal c o → issue s k r body =
      .next (takeTrap s s.focus s.focusSq 1 (illegalInfo c o (headWord (sqOf s s.focus s.focusSq))))) ∧
    (∀ w, gate s s.focus s.focusSq k r = .wait w → issue s k r body = .next (stalled s s.focus s.focusSq w)) ∧
    (∀ s' vals t, gate s s.focus s.focusSq k r = .go s' vals t → issue s k r body = body s' vals t) := by
  have h1 := mt (barrierPending_iff _).1 hh.noBarrier
  have h3 : ¬(s.focusSq = .x ∧ (handOf s s.focus).heldMc.isSome = true ∧ ¬(handOf s s.focus).sup = true) := by
    rintro ⟨hx, hm, hs⟩
    rcases hh.noMc hx with h | h
    · simp [h] at hm
    · exact hs h
  refine ⟨fun c o hg => ?_, fun w hg => ?_, fun s' vals t hg => ?_⟩ <;>
    simp only [issue, hh.live, not_true_eq_false, if_false, if_neg hh.not_due, if_neg h1, if_neg h3, hh.noStop, hg]

/-- A check of R92 that fails makes the issue trap. -/
theorem issue_illegal {s : State} (hh : AtHead s) {k : Tok} {r : Req} {c o : Nat}
    (hc : checks (handOf s s.focus) s.focus s.focusSq r = some (c, o)) (body : State → List (Word × Tag) → Nat → Res) :
    issue s k r body = .next (takeTrap s s.focus s.focusSq 1 (illegalInfo c o (headWord (sqOf s s.focus s.focusSq)))) :=
  (issue_atHead hh k r body).1 c o (by simp only [gate, hc])

/-- A barrier operation of the sequencer is outstanding (R267). -/
theorem issue_wait_barrier {s : State} (hh : Standing s) (k : Tok) (r : Req) (hb : barrierPending (sqOf s s.focus s.focusSq))
    (body : State → List (Word × Tag) → Nat → Res) :
    issue s k r body = .next (stalled s s.focus s.focusSq 9) := by
  simp only [issue, hh.live, not_true_eq_false, if_false, if_neg hh.not_due, (barrierPending_iff _).2 hb, if_true]

/-- A register of the instruction waits for a load or a reply (R100, R141). -/
theorem issue_wait_pending {s : State} (hh : AtHead s) {k : Tok} {r : Req}
    (hc : checks (handOf s s.focus) s.focus s.focusSq r = none)
    (hp : (reqRegs r).any (regPending (sqOf s s.focus s.focusSq)) = true)
    (body : State → List (Word × Tag) → Nat → Res) :
    issue s k r body = .next (stalled s s.focus s.focusSq 7) := by
  refine (issue_atHead hh k r body).2.1 7 ?_
  rw [sqOf] at hp
  simp only [gate, hc, hp, if_true]

/-- A token condition of R69 fails. -/
theorem issue_wait_token {s : State} (hh : AtHead s) {k : Tok} {r : Req}
    (hc : checks (handOf s s.focus) s.focus s.focusSq r = none)
    (hp : ∀ n ∈ reqRegs r, regPending (sqOf s s.focus s.focusSq) n = false) {w : Nat}
    (ht : tokenWait (handOf s s.focus) s.focusSq k = some w) (body : State → List (Word × Tag) → Nat → Res) :
    issue s k r body = .next (stalled s s.focus s.focusSq w) := by
  refine (issue_atHead hh k r body).2.1 w ?_
  have h2 := none_pending hp
  rw [sqOf] at h2
  simp only [gate, hc, h2, ht, Bool.false_eq_true, if_false]

@[simp] theorem discardClean_nextId (s : State) (d : Nat) : (discardClean s d).nextId = s.nextId := rfl

@[simp] theorem chanAdd_nextId (s : State) (g n : Nat) (e : ChanEntry) : (chanAdd s g n e).nextId = s.nextId := rfl

theorem pushWaiting_nextId (g : Nat) (l : List EngPush) : ∀ (s : State) (full : List Nat), (pushWaiting s g full l).1.nextId = s.nextId := by
  induction l with
  | nil => intros; rfl
  | cons p r ih =>
    intro s full
    simp only [pushWaiting]
    split
    · split
      · rw [ih]; rfl
      · exact ih _ _
    · split
      · exact ih _ _
      · exact ih _ _

@[simp] theorem drainPushes_nextId (s : State) (g : Nat) : (drainPushes s g).nextId = s.nextId := pushWaiting_nextId g _ s []

@[simp] theorem popAcquire_nextId (s : State) (g : Nat) (l : List Src) : (popAcquire s g l).nextId = s.nextId := by
  simp only [popAcquire]
  split <;> split <;> simp

/-- The issue of an instruction that nothing holds back is its body, at the state in which its operands are read. -/
theorem issue_issues {s : State} {k : Tok} {r : Req} {h : Hand} {vals : List (Word × Tag)} (hi : Issues s k r h vals)
    (body : State → List (Word × Tag) → Nat → Res) :
    issue s k r body = body (opened s k r h) vals s.nextId := by
  refine (issue_atHead hi.toAtHead k r body).2.2 _ _ _ ?_
  have h2 := none_pending hi.noPending
  have h3 : ¬(s.focusSq = .c ∧ 16 < (handOf s s.focus).landings.length + r.lands) := by
    rintro ⟨hc, hl⟩
    have := hi.landRoom hc
    omega
  have h4 : ¬(s.focusSq = .c ∧ r.lane = true ∧ (handOf s s.focus).lanes ≠ 0) := by
    rintro ⟨hc, hl, hz⟩
    exact hz (hi.lanesFree hc hl)
  have hn : (popAcquire (setHand s s.focus (tokenTake h s.focusSq k)) s.focus r.srcs).nextId = s.nextId := by
    rw [popAcquire_nextId]; rfl
  rw [sqOf] at h2
  simp only [gate, hi.legal, h2, hi.tokens, if_neg h3, if_neg h4, hi.reads, Bool.false_eq_true, if_false, opened]
  cases hd : reserves s.focusSq r.dst with
  | none => simp only [hn]
  | some n => simp only [hi.room n hd, if_true, chanAdd_nextId, hn]

end Sys2Proof.Machine
end

