-- ==== Sys2Proof/Laws/Memory.lean ====
section
/-! SUPPORT. Laws of byte memory: every operation keeps the canonical form, a byte written reads back, and every other byte
reads as before. -/

namespace Sys2Proof.Machine

/-! ### Sorted cells -/

theorem rising_iff (l : List Host.Cell) : rising l = true ↔ l.Pairwise (fun c d => c.1 < d.1) := by
  induction l with
  | nil => simp [rising]
  | cons c r ih =>
    cases r with
    | nil => simp [rising]
    | cons d r =>
      simp only [rising, Bool.and_eq_true, decide_eq_true_eq, ih, List.pairwise_cons]
      constructor
      · rintro ⟨h, hd, hr⟩
        refine ⟨fun x hx => ?_, hd, hr⟩
        rcases List.mem_cons.1 hx with rfl | hx
        · exact h
        · exact Nat.lt_trans h (hd x hx)
      · rintro ⟨h, hd, hr⟩
        exact ⟨h d (List.mem_cons_self ..), hd, hr⟩

theorem cellAt_none_of_lt {l : List Host.Cell} {a : Nat} (h : ∀ c ∈ l, a < c.1) : cellAt l a = none := by
  cases l with
  | nil => rfl
  | cons c r =>
    have := h c (List.mem_cons_self ..)
    simp [cellAt, this, Nat.ne_of_gt this]

theorem mem_cellPut {l : List Host.Cell} {a : Nat} {v : Byte} {c : Host.Cell} (h : c ∈ cellPut l a v) : c = (a, v) ∨ c ∈ l := by
  induction l with
  | nil => simpa [cellPut] using h
  | cons d r ih =>
    simp only [cellPut] at h
    split at h
    · rcases List.mem_cons.1 h with h | h <;> simp [h]
    · split at h
      · rcases List.mem_cons.1 h with h | h
        · simp [h]
        · exact .inr h
      · rcases List.mem_cons.1 h with h | h
        · simp [h]
        · rcases ih h with h | h <;> simp [h]

theorem mem_cellDel {l : List Host.Cell} {a : Nat} {c : Host.Cell} (h : c ∈ cellDel l a) : c ∈ l := by
  induction l with
  | nil => simp [cellDel] at h
  | cons d r ih =>
    simp only [cellDel] at h
    split at h
    · exact List.mem_cons_of_mem _ h
    · split at h
      · exact h
      · rcases List.mem_cons.1 h with h | h
        · simp [h]
        · exact List.mem_cons_of_mem _ (ih h)

theorem pairwise_cellPut {l : List Host.Cell} (a : Nat) (v : Byte) (h : l.Pairwise (fun c d => c.1 < d.1)) :
    (cellPut l a v).Pairwise (fun c d => c.1 < d.1) := by
  induction l with
  | nil => simp [cellPut]
  | cons d r ih =>
    obtain ⟨hd, hr⟩ := List.pairwise_cons.1 h
    simp only [cellPut]
    split
    · rename_i e; exact List.pairwise_cons.2 ⟨fun x hx => e ▸ hd x hx, hr⟩
    · split
      · rename_i lt
        refine List.pairwise_cons.2 ⟨fun x hx => ?_, h⟩
        rcases List.mem_cons.1 hx with rfl | hx
        · exact lt
        · exact Nat.lt_trans lt (hd x hx)
      · rename_i ne nlt
        refine List.pairwise_cons.2 ⟨fun x hx => ?_, ih hr⟩
        rcases mem_cellPut hx with rfl | hx
        · exact Nat.lt_of_le_of_ne (Nat.le_of_not_lt nlt) ne
        · exact hd x hx

theorem pairwise_cellDel {l : List Host.Cell} (a : Nat) (h : l.Pairwise (fun c d => c.1 < d.1)) : (cellDel l a).Pairwise (fun c d => c.1 < d.1) := by
  induction l with
  | nil => simp [cellDel]
  | cons d r ih =>
    obtain ⟨hd, hr⟩ := List.pairwise_cons.1 h
    simp only [cellDel]
    split
    · exact hr
    · split
      · exact h
      · exact List.pairwise_cons.2 ⟨fun x hx => hd x (mem_cellDel hx), ih hr⟩

theorem cellAt_cellPut (l : List Host.Cell) (a b : Nat) (v : Byte) : cellAt (cellPut l a v) b = if b = a then some v else cellAt l b := by
  induction l with
  | nil => by_cases h : b = a
           · simp [cellPut, cellAt, h]
           · simp [cellPut, cellAt, h, Ne.symm h]
  | cons d r ih =>
    simp only [cellPut]
    split
    · rename_i e
      subst e
      by_cases h : b = d.1
      · simp [cellAt, h]
      · simp [cellAt, h, Ne.symm h]
    · split
      · rename_i ne lt
        by_cases h : b = a
        · simp [cellAt, h]
        · simp only [cellAt, if_neg (Ne.symm h), h, if_false]
          by_cases hb : b < a
          · simp [hb, Nat.lt_trans hb lt, Nat.ne_of_gt (Nat.lt_trans hb lt)]
          · simp [hb]
      · rename_i ne nlt
        by_cases h : b = a
        · subst h; simp [cellAt, ne, nlt, ih]
        · simp only [cellAt, ih, h, if_false]

theorem cellAt_cellDel {l : List Host.Cell} (a b : Nat) (h : l.Pairwise (fun c d => c.1 < d.1)) :
    cellAt (cellDel l a) b = if b = a then none else cellAt l b := by
  induction l with
  | nil => simp [cellDel, cellAt]
  | cons d r ih =>
    obtain ⟨hd, hr⟩ := List.pairwise_cons.1 h
    simp only [cellDel]
    split
    · rename_i e
      subst e
      by_cases h : b = d.1
      · subst h; simp [cellAt_none_of_lt hd]
      · simp only [h, if_false, cellAt, if_neg (Ne.symm h)]
        split
        · rename_i lt; exact cellAt_none_of_lt (fun c hc => Nat.lt_trans lt (hd c hc))
        · rfl
    · split
      · rename_i ne lt
        by_cases h : b = a
        · subst h; simp [cellAt, ne, lt]
        · simp [h]
      · rename_i ne nlt
        by_cases h : b = a
        · subst h; simp [cellAt, ne, nlt, ih hr]
        · simp only [cellAt, ih hr, h, if_false]

/-! ### Bytes -/

@[simp] theorem unlisted_memSet (m : Memory) (a b : Nat) (v : Byte) : unlisted (memSet m a v) b = unlisted m b := rfl

theorem memWf_iff (m : Memory) : memWf m = true ↔ m.cells.Pairwise (fun c d => c.1 < d.1) ∧ ∀ c ∈ m.cells, c.2 ≠ unlisted m c.1 := by
  simp [memWf, rising_iff]

/-- A byte written reads as written, and every other byte as before. -/
theorem memGet_memSet {m : Memory} (a b : Nat) (v : Byte) (h : memWf m = true) : memGet (memSet m a v) b = if b = a then v else memGet m b := by
  have hp := ((memWf_iff m).1 h).1
  simp only [memGet, unlisted_memSet]
  simp only [memSet]
  split
  · rename_i e
    rw [cellAt_cellDel a b hp]
    by_cases hb : b = a
    · subst hb; simp [e]
    · simp [hb]
  · rw [cellAt_cellPut]
    by_cases hb : b = a <;> simp [hb]

theorem memWf_memSet {m : Memory} (a : Nat) (v : Byte) (h : memWf m = true) : memWf (memSet m a v) = true := by
  obtain ⟨hp, hc⟩ := (memWf_iff m).1 h
  refine (memWf_iff _).2 ⟨?_, fun c hm => ?_⟩
  · simp only [memSet]; split
    · exact pairwise_cellDel a hp
    · exact pairwise_cellPut a v hp
  · rw [unlisted_memSet]
    simp only [memSet] at hm
    split at hm
    · exact hc c (mem_cellDel hm)
    · rename_i ne
      rcases mem_cellPut hm with rfl | hm
      · exact ne
      · exact hc c hm

theorem memWf_memWrite {m : Memory} (a : Nat) (bs : List Byte) (h : memWf m = true) : memWf (memWrite m a bs) = true := by
  induction bs generalizing m a with
  | nil => exact h
  | cons b r ih => exact ih _ (memWf_memSet a b h)

/-- A byte string written reads back inside its range, and outside it every byte reads as before. -/
theorem memGet_memWrite {m : Memory} (a b : Nat) (bs : List Byte) (h : memWf m = true) :
    memGet (memWrite m a bs) b = if a ≤ b ∧ b < a + bs.length then bs.getD (b - a) 0 else memGet m b := by
  induction bs generalizing m a with
  | nil => simp only [memWrite, List.length_nil]; rw [if_neg (by omega)]
  | cons x r ih =>
    simp only [memWrite, ih (a + 1) (memWf_memSet a x h), memGet_memSet a b x h, List.length_cons]
    by_cases hb : b = a
    · subst hb; rw [if_neg (by omega), if_pos (by omega)]; simp
    · by_cases hi : a + 1 ≤ b ∧ b < a + 1 + r.length
      · have : b - a = (b - (a + 1)) + 1 := by omega
        rw [if_pos hi, if_pos (by omega), this]; simp
      · rw [if_neg hi, if_neg hb, if_neg (by omega)]

theorem memWf_memRekey {m : Memory} (ch : Nat) (h : memWf m = true) : memWf (memRekey m ch) = true := by
  obtain ⟨hp, hc⟩ := (memWf_iff m).1 h
  refine (memWf_iff _).2 ⟨hp.sublist List.filter_sublist, fun c hm => ?_⟩
  obtain ⟨hm, hn⟩ := List.mem_filter.1 hm
  have hn : c.1 / 2 ^ 31 ≠ ch := by simpa using hn
  have : unlisted (memRekey m ch) c.1 = unlisted m c.1 := by simp only [unlisted, memRekey, tget_tput_ne _ _ _ hn]
  rw [this]; exact hc c hm

theorem memWf_memZero {m : Memory} (a len : Nat) (h : memWf m = true) : memWf (memZero m a len) = true := by
  simp only [memZero]
  split
  · obtain ⟨hp, hc⟩ := (memWf_iff m).1 h
    exact (memWf_iff _).2 ⟨hp.sublist List.filter_sublist, fun c hm => hc c (List.mem_filter.1 hm).1⟩
  · exact memWf_memWrite a _ h

theorem memWf_reset : memWf State.reset.mem = true := rfl

theorem length_memRead (m : Memory) (a n : Nat) : (memRead m a n).length = n := by
  induction n generalizing a with
  | zero => rfl
  | succ n ih => simp [memRead, ih]

/-- Byte i of a range read is the byte at its address. -/
theorem getD_memRead (m : Memory) (a n i : Nat) (h : i < n) : (memRead m a n).getD i 0 = memGet m (a + i) := by
  induction n generalizing a i with
  | zero => omega
  | succ n ih =>
    cases i with
    | zero => rfl
    | succ i => simpa [memRead, Nat.add_comm, Nat.add_left_comm] using ih (a + 1) i (by omega)

end Sys2Proof.Machine
end

