-- ==== Sys2Proof/Laws/Frame.lean ====
section
/-! SUPPORT. What the shared operations never do: none of them writes memory. The issue of an instruction whose effect keeps the
memory keeps it, whatever the issue point answers. -/

namespace Sys2Proof.Machine

/-- A fold of steps that keep the memory keeps the memory. -/
theorem mem_foldl {α : Type} (f : State → α → State) (h : ∀ s x, (f s x).mem = s.mem) (l : List α) (s : State) : (l.foldl f s).mem = s.mem := by
  induction l generalizing s with
  | nil => rfl
  | cons x r ih => rw [List.foldl_cons, ih, h]

/-! ### Tags and loads -/

@[simp] theorem modContext_mem (s : State) (g : Nat) (leaf : Option Bound) (f : Preempt → Preempt) : (modContext s g leaf f).mem = s.mem := rfl

@[simp] theorem modLeafHand_mem (s : State) (g : Nat) (leaf : Option Bound) (f : Hand → Hand) : (modLeafHand s g leaf f).mem = s.mem := by
  simp only [modLeafHand]; split <;> rfl

@[simp] theorem mapTags_mem (s : State) (g : Nat) (leaf : Option Bound) (q : SeqId) (f : Tag → Tag) : (mapTags s g leaf q f).mem = s.mem := by
  simp only [mapTags]; split <;> simp

@[simp] theorem setRecords_mem (s : State) (g : Nat) (leaf : Option Bound) (q : SeqId) (fr : Table Term) :
    (setRecords s g leaf q fr).mem = s.mem := by simp [setRecords]

@[simp] theorem clearRecords_mem (s : State) (who : Term) (x : Nat × Option Bound × SeqId) : (clearRecords s who x).mem = s.mem := by
  simp only [clearRecords]; repeat' split
  all_goals simp

@[simp] theorem clearTerm_mem (s : State) (g : Nat) (leaf : Option Bound) (q : SeqId) (set : BitVec 16) (sat : Bool) :
    (clearTerm s g leaf q set sat).mem = s.mem := by
  simp only [clearTerm]
  rw [modSaved_mem, mem_foldl _ (fun s x => by simp), mem_foldl _ (fun s x => by simp)]
  simp

@[simp] theorem loadDone_mem (s : State) (g : Nat) (leaf : Option Bound) (q : SeqId) (tk : Nat) : (loadDone s g leaf q tk).mem = s.mem := by
  simp only [loadDone]; split <;> simp

/-! ### Channels -/

@[simp] theorem chanAdd_mem (s : State) (g n : Nat) (e : ChanEntry) : (chanAdd s g n e).mem = s.mem := rfl
@[simp] theorem chanFill_mem (s : State) (g n tk : Nat) (v : Word) (ts : List Term) : (chanFill s g n tk v ts).mem = s.mem := rfl
@[simp] theorem discardClean_mem (s : State) (d : Nat) : (discardClean s d).mem = s.mem := rfl

theorem pushWaiting_mem (g : Nat) (l : List EngPush) : ∀ (s : State) (full : List Nat), (pushWaiting s g full l).1.mem = s.mem := by
  induction l with
  | nil => intros; rfl
  | cons p r ih =>
    intro s full
    simp only [pushWaiting]
    split
    · split
      · rw [ih]; rfl
      · exact ih _ _
    · split
      · exact ih _ _
      · exact ih _ _

@[simp] theorem drainPushes_mem (s : State) (g : Nat) : (drainPushes s g).mem = s.mem := pushWaiting_mem g _ s []

@[simp] theorem pushEng_mem (s : State) (g : Nat) (b : Option Bound) (n : Nat) (v : Word) : (pushEng s g b n v).mem = s.mem := by simp [pushEng]

@[simp] theorem popAcquire_mem (s : State) (g : Nat) (l : List Src) : (popAcquire s g l).mem = s.mem := by
  simp only [popAcquire]
  split <;> split <;> simp

/-! ### The issue point, traps and stops -/

@[simp] theorem stalled_mem (s : State) (g : Nat) (q : SeqId) (r : Nat) : (stalled s g q r).mem = s.mem := rfl
@[simp] theorem finish_mem (s : State) (g : Nat) (q : SeqId) (k : Tok) (f : Seqr → Seqr) : (finish s g q k f).mem = s.mem := rfl
@[simp] theorem bubbled_mem (s : State) (g : Nat) (b : Bool) : (bubbled s g b).mem = s.mem := rfl

@[simp] theorem takeStop_mem (s : State) (g i : Nat) (q : SeqId) : (takeStop s g i q).mem = s.mem := by
  simp only [takeStop]
  repeat' split
  all_goals simp

@[simp] theorem stopIf_mem (s : State) (g kind : Nat) (q : Option SeqId) : (stopIf s g kind q).mem = s.mem := by
  simp only [stopIf]; split <;> simp

@[simp] theorem traceTrap_mem (s : State) (g : Nat) (q : SeqId) : (traceTrap s g q).mem = s.mem := by simp [traceTrap]

@[simp] theorem trapAt_mem (s : State) (g : Nat) (q : SeqId) (c : Nat) (i : Word) (p : Ptr) : (trapAt s g q c i p).mem = s.mem := by
  simp only [trapAt]; split <;> simp

@[simp] theorem takeTrap_mem (s : State) (g : Nat) (q : SeqId) (c : Nat) (i : Word) : (takeTrap s g q c i).mem = s.mem := by simp [takeTrap]

@[simp] theorem takeHeld_mem (s : State) (g : Nat) : (takeHeld s g).mem = s.mem := by simp [takeHeld]

/-! ### Results -/

@[simp] theorem land_mem (s : State) (g : Nat) (l : Landing) : (land s g l).mem = s.mem := rfl

@[simp] theorem putDst_mem (s : State) (g : Nat) (q : SeqId) (tk lat : Nat) (d : Dst) (v : Word) (t : Tag) : (putDst s g q tk lat d v t).mem = s.mem := by
  cases d <;> simp only [putDst] <;> repeat' split
  all_goals rfl

@[simp] theorem putReg_mem (s : State) (g : Nat) (q : SeqId) (lat : Nat) (n : BitVec 5) (v : Word) (t : Tag) : (putReg s g q lat n v t).mem = s.mem := by simp [putReg]

@[simp] theorem arrive_mem (s : State) (g : Nat) (q : SeqId) (tk : Nat) (d : DstRef) (v : Word) (t : Tag) : (arrive s g q tk d v t).mem = s.mem := by
  cases d <;> simp [arrive]

@[simp] theorem awaitDst_mem (s : State) (g : Nat) (q : SeqId) (tk : Nat) (d : DstRef) (t : Tag) : (awaitDst s g q tk d t).mem = s.mem := by
  cases d <;> simp [awaitDst]

@[simp] theorem workDone_mem (s : State) (n : Option (Nat × Nat)) (st d : Nat) (w : Word) : (workDone s n st d w).mem = s.mem := by
  cases n <;> simp [workDone]

@[simp] theorem opened_mem (s : State) (k : Tok) (r : Req) (h : Hand) : (opened s k r h).mem = s.mem := by
  simp only [opened]; split <;> simp

@[simp] theorem closed_mem (s t : State) (k : Tok) (n : Nat) : (closed s t k n).mem = t.mem := rfl

/-- What the gate lets go differs from the state before it in no byte of memory. -/
theorem gate_go_mem {s s' : State} {g : Nat} {q : SeqId} {k : Tok} {r : Req} {vals : List (Word × Tag)} {t : Nat}
    (h : gate s g q k r = .go s' vals t) : s'.mem = s.mem := by
  simp only [gate] at h
  repeat' split at h
  all_goals cases h
  all_goals simp

/-- Everything an issue can answer, as far as memory is concerned: a state with the memory before, or what its body answers
at such a state. -/
theorem issue_mem (P : Memory → Prop) {s t : State} {k : Tok} {r : Req} {body : State → List (Word × Tag) → Nat → Res} (hs : P s.mem)
    (hb : ∀ s' vals tk t, s'.mem = s.mem → body s' vals tk = .next t → P t.mem) (h : issue s k r body = .next t) : P t.mem := by
  have done : ∀ {u : State}, u.mem = s.mem → (Host.Outcome.next u : Res) = .next t → P t.mem := by
    intro u hu e; cases e; rw [hu]; exact hs
  simp only [issue] at h
  split at h
  · exact done rfl h
  · split at h
    · exact done rfl h
    · split at h
      · exact done (stalled_mem ..) h
      · split at h
        · exact done (takeHeld_mem ..) h
        · split at h
          · exact done (takeStop_mem ..) h
          · split at h
            · exact done (takeTrap_mem ..) h
            · exact done (stalled_mem ..) h
            · exact done (bubbled_mem ..) h
            · rename_i hg; exact hb _ _ _ _ (gate_go_mem hg) h

end Sys2Proof.Machine
end

