-- ==== Sys2Proof/Laws/PerInstr.lean ====
section
/-! SUPPORT. One law for every constructor of Instr: how its instruction is encoded. -/

namespace Sys2Proof.Laws

set_option Elab.async false

/-- An instruction is one word or two for a hand (R85, R91), one word for a fresco context (R320), or no word at all: one of the
device's own atomic steps. It is encoded in one way only. -/
def Classified.Statement (i : Instr) : Prop :=
  ((encode i).map List.length = some 1 ∧ encodeMicro i = none) ∨ ((encode i).map List.length = some 2 ∧ encodeMicro i = none) ∨
  (encode i = none ∧ (encodeMicro i).isSome = true) ∨ (encode i = none ∧ encodeMicro i = none)

theorem Classified.nop (k : Tok) : Classified.Statement (.nop k) := .inl ⟨rfl, rfl⟩

theorem Classified.add (k : Tok) (d : Dst) (a : Src) (b : Src) : Classified.Statement (.add k d a b) := .inl ⟨rfl, rfl⟩

theorem Classified.sub (k : Tok) (d : Dst) (a : Src) (b : Src) : Classified.Statement (.sub k d a b) := .inl ⟨rfl, rfl⟩

theorem Classified.and (k : Tok) (d : Dst) (a : Src) (b : Src) : Classified.Statement (.and k d a b) := .inl ⟨rfl, rfl⟩

theorem Classified.or (k : Tok) (d : Dst) (a : Src) (b : Src) : Classified.Statement (.or k d a b) := .inl ⟨rfl, rfl⟩

theorem Classified.xor (k : Tok) (d : Dst) (a : Src) (b : Src) : Classified.Statement (.xor k d a b) := .inl ⟨rfl, rfl⟩

theorem Classified.sll (k : Tok) (d : Dst) (a : Src) (b : Src) : Classified.Statement (.sll k d a b) := .inl ⟨rfl, rfl⟩

theorem Classified.srl (k : Tok) (d : Dst) (a : Src) (b : Src) : Classified.Statement (.srl k d a b) := .inl ⟨rfl, rfl⟩

theorem Classified.sra (k : Tok) (d : Dst) (a : Src) (b : Src) : Classified.Statement (.sra k d a b) := .inl ⟨rfl, rfl⟩

theorem Classified.mul (k : Tok) (d : Dst) (a : Src) (b : Src) : Classified.Statement (.mul k d a b) := .inl ⟨rfl, rfl⟩

theorem Classified.mulh (k : Tok) (d : Dst) (a : Src) (b : Src) : Classified.Statement (.mulh k d a b) := .inl ⟨rfl, rfl⟩

theorem Classified.mulhu (k : Tok) (d : Dst) (a : Src) (b : Src) : Classified.Statement (.mulhu k d a b) := .inl ⟨rfl, rfl⟩

theorem Classified.andn (k : Tok) (d : Dst) (a : Src) (b : Src) : Classified.Statement (.andn k d a b) := .inl ⟨rfl, rfl⟩

theorem Classified.div (k : Tok) (d : Dst) (a : Src) (b : Src) : Classified.Statement (.div k d a b) := .inl ⟨rfl, rfl⟩

theorem Classified.divu (k : Tok) (d : Dst) (a : Src) (b : Src) : Classified.Statement (.divu k d a b) := .inl ⟨rfl, rfl⟩

theorem Classified.rem (k : Tok) (d : Dst) (a : Src) (b : Src) : Classified.Statement (.rem k d a b) := .inl ⟨rfl, rfl⟩

theorem Classified.remu (k : Tok) (d : Dst) (a : Src) (b : Src) : Classified.Statement (.remu k d a b) := .inl ⟨rfl, rfl⟩

theorem Classified.seq (k : Tok) (d : Dst) (a : Src) (b : Src) : Classified.Statement (.seq k d a b) := .inl ⟨rfl, rfl⟩

theorem Classified.slt (k : Tok) (d : Dst) (a : Src) (b : Src) : Classified.Statement (.slt k d a b) := .inl ⟨rfl, rfl⟩

theorem Classified.sltu (k : Tok) (d : Dst) (a : Src) (b : Src) : Classified.Statement (.sltu k d a b) := .inl ⟨rfl, rfl⟩

theorem Classified.sne (k : Tok) (d : Dst) (a : Src) (b : Src) : Classified.Statement (.sne k d a b) := .inl ⟨rfl, rfl⟩

theorem Classified.min (k : Tok) (d : Dst) (a : Src) (b : Src) : Classified.Statement (.min k d a b) := .inl ⟨rfl, rfl⟩

theorem Classified.max (k : Tok) (d : Dst) (a : Src) (b : Src) : Classified.Statement (.max k d a b) := .inl ⟨rfl, rfl⟩

theorem Classified.minu (k : Tok) (d : Dst) (a : Src) (b : Src) : Classified.Statement (.minu k d a b) := .inl ⟨rfl, rfl⟩

theorem Classified.maxu (k : Tok) (d : Dst) (a : Src) (b : Src) : Classified.Statement (.maxu k d a b) := .inl ⟨rfl, rfl⟩

theorem Classified.addi (k : Tok) (d : Dst) (a : Src) (imm : BitVec 9) : Classified.Statement (.addi k d a imm) := .inl ⟨rfl, rfl⟩

theorem Classified.andi (k : Tok) (d : Dst) (a : Src) (imm : BitVec 9) : Classified.Statement (.andi k d a imm) := .inl ⟨rfl, rfl⟩

theorem Classified.ori (k : Tok) (d : Dst) (a : Src) (imm : BitVec 9) : Classified.Statement (.ori k d a imm) := .inl ⟨rfl, rfl⟩

theorem Classified.xori (k : Tok) (d : Dst) (a : Src) (imm : BitVec 9) : Classified.Statement (.xori k d a imm) := .inl ⟨rfl, rfl⟩

theorem Classified.slli (k : Tok) (d : Dst) (a : Src) (n : BitVec 6) : Classified.Statement (.slli k d a n) := .inl ⟨rfl, rfl⟩

theorem Classified.srli (k : Tok) (d : Dst) (a : Src) (n : BitVec 6) : Classified.Statement (.srli k d a n) := .inl ⟨rfl, rfl⟩

theorem Classified.srai (k : Tok) (d : Dst) (a : Src) (n : BitVec 6) : Classified.Statement (.srai k d a n) := .inl ⟨rfl, rfl⟩

theorem Classified.roti (k : Tok) (d : Dst) (a : Src) (n : BitVec 6) : Classified.Statement (.roti k d a n) := .inl ⟨rfl, rfl⟩

theorem Classified.slti (k : Tok) (d : Dst) (a : Src) (imm : BitVec 9) : Classified.Statement (.slti k d a imm) := .inl ⟨rfl, rfl⟩

theorem Classified.sltiu (k : Tok) (d : Dst) (a : Src) (imm : BitVec 9) : Classified.Statement (.sltiu k d a imm) := .inl ⟨rfl, rfl⟩

theorem Classified.addsh (k : Tok) (d : Dst) (a : Src) (b : Src) (sh : BitVec 2) : Classified.Statement (.addsh k d a b sh) := .inl ⟨rfl, rfl⟩

theorem Classified.clz (k : Tok) (d : Dst) (a : Src) : Classified.Statement (.clz k d a) := .inl ⟨rfl, rfl⟩

theorem Classified.ctz (k : Tok) (d : Dst) (a : Src) : Classified.Statement (.ctz k d a) := .inl ⟨rfl, rfl⟩

theorem Classified.popc (k : Tok) (d : Dst) (a : Src) : Classified.Statement (.popc k d a) := .inl ⟨rfl, rfl⟩

theorem Classified.brev (k : Tok) (d : Dst) (a : Src) : Classified.Statement (.brev k d a) := .inl ⟨rfl, rfl⟩

theorem Classified.tclr (k : Tok) (d : Dst) (a : Src) : Classified.Statement (.tclr k d a) := .inl ⟨rfl, rfl⟩

theorem Classified.tget (k : Tok) (d : Dst) (a : BitVec 5) : Classified.Statement (.tget k d a) := .inl ⟨rfl, rfl⟩

theorem Classified.tjoin (k : Tok) (d : Dst) (a : Src) (b : Src) : Classified.Statement (.tjoin k d a b) := .inl ⟨rfl, rfl⟩

theorem Classified.twait (k : Tok) (a : BitVec 5) : Classified.Statement (.twait k a) := .inl ⟨rfl, rfl⟩

theorem Classified.chcnt (k : Tok) (d : Dst) (a : Src) : Classified.Statement (.chcnt k d a) := .inl ⟨rfl, rfl⟩

theorem Classified.chfree (k : Tok) (d : Dst) (a : Src) : Classified.Statement (.chfree k d a) := .inl ⟨rfl, rfl⟩

theorem Classified.tkcnt (k : Tok) (d : Dst) (q : BitVec 2) : Classified.Statement (.tkcnt k d q) := .inl ⟨rfl, rfl⟩

theorem Classified.beqz (k : Tok) (r : BitVec 5) (o : BitVec 10) (x : BitVec 4) : Classified.Statement (.beqz k r o x) := .inl ⟨rfl, rfl⟩

theorem Classified.bnez (k : Tok) (r : BitVec 5) (o : BitVec 10) (x : BitVec 4) : Classified.Statement (.bnez k r o x) := .inl ⟨rfl, rfl⟩

theorem Classified.bltz (k : Tok) (r : BitVec 5) (o : BitVec 10) (x : BitVec 4) : Classified.Statement (.bltz k r o x) := .inl ⟨rfl, rfl⟩

theorem Classified.bgez (k : Tok) (r : BitVec 5) (o : BitVec 10) (x : BitVec 4) : Classified.Statement (.bgez k r o x) := .inl ⟨rfl, rfl⟩

theorem Classified.bgtz (k : Tok) (r : BitVec 5) (o : BitVec 10) (x : BitVec 4) : Classified.Statement (.bgtz k r o x) := .inl ⟨rfl, rfl⟩

theorem Classified.blez (k : Tok) (r : BitVec 5) (o : BitVec 10) (x : BitVec 4) : Classified.Statement (.blez k r o x) := .inl ⟨rfl, rfl⟩

theorem Classified.j (k : Tok) (o : BitVec 18) (x : BitVec 4) : Classified.Statement (.j k o x) := .inl ⟨rfl, rfl⟩

theorem Classified.jal (k : Tok) (o : BitVec 18) (x : BitVec 4) : Classified.Statement (.jal k o x) := .inl ⟨rfl, rfl⟩

theorem Classified.jr (k : Tok) (a : Src) : Classified.Statement (.jr k a) := .inl ⟨rfl, rfl⟩

theorem Classified.jalr (k : Tok) (a : Src) : Classified.Statement (.jalr k a) := .inl ⟨rfl, rfl⟩

theorem Classified.loop (k : Tok) (c : BitVec 2) (a : Src) : Classified.Statement (.loop k c a) := .inl ⟨rfl, rfl⟩

theorem Classified.loopi (k : Tok) (c : BitVec 2) (n : BitVec 7) : Classified.Statement (.loopi k c n) := .inl ⟨rfl, rfl⟩

theorem Classified.brloop (k : Tok) (c : BitVec 2) (o : BitVec 10) (x : BitVec 4) : Classified.Statement (.brloop k c o x) := .inl ⟨rfl, rfl⟩

theorem Classified.ld (k : Tok) (d : Dst) (a : Src) (z : Width) (o : BitVec 7) : Classified.Statement (.ld k d a z o) := .inl ⟨rfl, rfl⟩

theorem Classified.lds (k : Tok) (d : Dst) (a : Src) (z : Width) (o : BitVec 7) : Classified.Statement (.lds k d a z o) := .inl ⟨rfl, rfl⟩

theorem Classified.lda (k : Tok) (d : Dst) (a : Src) (z : Width) (sc : Scope) (o : BitVec 4) : Classified.Statement (.lda k d a z sc o) := .inl ⟨rfl, rfl⟩

theorem Classified.st (k : Tok) (o : BitVec 6) (a : Src) (b : Src) (z : Width) : Classified.Statement (.st k o a b z) := .inl ⟨rfl, rfl⟩

theorem Classified.str (k : Tok) (sc : Scope) (o : BitVec 3) (a : Src) (b : Src) (z : Width) : Classified.Statement (.str k sc o a b z) := .inl ⟨rfl, rfl⟩

theorem Classified.ldb (k : Tok) (d : Dst) (a : Src) (z : Width) (u : Buf) (o : BitVec 5) : Classified.Statement (.ldb k d a z u o) := .inl ⟨rfl, rfl⟩

theorem Classified.stb (k : Tok) (u : Buf) (o : BitVec 4) (a : Src) (b : Src) (z : Width) : Classified.Statement (.stb k u o a b z) := .inl ⟨rfl, rfl⟩

theorem Classified.amoadd (k : Tok) (d : BitVec 5) (a : BitVec 5) (b : BitVec 5) (dbl : Bool) (ord : AmoOrd) : Classified.Statement (.amoadd k d a b dbl ord) := .inl ⟨rfl, rfl⟩

theorem Classified.amoand (k : Tok) (d : BitVec 5) (a : BitVec 5) (b : BitVec 5) (dbl : Bool) (ord : AmoOrd) : Classified.Statement (.amoand k d a b dbl ord) := .inl ⟨rfl, rfl⟩

theorem Classified.amoor (k : Tok) (d : BitVec 5) (a : BitVec 5) (b : BitVec 5) (dbl : Bool) (ord : AmoOrd) : Classified.Statement (.amoor k d a b dbl ord) := .inl ⟨rfl, rfl⟩

theorem Classified.amoxor (k : Tok) (d : BitVec 5) (a : BitVec 5) (b : BitVec 5) (dbl : Bool) (ord : AmoOrd) : Classified.Statement (.amoxor k d a b dbl ord) := .inl ⟨rfl, rfl⟩

theorem Classified.amomin (k : Tok) (d : BitVec 5) (a : BitVec 5) (b : BitVec 5) (dbl : Bool) (ord : AmoOrd) : Classified.Statement (.amomin k d a b dbl ord) := .inl ⟨rfl, rfl⟩

theorem Classified.amomax (k : Tok) (d : BitVec 5) (a : BitVec 5) (b : BitVec 5) (dbl : Bool) (ord : AmoOrd) : Classified.Statement (.amomax k d a b dbl ord) := .inl ⟨rfl, rfl⟩

theorem Classified.amominu (k : Tok) (d : BitVec 5) (a : BitVec 5) (b : BitVec 5) (dbl : Bool) (ord : AmoOrd) : Classified.Statement (.amominu k d a b dbl ord) := .inl ⟨rfl, rfl⟩

theorem Classified.amomaxu (k : Tok) (d : BitVec 5) (a : BitVec 5) (b : BitVec 5) (dbl : Bool) (ord : AmoOrd) : Classified.Statement (.amomaxu k d a b dbl ord) := .inl ⟨rfl, rfl⟩

theorem Classified.amoswap (k : Tok) (d : BitVec 5) (a : BitVec 5) (b : BitVec 5) (dbl : Bool) (ord : AmoOrd) : Classified.Statement (.amoswap k d a b dbl ord) := .inl ⟨rfl, rfl⟩

theorem Classified.amocas (k : Tok) (d : BitVec 5) (a : BitVec 5) (b : BitVec 5) (dbl : Bool) (ord : AmoOrd) : Classified.Statement (.amocas k d a b dbl ord) := .inl ⟨rfl, rfl⟩

theorem Classified.amofadd (k : Tok) (d : BitVec 5) (a : BitVec 5) (b : BitVec 5) (dbl : Bool) (ord : AmoOrd) : Classified.Statement (.amofadd k d a b dbl ord) := .inl ⟨rfl, rfl⟩

theorem Classified.amofmax (k : Tok) (d : BitVec 5) (a : BitVec 5) (b : BitVec 5) (dbl : Bool) (ord : AmoOrd) : Classified.Statement (.amofmax k d a b dbl ord) := .inl ⟨rfl, rfl⟩

theorem Classified.binit (k : Tok) (d : BitVec 5) (a : BitVec 5) (b : BitVec 5) : Classified.Statement (.binit k d a b) := .inl ⟨rfl, rfl⟩

theorem Classified.barv (k : Tok) (d : BitVec 5) (a : BitVec 5) (b : BitVec 5) : Classified.Statement (.barv k d a b) := .inl ⟨rfl, rfl⟩

theorem Classified.bwait (k : Tok) (d : BitVec 5) (a : BitVec 5) (b : BitVec 5) : Classified.Statement (.bwait k d a b) := .inl ⟨rfl, rfl⟩

theorem Classified.btest (k : Tok) (d : BitVec 5) (a : BitVec 5) (b : BitVec 5) : Classified.Statement (.btest k d a b) := .inl ⟨rfl, rfl⟩

theorem Classified.breset (k : Tok) (d : BitVec 5) (a : BitVec 5) (b : BitVec 5) : Classified.Statement (.breset k d a b) := .inl ⟨rfl, rfl⟩

theorem Classified.fence (k : Tok) (sc : Scope) (ll : Bool) (ls : Bool) (sl : Bool) (ss : Bool) (eng : Bool) (uo : Bool) : Classified.Statement (.fence k sc ll ls sl ss eng uo) := .inl ⟨rfl, rfl⟩

theorem Classified.cpqry (k : Tok) (d : BitVec 5) (a : BitVec 5) : Classified.Statement (.cpqry k d a) := .inl ⟨rfl, rfl⟩

theorem Classified.frgo (k : Tok) (d : BitVec 5) (a : BitVec 5) (b : BitVec 5) : Classified.Statement (.frgo k d a b) := .inl ⟨rfl, rfl⟩

theorem Classified.frst (k : Tok) (d : BitVec 5) (a : BitVec 5) : Classified.Statement (.frst k d a) := .inl ⟨rfl, rfl⟩

theorem Classified.frspl (k : Tok) (d : BitVec 5) (a : BitVec 5) : Classified.Statement (.frspl k d a) := .inl ⟨rfl, rfl⟩

theorem Classified.frld (k : Tok) (d : BitVec 5) (a : BitVec 5) (b : BitVec 5) : Classified.Statement (.frld k d a b) := .inl ⟨rfl, rfl⟩

theorem Classified.cxlay (k : Tok) (d : BitVec 5) (a : BitVec 5) (b : BitVec 5) : Classified.Statement (.cxlay k d a b) := .inl ⟨rfl, rfl⟩

theorem Classified.cxgo (k : Tok) (d : BitVec 5) (a : BitVec 5) (b : BitVec 5) : Classified.Statement (.cxgo k d a b) := .inl ⟨rfl, rfl⟩

theorem Classified.carm (k : Tok) (d : BitVec 5) (a : BitVec 5) (b : BitVec 5) : Classified.Statement (.carm k d a b) := .inl ⟨rfl, rfl⟩

theorem Classified.cdis (k : Tok) (d : BitVec 5) (a : BitVec 5) : Classified.Statement (.cdis k d a) := .inl ⟨rfl, rfl⟩

theorem Classified.ccnt (k : Tok) (d : BitVec 5) (a : BitVec 5) : Classified.Statement (.ccnt k d a) := .inl ⟨rfl, rfl⟩

theorem Classified.cadd (k : Tok) (d : BitVec 5) (a : BitVec 5) (b : BitVec 5) : Classified.Statement (.cadd k d a b) := .inl ⟨rfl, rfl⟩

theorem Classified.csend (k : Tok) (d : BitVec 5) (a : BitVec 5) : Classified.Statement (.csend k d a) := .inl ⟨rfl, rfl⟩

theorem Classified.chist (k : Tok) (d : BitVec 5) (a : BitVec 5) (b : BitVec 5) : Classified.Statement (.chist k d a b) := .inl ⟨rfl, rfl⟩

theorem Classified.cslot (k : Tok) (d : BitVec 5) : Classified.Statement (.cslot k d) := .inl ⟨rfl, rfl⟩

theorem Classified.pushc (k : Tok) (d : BitVec 5) (a : BitVec 5) (q : EngQueue) : Classified.Statement (.pushc k d a q) := .inl ⟨rfl, rfl⟩

theorem Classified.mlease (k : Tok) (d : Dst) (a : Src) : Classified.Statement (.mlease k d a) := .inl ⟨rfl, rfl⟩

theorem Classified.mfree (k : Tok) : Classified.Statement (.mfree k) := .inl ⟨rfl, rfl⟩

theorem Classified.mstat (k : Tok) (d : Dst) : Classified.Statement (.mstat k d) := .inl ⟨rfl, rfl⟩

theorem Classified.msync (k : Tok) : Classified.Statement (.msync k) := .inl ⟨rfl, rfl⟩

theorem Classified.csrr (k : Tok) (d : Dst) (c : Csr) : Classified.Statement (.csrr k d c) := .inl ⟨rfl, rfl⟩

theorem Classified.csrw (k : Tok) (a : Src) (c : Csr) : Classified.Statement (.csrw k a c) := .inl ⟨rfl, rfl⟩

theorem Classified.palbaseWrite (k : Tok) (a : Src) : Classified.Statement (.palbaseWrite k a) := .inl ⟨rfl, rfl⟩

theorem Classified.trap (k : Tok) (a : Src) : Classified.Statement (.trap k a) := .inl ⟨rfl, rfl⟩

theorem Classified.eret : Classified.Statement .eret := .inl ⟨rfl, rfl⟩

theorem Classified.halt (k : Tok) : Classified.Statement (.halt k) := .inl ⟨rfl, rfl⟩

theorem Classified.yield (k : Tok) : Classified.Statement (.yield k) := .inl ⟨rfl, rfl⟩

theorem Classified.brk (k : Tok) (c : BitVec 9) : Classified.Statement (.brk k c) := .inl ⟨rfl, rfl⟩

theorem Classified.gtick (k : Tok) (d : BitVec 5) (a : BitVec 5) (b : BitVec 5) : Classified.Statement (.gtick k d a b) := .inl ⟨rfl, rfl⟩

theorem Classified.gldg (k : Tok) (d : BitVec 5) (a : BitVec 5) (m : BitVec 5) : Classified.Statement (.gldg k d a m) := .inl ⟨rfl, rfl⟩

theorem Classified.grst (k : Tok) (a : BitVec 5) (b : BitVec 5) : Classified.Statement (.grst k a b) := .inl ⟨rfl, rfl⟩

theorem Classified.gexp (k : Tok) (d : BitVec 5) (a : BitVec 5) (b : BitVec 5) : Classified.Statement (.gexp k d a b) := .inl ⟨rfl, rfl⟩

theorem Classified.gimp (k : Tok) (d : BitVec 5) (a : BitVec 5) (b : BitVec 5) : Classified.Statement (.gimp k d a b) := .inl ⟨rfl, rfl⟩

theorem Classified.gstat (k : Tok) (d : BitVec 5) (a : BitVec 5) : Classified.Statement (.gstat k d a) := .inl ⟨rfl, rfl⟩

theorem Classified.vadd (k : Tok) (d : BitVec 5) (a : BitVec 5) (b : BitVec 5) (g : BitVec 5) : Classified.Statement (.vadd k d a b g) := .inl ⟨rfl, rfl⟩

theorem Classified.vsub (k : Tok) (d : BitVec 5) (a : BitVec 5) (b : BitVec 5) (g : BitVec 5) : Classified.Statement (.vsub k d a b g) := .inl ⟨rfl, rfl⟩

theorem Classified.vmul (k : Tok) (d : BitVec 5) (a : BitVec 5) (b : BitVec 5) (g : BitVec 5) : Classified.Statement (.vmul k d a b g) := .inl ⟨rfl, rfl⟩

theorem Classified.vfma (k : Tok) (d : BitVec 5) (a : BitVec 5) (b : BitVec 5) (g : BitVec 5) : Classified.Statement (.vfma k d a b g) := .inl ⟨rfl, rfl⟩

theorem Classified.vmin (k : Tok) (d : BitVec 5) (a : BitVec 5) (b : BitVec 5) (g : BitVec 5) : Classified.Statement (.vmin k d a b g) := .inl ⟨rfl, rfl⟩

theorem Classified.vmax (k : Tok) (d : BitVec 5) (a : BitVec 5) (b : BitVec 5) (g : BitVec 5) : Classified.Statement (.vmax k d a b g) := .inl ⟨rfl, rfl⟩

theorem Classified.vdiv (k : Tok) (d : BitVec 5) (a : BitVec 5) (b : BitVec 5) (g : BitVec 5) : Classified.Statement (.vdiv k d a b g) := .inl ⟨rfl, rfl⟩

theorem Classified.vfms (k : Tok) (d : BitVec 5) (a : BitVec 5) (b : BitVec 5) (g : BitVec 5) : Classified.Statement (.vfms k d a b g) := .inl ⟨rfl, rfl⟩

theorem Classified.vsqrt (k : Tok) (d : BitVec 5) (a : BitVec 5) (g : BitVec 5) : Classified.Statement (.vsqrt k d a g) := .inl ⟨rfl, rfl⟩

theorem Classified.vrcp (k : Tok) (d : BitVec 5) (a : BitVec 5) (g : BitVec 5) : Classified.Statement (.vrcp k d a g) := .inl ⟨rfl, rfl⟩

theorem Classified.vrsq (k : Tok) (d : BitVec 5) (a : BitVec 5) (g : BitVec 5) : Classified.Statement (.vrsq k d a g) := .inl ⟨rfl, rfl⟩

theorem Classified.vexp2 (k : Tok) (d : BitVec 5) (a : BitVec 5) (g : BitVec 5) : Classified.Statement (.vexp2 k d a g) := .inl ⟨rfl, rfl⟩

theorem Classified.vlog2 (k : Tok) (d : BitVec 5) (a : BitVec 5) (g : BitVec 5) : Classified.Statement (.vlog2 k d a g) := .inl ⟨rfl, rfl⟩

theorem Classified.vabs (k : Tok) (d : BitVec 5) (a : BitVec 5) (g : BitVec 5) : Classified.Statement (.vabs k d a g) := .inl ⟨rfl, rfl⟩

theorem Classified.vneg (k : Tok) (d : BitVec 5) (a : BitVec 5) (g : BitVec 5) : Classified.Statement (.vneg k d a g) := .inl ⟨rfl, rfl⟩

theorem Classified.vtanh (k : Tok) (d : BitVec 5) (a : BitVec 5) (g : BitVec 5) : Classified.Statement (.vtanh k d a g) := .inl ⟨rfl, rfl⟩

theorem Classified.vceq (k : Tok) (d : BitVec 5) (a : BitVec 5) (b : BitVec 5) (g : BitVec 5) : Classified.Statement (.vceq k d a b g) := .inl ⟨rfl, rfl⟩

theorem Classified.vclt (k : Tok) (d : BitVec 5) (a : BitVec 5) (b : BitVec 5) (g : BitVec 5) : Classified.Statement (.vclt k d a b g) := .inl ⟨rfl, rfl⟩

theorem Classified.vcle (k : Tok) (d : BitVec 5) (a : BitVec 5) (b : BitVec 5) (g : BitVec 5) : Classified.Statement (.vcle k d a b g) := .inl ⟨rfl, rfl⟩

theorem Classified.vcne (k : Tok) (d : BitVec 5) (a : BitVec 5) (b : BitVec 5) (g : BitVec 5) : Classified.Statement (.vcne k d a b g) := .inl ⟨rfl, rfl⟩

theorem Classified.viadd (k : Tok) (d : BitVec 5) (a : BitVec 5) (b : BitVec 5) (g : BitVec 5) : Classified.Statement (.viadd k d a b g) := .inl ⟨rfl, rfl⟩

theorem Classified.visub (k : Tok) (d : BitVec 5) (a : BitVec 5) (b : BitVec 5) (g : BitVec 5) : Classified.Statement (.visub k d a b g) := .inl ⟨rfl, rfl⟩

theorem Classified.vimul (k : Tok) (d : BitVec 5) (a : BitVec 5) (b : BitVec 5) (g : BitVec 5) : Classified.Statement (.vimul k d a b g) := .inl ⟨rfl, rfl⟩

theorem Classified.vshl (k : Tok) (d : BitVec 5) (a : BitVec 5) (b : BitVec 5) (g : BitVec 5) : Classified.Statement (.vshl k d a b g) := .inl ⟨rfl, rfl⟩

theorem Classified.vand (k : Tok) (d : BitVec 5) (a : BitVec 5) (b : BitVec 5) (g : BitVec 5) : Classified.Statement (.vand k d a b g) := .inl ⟨rfl, rfl⟩

theorem Classified.vor (k : Tok) (d : BitVec 5) (a : BitVec 5) (b : BitVec 5) (g : BitVec 5) : Classified.Statement (.vor k d a b g) := .inl ⟨rfl, rfl⟩

theorem Classified.vxor (k : Tok) (d : BitVec 5) (a : BitVec 5) (b : BitVec 5) (g : BitVec 5) : Classified.Statement (.vxor k d a b g) := .inl ⟨rfl, rfl⟩

theorem Classified.vshr (k : Tok) (d : BitVec 5) (a : BitVec 5) (b : BitVec 5) (g : BitVec 5) : Classified.Statement (.vshr k d a b g) := .inl ⟨rfl, rfl⟩

theorem Classified.vadds (k : Tok) (d : BitVec 5) (a : BitVec 5) (r : BitVec 5) (g : BitVec 5) : Classified.Statement (.vadds k d a r g) := .inl ⟨rfl, rfl⟩

theorem Classified.vmuls (k : Tok) (d : BitVec 5) (a : BitVec 5) (r : BitVec 5) (g : BitVec 5) : Classified.Statement (.vmuls k d a r g) := .inl ⟨rfl, rfl⟩

theorem Classified.vfmas (k : Tok) (d : BitVec 5) (a : BitVec 5) (r : BitVec 5) (g : BitVec 5) : Classified.Statement (.vfmas k d a r g) := .inl ⟨rfl, rfl⟩

theorem Classified.vbcast (k : Tok) (d : BitVec 5) (r : BitVec 5) (g : BitVec 5) : Classified.Statement (.vbcast k d r g) := .inl ⟨rfl, rfl⟩

theorem Classified.vsel (k : Tok) (d : BitVec 5) (a : BitVec 5) (b : BitVec 5) (g : BitVec 5) : Classified.Statement (.vsel k d a b g) := .inl ⟨rfl, rfl⟩

theorem Classified.vmov (k : Tok) (d : BitVec 5) (a : BitVec 5) (g : BitVec 5) : Classified.Statement (.vmov k d a g) := .inl ⟨rfl, rfl⟩

theorem Classified.vextr (k : Tok) (d : BitVec 5) (a : BitVec 5) (b : BitVec 5) (g : BitVec 5) : Classified.Statement (.vextr k d a b g) := .inl ⟨rfl, rfl⟩

theorem Classified.vins (k : Tok) (d : BitVec 5) (a : BitVec 5) (b : BitVec 5) (g : BitVec 5) : Classified.Statement (.vins k d a b g) := .inl ⟨rfl, rfl⟩

theorem Classified.vrsum (k : Tok) (d : BitVec 5) (a : BitVec 5) (g : BitVec 5) : Classified.Statement (.vrsum k d a g) := .inl ⟨rfl, rfl⟩

theorem Classified.vcsum (k : Tok) (d : BitVec 5) (a : BitVec 5) (g : BitVec 5) : Classified.Statement (.vcsum k d a g) := .inl ⟨rfl, rfl⟩

theorem Classified.vrmax (k : Tok) (d : BitVec 5) (a : BitVec 5) (g : BitVec 5) : Classified.Statement (.vrmax k d a g) := .inl ⟨rfl, rfl⟩

theorem Classified.vcmax (k : Tok) (d : BitVec 5) (a : BitVec 5) (g : BitVec 5) : Classified.Statement (.vcmax k d a g) := .inl ⟨rfl, rfl⟩

theorem Classified.vtrn (k : Tok) (d : BitVec 5) (a : BitVec 5) (g : BitVec 5) : Classified.Statement (.vtrn k d a g) := .inl ⟨rfl, rfl⟩

theorem Classified.vrotr (k : Tok) (d : BitVec 5) (a : BitVec 5) (b : BitVec 5) (g : BitVec 5) : Classified.Statement (.vrotr k d a b g) := .inl ⟨rfl, rfl⟩

theorem Classified.vrotc (k : Tok) (d : BitVec 5) (a : BitVec 5) (b : BitVec 5) (g : BitVec 5) : Classified.Statement (.vrotc k d a b g) := .inl ⟨rfl, rfl⟩

theorem Classified.vrev (k : Tok) (d : BitVec 5) (a : BitVec 5) (g : BitVec 5) : Classified.Statement (.vrev k d a g) := .inl ⟨rfl, rfl⟩

theorem Classified.vhmul (k : Tok) (d : BitVec 5) (a : BitVec 5) (b : BitVec 5) (g : BitVec 5) : Classified.Statement (.vhmul k d a b g) := .inl ⟨rfl, rfl⟩

theorem Classified.vhconj (k : Tok) (d : BitVec 5) (a : BitVec 5) (g : BitVec 5) : Classified.Statement (.vhconj k d a g) := .inl ⟨rfl, rfl⟩

theorem Classified.vhnorm (k : Tok) (d : BitVec 5) (a : BitVec 5) (g : BitVec 5) : Classified.Statement (.vhnorm k d a g) := .inl ⟨rfl, rfl⟩

theorem Classified.vhinv (k : Tok) (d : BitVec 5) (a : BitVec 5) (g : BitVec 5) : Classified.Statement (.vhinv k d a g) := .inl ⟨rfl, rfl⟩

theorem Classified.vscan (k : Tok) (d : BitVec 5) (a : BitVec 5) (b : BitVec 5) (g : BitVec 5) : Classified.Statement (.vscan k d a b g) := .inl ⟨rfl, rfl⟩

theorem Classified.vscana (k : Tok) (d : BitVec 5) (a : BitVec 5) (g : BitVec 5) : Classified.Statement (.vscana k d a g) := .inl ⟨rfl, rfl⟩

theorem Classified.vscanm (k : Tok) (d : BitVec 5) (a : BitVec 5) (g : BitVec 5) : Classified.Statement (.vscanm k d a g) := .inl ⟨rfl, rfl⟩

theorem Classified.vcvt (k : Tok) (d : BitVec 5) (a : BitVec 5) (g : BitVec 5) : Classified.Statement (.vcvt k d a g) := .inl ⟨rfl, rfl⟩

theorem Classified.vqnt (k : Tok) (d : BitVec 5) (a : BitVec 5) (g : BitVec 5) : Classified.Statement (.vqnt k d a g) := .inl ⟨rfl, rfl⟩

theorem Classified.vdq (k : Tok) (d : BitVec 5) (a : BitVec 5) (g : BitVec 5) : Classified.Statement (.vdq k d a g) := .inl ⟨rfl, rfl⟩

theorem Classified.vrnd (k : Tok) (d : BitVec 5) (a : BitVec 5) (g : BitVec 5) : Classified.Statement (.vrnd k d a g) := .inl ⟨rfl, rfl⟩

theorem Classified.pand (k : Tok) (d : BitVec 5) (a : BitVec 5) (b : BitVec 5) : Classified.Statement (.pand k d a b) := .inl ⟨rfl, rfl⟩

theorem Classified.por (k : Tok) (d : BitVec 5) (a : BitVec 5) (b : BitVec 5) : Classified.Statement (.por k d a b) := .inl ⟨rfl, rfl⟩

theorem Classified.pnot (k : Tok) (d : BitVec 5) (a : BitVec 5) : Classified.Statement (.pnot k d a) := .inl ⟨rfl, rfl⟩

theorem Classified.pxor (k : Tok) (d : BitVec 5) (a : BitVec 5) (b : BitVec 5) : Classified.Statement (.pxor k d a b) := .inl ⟨rfl, rfl⟩

theorem Classified.vld (k : Tok) (d : BitVec 5) (u : Buf) (r : BitVec 5) (g : BitVec 5) : Classified.Statement (.vld k d u r g) := .inl ⟨rfl, rfl⟩

theorem Classified.vst (k : Tok) (d : BitVec 5) (u : Buf) (r : BitVec 5) (g : BitVec 5) : Classified.Statement (.vst k d u r g) := .inl ⟨rfl, rfl⟩

theorem Classified.vldr (k : Tok) (d : BitVec 5) (u : Buf) (r : BitVec 5) (g : BitVec 5) : Classified.Statement (.vldr k d u r g) := .inl ⟨rfl, rfl⟩

theorem Classified.vstr (k : Tok) (d : BitVec 5) (u : Buf) (r : BitVec 5) (g : BitVec 5) : Classified.Statement (.vstr k d u r g) := .inl ⟨rfl, rfl⟩

theorem Classified.vshape (k : Tok) (d : BitVec 5) (a : BitVec 5) : Classified.Statement (.vshape k d a) := .inl ⟨rfl, rfl⟩

theorem Classified.psel (k : Tok) (d : BitVec 5) (a : BitVec 5) (b : BitVec 5) : Classified.Statement (.psel k d a b) := .inl ⟨rfl, rfl⟩

theorem Classified.algsel (k : Tok) (d : BitVec 5) (a : BitVec 5) : Classified.Statement (.algsel k d a) := .inl ⟨rfl, rfl⟩

theorem Classified.vland (k : Tok) (d : BitVec 5) (a : BitVec 5) (b : BitVec 5) : Classified.Statement (.vland k d a b) := .inl ⟨rfl, rfl⟩

theorem Classified.liw (k : Tok) (d : Dst) (imm : BitVec 32) : Classified.Statement (.liw k d imm) := .inr (.inl ⟨rfl, rfl⟩)

theorem Classified.lih (k : Tok) (d : BitVec 5) (imm : BitVec 32) : Classified.Statement (.lih k d imm) := .inr (.inl ⟨rfl, rfl⟩)

theorem Classified.copyIn (k : Tok) (t : BitVec 5) (ts : BitVec 5) (b : BitVec 5) (o : BitVec 5) (u : Buf) (sc : Scope) (acq : Bool) (rel : Bool) (op : OutOp) (cl : Clip) : Classified.Statement (.copyIn k t ts b o u sc acq rel op cl) := .inr (.inl ⟨rfl, rfl⟩)

theorem Classified.copyOut (k : Tok) (t : BitVec 5) (ts : BitVec 5) (b : BitVec 5) (o : BitVec 5) (u : Buf) (sc : Scope) (acq : Bool) (rel : Bool) (op : OutOp) (cl : Clip) : Classified.Statement (.copyOut k t ts b o u sc acq rel op cl) := .inr (.inl ⟨rfl, rfl⟩)

theorem Classified.copyxIn (k : Tok) (t : BitVec 5) (ts : BitVec 5) (b : BitVec 5) (o : BitVec 5) (g : BitVec 5) (u : Buf) (sc : Scope) (acq : Bool) (rel : Bool) (op : OutOp) (cl : Clip) : Classified.Statement (.copyxIn k t ts b o g u sc acq rel op cl) := .inr (.inl ⟨rfl, rfl⟩)

theorem Classified.copyxOut (k : Tok) (t : BitVec 5) (ts : BitVec 5) (b : BitVec 5) (o : BitVec 5) (g : BitVec 5) (u : Buf) (sc : Scope) (acq : Bool) (rel : Bool) (op : OutOp) (cl : Clip) : Classified.Statement (.copyxOut k t ts b o g u sc acq rel op cl) := .inr (.inl ⟨rfl, rfl⟩)

theorem Classified.drain (k : Tok) (t : BitVec 5) (c : BitVec 5) (ts : BitVec 5) (o : BitVec 5) (sc : Scope) (acq : Bool) (rel : Bool) (op : OutOp) (cl : Clip) : Classified.Statement (.drain k t c ts o sc acq rel op cl) := .inr (.inl ⟨rfl, rfl⟩)

theorem Classified.mma (k : Tok) (c : BitVec 5) (a : BitVec 5) (b : BitVec 5) (acc : Bool) (pal : BitVec 4) (alg : BitVec 3) (m : BitVec 2) (n : BitVec 2) (kk : BitVec 3) (ta : Bool) (tb : Bool) (ca : Bool) (cb : Bool) (sw : Bool) (chain : Bool) : Classified.Statement (.mma k c a b acc pal alg m n kk ta tb ca cb sw chain) := .inr (.inl ⟨rfl, rfl⟩)

theorem Classified.mmag (k : Tok) (c : BitVec 5) (a : BitVec 5) (b : BitVec 5) (acc : Bool) (pal : BitVec 4) (alg : BitVec 3) (m : BitVec 2) (n : BitVec 2) (kk : BitVec 3) (ta : Bool) (tb : Bool) (ca : Bool) (cb : Bool) (sw : Bool) (gr : BitVec 2) (gc : BitVec 2) : Classified.Statement (.mmag k c a b acc pal alg m n kk ta tb ca cb sw gr gc) := .inr (.inl ⟨rfl, rfl⟩)

theorem Classified.algld (k : Tok) (sl : BitVec 3) (r : BitVec 5) : Classified.Statement (.algld k sl r) := .inr (.inl ⟨rfl, rfl⟩)

theorem Classified.pset (k : Tok) (d : BitVec 5) (kd : PsetKind) (cnt : BitVec 11) : Classified.Statement (.pset k d kd cnt) := .inr (.inl ⟨rfl, rfl⟩)

theorem Classified.vtlu (k : Tok) (d : BitVec 5) (a : BitVec 5) (b : BitVec 5) (n : BitVec 3) (g : BitVec 5) (fill : BitVec 8) : Classified.Statement (.vtlu k d a b n g fill) := .inr (.inl ⟨rfl, rfl⟩)

theorem Classified.gcfg (k : Tok) (ix : BitVec 8) (r : BitVec 5) : Classified.Statement (.gcfg k ix r) := .inr (.inl ⟨rfl, rfl⟩)

theorem Classified.wsetm (m : BitVec 3) (h : Bool) (i : BitVec 16) : Classified.Statement (.wsetm m h i) := .inr (.inr (.inl ⟨rfl, rfl⟩))

theorem Classified.wmode (i : BitVec 3) : Classified.Statement (.wmode i) := .inr (.inr (.inl ⟨rfl, rfl⟩))

theorem Classified.wopen (m : BitVec 3) (b : BitVec 2) : Classified.Statement (.wopen m b) := .inr (.inr (.inl ⟨rfl, rfl⟩))

theorem Classified.wclose : Classified.Statement .wclose := .inr (.inr (.inl ⟨rfl, rfl⟩))

theorem Classified.wread (sb : Bool) (i : BitVec 8) : Classified.Statement (.wread sb i) := .inr (.inr (.inl ⟨rfl, rfl⟩))

theorem Classified.wwrite (i : BitVec 8) (src : BitVec 3) : Classified.Statement (.wwrite i src) := .inr (.inr (.inl ⟨rfl, rfl⟩))

theorem Classified.wscale (m : BitVec 3) (i : BitVec 8) : Classified.Statement (.wscale m i) := .inr (.inr (.inl ⟨rfl, rfl⟩))

theorem Classified.wadd (h : Bool) : Classified.Statement (.wadd h) := .inr (.inr (.inl ⟨rfl, rfl⟩))

theorem Classified.wdeq : Classified.Statement .wdeq := .inr (.inr (.inl ⟨rfl, rfl⟩))

theorem Classified.wloop (m : BitVec 3) : Classified.Statement (.wloop m) := .inr (.inr (.inl ⟨rfl, rfl⟩))

theorem Classified.wnext : Classified.Statement .wnext := .inr (.inr (.inl ⟨rfl, rfl⟩))

theorem Classified.wwin : Classified.Statement .wwin := .inr (.inr (.inl ⟨rfl, rfl⟩))

theorem Classified.wsave : Classified.Statement .wsave := .inr (.inr (.inl ⟨rfl, rfl⟩))

theorem Classified.wrest : Classified.Statement .wrest := .inr (.inr (.inl ⟨rfl, rfl⟩))

theorem Classified.wend : Classified.Statement .wend := .inr (.inr (.inl ⟨rfl, rfl⟩))

theorem Classified.lineFetch (g : Nat) (sq : SeqId) (cached : Bool) : Classified.Statement (.lineFetch g sq cached) := .inr (.inr (.inr ⟨rfl, rfl⟩))

theorem Classified.landing (g : Nat) : Classified.Statement (.landing g) := .inr (.inr (.inr ⟨rfl, rfl⟩))

theorem Classified.walkComplete (g : Nat) (w : WalkRef) : Classified.Statement (.walkComplete g w) := .inr (.inr (.inr ⟨rfl, rfl⟩))

theorem Classified.latch : Classified.Statement .latch := .inr (.inr (.inr ⟨rfl, rfl⟩))

theorem Classified.orderingBufferPerform (g : Nat) (sq : SeqId) (ix : Nat) (part : Nat) (how : Performing) : Classified.Statement (.orderingBufferPerform g sq ix part how) := .inr (.inr (.inr ⟨rfl, rfl⟩))

theorem Classified.fenceTokenRelease (g : Nat) (sq : SeqId) : Classified.Statement (.fenceTokenRelease g sq) := .inr (.inr (.inr ⟨rfl, rfl⟩))

theorem Classified.bufferAccessPerform (e : Nat) (ix : Nat) : Classified.Statement (.bufferAccessPerform e ix) := .inr (.inr (.inr ⟨rfl, rfl⟩))

theorem Classified.copyEngineAccess (eng : Nat) (ix : Nat) (bad : Bool) : Classified.Statement (.copyEngineAccess eng ix bad) := .inr (.inr (.inr ⟨rfl, rfl⟩))

theorem Classified.copyCompletion (eng : Nat) (ix : Nat) : Classified.Statement (.copyCompletion eng ix) := .inr (.inr (.inr ⟨rfl, rfl⟩))

theorem Classified.dispatchChoice (p : Nat) : Classified.Statement (.dispatchChoice p) := .inr (.inr (.inr ⟨rfl, rfl⟩))

theorem Classified.prefetch (hand : Subject Bool) : Classified.Statement (.prefetch hand) := .inr (.inr (.inr ⟨rfl, rfl⟩))

theorem Classified.leafBind (g : Nat) : Classified.Statement (.leafBind g) := .inr (.inr (.inr ⟨rfl, rfl⟩))

theorem Classified.gangStart (ln : Nat) (gang : Nat) : Classified.Statement (.gangStart ln gang) := .inr (.inr (.inr ⟨rfl, rfl⟩))

theorem Classified.leafRetire (g : Nat) : Classified.Statement (.leafRetire g) := .inr (.inr (.inr ⟨rfl, rfl⟩))

theorem Classified.nodeCompletion (ln : Nat) (tk : Nat) : Classified.Statement (.nodeCompletion ln tk) := .inr (.inr (.inr ⟨rfl, rfl⟩))

theorem Classified.launchCompletionRecord (launch : Subject (List Nat)) : Classified.Statement (.launchCompletionRecord launch) := .inr (.inr (.inr ⟨rfl, rfl⟩))

theorem Classified.queueEntryAccept (queue : Subject (List Nat)) : Classified.Statement (.queueEntryAccept queue) := .inr (.inr (.inr ⟨rfl, rfl⟩))

theorem Classified.conditionEvaluation (ln : Nat) (task : Subject Bool) : Classified.Statement (.conditionEvaluation ln task) := .inr (.inr (.inr ⟨rfl, rfl⟩))

theorem Classified.muralCommandStart (e : Nat) : Classified.Statement (.muralCommandStart e) := .inr (.inr (.inr ⟨rfl, rfl⟩))

theorem Classified.muralCommandComplete (e : Nat) : Classified.Statement (.muralCommandComplete e) := .inr (.inr (.inr ⟨rfl, rfl⟩))

theorem Classified.tickPresent (ch : Nat) (ix : Nat) : Classified.Statement (.tickPresent ch ix) := .inr (.inr (.inr ⟨rfl, rfl⟩))

theorem Classified.wordAdvance (ch : Nat) : Classified.Statement (.wordAdvance ch) := .inr (.inr (.inr ⟨rfl, rfl⟩))

theorem Classified.glazeControlCommand (e : Nat) (ix : Nat) : Classified.Statement (.glazeControlCommand e ix) := .inr (.inr (.inr ⟨rfl, rfl⟩))

theorem Classified.syncCommand (e : Nat) (ix : Nat) (bad : Bool) : Classified.Statement (.syncCommand e ix bad) := .inr (.inr (.inr ⟨rfl, rfl⟩))

theorem Classified.collectiveCommand (e : Nat) (ix : Nat) (bad : Option Nat) : Classified.Statement (.collectiveCommand e ix bad) := .inr (.inr (.inr ⟨rfl, rfl⟩))

theorem Classified.frescoCommand (e : Nat) (ix : Nat) : Classified.Statement (.frescoCommand e ix) := .inr (.inr (.inr ⟨rfl, rfl⟩))

theorem Classified.jobStart (cx : Nat) : Classified.Statement (.jobStart cx) := .inr (.inr (.inr ⟨rfl, rfl⟩))

theorem Classified.globalCopy (ln : Nat) (tk : Nat) : Classified.Statement (.globalCopy ln tk) := .inr (.inr (.inr ⟨rfl, rfl⟩))

theorem Classified.tailPresent (ctx : Subject Bool) : Classified.Statement (.tailPresent ctx) := .inr (.inr (.inr ⟨rfl, rfl⟩))

theorem Classified.hostRmaWrite (ctx va : Nat) (chunk : Chunk) : Classified.Statement (.hostRmaWrite ctx va chunk) := .inr (.inr (.inr ⟨rfl, rfl⟩))

theorem Classified.tailMessage (ctx : Nat) (tag : Word) (payload : BitVec 128) : Classified.Statement (.tailMessage ctx tag payload) := .inr (.inr (.inr ⟨rfl, rfl⟩))

theorem Classified.hostRmaRead (ctx : Nat) (va : Nat) (len : Nat) : Classified.Statement (.hostRmaRead ctx va len) := .inr (.inr (.inr ⟨rfl, rfl⟩))

theorem Classified.ueAtomicRequest (ctx : Nat) : Classified.Statement (.ueAtomicRequest ctx) := .inr (.inr (.inr ⟨rfl, rfl⟩))

theorem Classified.deliveryContextEstablishment (ctx : Nat) (endpoint : Endpoint) (mode : CtxMode) (rccc secure : Bool) : Classified.Statement (.deliveryContextEstablishment ctx endpoint mode rccc secure) := .inr (.inr (.inr ⟨rfl, rfl⟩))

theorem Classified.deliveryContextClose (ctx : Subject (List Nat)) : Classified.Statement (.deliveryContextClose ctx) := .inr (.inr (.inr ⟨rfl, rfl⟩))

theorem Classified.queueDescriptorWrite (q : Nat) (desc : BitVec 256) (head : Option (BitVec 32)) : Classified.Statement (.queueDescriptorWrite q desc head) := .inr (.inr (.inr ⟨rfl, rfl⟩))

theorem Classified.haltedClear (q : Nat) (taild : Option (BitVec 32)) : Classified.Statement (.haltedClear q taild) := .inr (.inr (.inr ⟨rfl, rfl⟩))

theorem Classified.partitionComposition (p : Nat) (pairs : List Nat) (channels : List Nat) (queues : List Nat) (counters : Nat) (quota : Nat) : Classified.Statement (.partitionComposition p pairs channels queues counters quota) := .inr (.inr (.inr ⟨rfl, rfl⟩))

theorem Classified.resourceReassignment (r : Resource) (p : Nat) : Classified.Statement (.resourceReassignment r p) := .inr (.inr (.inr ⟨rfl, rfl⟩))

theorem Classified.schedulingWordWrite (p : Nat) (w : Word) : Classified.Statement (.schedulingWordWrite p w) := .inr (.inr (.inr ⟨rfl, rfl⟩))

theorem Classified.invalidation (p : Nat) (va : Nat) (len : Nat) : Classified.Statement (.invalidation p va len) := .inr (.inr (.inr ⟨rfl, rfl⟩))

theorem Classified.invalidationComplete (ix : Nat) : Classified.Statement (.invalidationComplete ix) := .inr (.inr (.inr ⟨rfl, rfl⟩))

theorem Classified.meshDescriptorWrite (p : Nat) (w : Word) (peers : List (Nat × Nat × Nat)) : Classified.Statement (.meshDescriptorWrite p w peers) := .inr (.inr (.inr ⟨rfl, rfl⟩))

theorem Classified.counterSupervisorWrite (p : Nat) (sb : Bool) (ix : Nat) (v : Word) : Classified.Statement (.counterSupervisorWrite p sb ix v) := .inr (.inr (.inr ⟨rfl, rfl⟩))

theorem Classified.collectivePause (p : Nat) : Classified.Statement (.collectivePause p) := .inr (.inr (.inr ⟨rfl, rfl⟩))

theorem Classified.collectiveResume (p : Nat) : Classified.Statement (.collectiveResume p) := .inr (.inr (.inr ⟨rfl, rfl⟩))

theorem Classified.firmwareImageLoad (lp : Nat) (image : List Byte) (sig : BitVec 512) : Classified.Statement (.firmwareImageLoad lp image sig) := .inr (.inr (.inr ⟨rfl, rfl⟩))

theorem Classified.mcRegisterWrite (p : Nat) (w : McSetting) : Classified.Statement (.mcRegisterWrite p w) := .inr (.inr (.inr ⟨rfl, rfl⟩))

theorem Classified.stopDescriptorWrite (p : Nat) (k : Nat) (d : BitVec 128) : Classified.Statement (.stopDescriptorWrite p k d) := .inr (.inr (.inr ⟨rfl, rfl⟩))

theorem Classified.cutFreeze (g : Nat) : Classified.Statement (.cutFreeze g) := .inr (.inr (.inr ⟨rfl, rfl⟩))

theorem Classified.stopResume (ln : Nat) : Classified.Statement (.stopResume ln) := .inr (.inr (.inr ⟨rfl, rfl⟩))

theorem Classified.latchRequest (t : Word) : Classified.Statement (.latchRequest t) := .inr (.inr (.inr ⟨rfl, rfl⟩))

theorem Classified.snapshotArm (g : Nat) (sq : SeqId) (lc : BitVec 2) (every : Bool) : Classified.Statement (.snapshotArm g sq lc every) := .inr (.inr (.inr ⟨rfl, rfl⟩))

theorem Classified.snapshotRead (e : Nat) : Classified.Statement (.snapshotRead e) := .inr (.inr (.inr ⟨rfl, rfl⟩))

theorem Classified.guestCounterRead (p : Nat) (grp : Nat) (unit : Nat) (ix : Nat) : Classified.Statement (.guestCounterRead p grp unit ix) := .inr (.inr (.inr ⟨rfl, rfl⟩))

theorem Classified.priorityPreemption (p : Nat) : Classified.Statement (.priorityPreemption p) := .inr (.inr (.inr ⟨rfl, rfl⟩))

theorem Classified.leafAbort (g : Nat) (whole : Bool) : Classified.Statement (.leafAbort g whole) := .inr (.inr (.inr ⟨rfl, rfl⟩))

theorem Classified.stallTimeOut (g : Nat) : Classified.Statement (.stallTimeOut g) := .inr (.inr (.inr ⟨rfl, rfl⟩))

theorem Classified.machineCheck (g : Nat) (pfn : Nat) (source : ErrorSource) : Classified.Statement (.machineCheck g pfn source) := .inr (.inr (.inr ⟨rfl, rfl⟩))

theorem Classified.dieCacheWriteBack (die : Nat) (pa : Nat) : Classified.Statement (.dieCacheWriteBack die pa) := .inr (.inr (.inr ⟨rfl, rfl⟩))

theorem Classified.dieCacheDiscard (die : Nat) (pa : Nat) : Classified.Statement (.dieCacheDiscard die pa) := .inr (.inr (.inr ⟨rfl, rfl⟩))

theorem Classified.globalCopyCommand (e : Nat) (ix : Nat) : Classified.Statement (.globalCopyCommand e ix) := .inr (.inr (.inr ⟨rfl, rfl⟩))

theorem Classified.spillComplete (e : Nat) : Classified.Statement (.spillComplete e) := .inr (.inr (.inr ⟨rfl, rfl⟩))

theorem Classified.lboundExpiry (e : Nat) (h : Nat) : Classified.Statement (.lboundExpiry e h) := .inr (.inr (.inr ⟨rfl, rfl⟩))

theorem Classified.leaseIdleExpiry (e : Nat) : Classified.Statement (.leaseIdleExpiry e) := .inr (.inr (.inr ⟨rfl, rfl⟩))

theorem Classified.groupReservation (cl : Nat) (e : Nat) : Classified.Statement (.groupReservation cl e) := .inr (.inr (.inr ⟨rfl, rfl⟩))

theorem Classified.glazeHold (ix : Nat) (bad : Bool) : Classified.Statement (.glazeHold ix bad) := .inr (.inr (.inr ⟨rfl, rfl⟩))

theorem Classified.bwaitTimeBoundExpiry (ix : Nat) : Classified.Statement (.bwaitTimeBoundExpiry ix) := .inr (.inr (.inr ⟨rfl, rfl⟩))

theorem Classified.collectiveMessage (m : Message) : Classified.Statement (.collectiveMessage m) := .inr (.inr (.inr ⟨rfl, rfl⟩))

theorem Classified.sendComplete (ix : Nat) (how : Progress) : Classified.Statement (.sendComplete ix how) := .inr (.inr (.inr ⟨rfl, rfl⟩))

theorem Classified.exchangeComplete (p : Nat) (hd : Nat) (how : Progress) : Classified.Statement (.exchangeComplete p hd how) := .inr (.inr (.inr ⟨rfl, rfl⟩))

theorem Classified.peerUnreachable (p : Nat) (rank : Nat) : Classified.Statement (.peerUnreachable p rank) := .inr (.inr (.inr ⟨rfl, rfl⟩))

theorem Classified.window (ch n : Nat) : Classified.Statement (.window ch n) := .inr (.inr (.inr ⟨rfl, rfl⟩))

theorem Classified.frescoSpill (cx : Nat) : Classified.Statement (.frescoSpill cx) := .inr (.inr (.inr ⟨rfl, rfl⟩))

theorem Classified.frescoRestore (cx : Nat) : Classified.Statement (.frescoRestore cx) := .inr (.inr (.inr ⟨rfl, rfl⟩))

theorem Classified.supervisorPreemptionRequest (g : Nat) : Classified.Statement (.supervisorPreemptionRequest g) := .inr (.inr (.inr ⟨rfl, rfl⟩))

theorem Classified.preemptionSave (g : Nat) : Classified.Statement (.preemptionSave g) := .inr (.inr (.inr ⟨rfl, rfl⟩))

theorem Classified.powerDownEntry (ch : Nat) : Classified.Statement (.powerDownEntry ch) := .inr (.inr (.inr ⟨rfl, rfl⟩))

theorem Classified.powerDownExit (ch : Nat) : Classified.Statement (.powerDownExit ch) := .inr (.inr (.inr ⟨rfl, rfl⟩))

theorem Classified.selfRefreshRequest (ch : Nat) : Classified.Statement (.selfRefreshRequest ch) := .inr (.inr (.inr ⟨rfl, rfl⟩))

theorem Classified.selfRefreshExit (ch : Nat) : Classified.Statement (.selfRefreshExit ch) := .inr (.inr (.inr ⟨rfl, rfl⟩))

theorem Classified.supplySag (die : Nat) : Classified.Statement (.supplySag die) := .inr (.inr (.inr ⟨rfl, rfl⟩))

theorem Classified.supplyRecoveryStep (die : Nat) : Classified.Statement (.supplyRecoveryStep die) := .inr (.inr (.inr ⟨rfl, rfl⟩))

theorem Classified.suspendRequest (epoch : BitVec 16) : Classified.Statement (.suspendRequest epoch) := .inr (.inr (.inr ⟨rfl, rfl⟩))

theorem Classified.quiesceLimitExpiry : Classified.Statement .quiesceLimitExpiry := .inr (.inr (.inr ⟨rfl, rfl⟩))

theorem Classified.suspendSave : Classified.Statement .suspendSave := .inr (.inr (.inr ⟨rfl, rfl⟩))

theorem Classified.resumeRequest (us : Nat) (image : List Byte) : Classified.Statement (.resumeRequest us image) := .inr (.inr (.inr ⟨rfl, rfl⟩))

theorem Classified.failureAcknowledge : Classified.Statement .failureAcknowledge := .inr (.inr (.inr ⟨rfl, rfl⟩))

theorem Classified.powerOn (fw : List Byte) (sig : BitVec 512) : Classified.Statement (.powerOn fw sig) := .inr (.inr (.inr ⟨rfl, rfl⟩))

theorem Classified.selfTestPass (bit : Nat) : Classified.Statement (.selfTestPass bit) := .inr (.inr (.inr ⟨rfl, rfl⟩))

theorem Classified.configurationRecordWrite (rec_ : BitVec 4096) : Classified.Statement (.configurationRecordWrite rec_) := .inr (.inr (.inr ⟨rfl, rfl⟩))

theorem Classified.attestationRequest (nonce : BitVec 256) : Classified.Statement (.attestationRequest nonce) := .inr (.inr (.inr ⟨rfl, rfl⟩))

end Sys2Proof.Laws
end

