-- ==== Sys2Proof/Laws/Request.lean ====
section
/-! SUPPORT. Every hand instruction's meaning is an issue of its request: what issue answers, the instruction answers. -/

namespace Sys2Proof.Machine

/-- The meaning of i at s is an issue of the request that it has, if it has one. -/
def IssuesRequest (i : Instr) (s : State) : Prop :=
  ∀ k r, request i s = some (k, r) → ∃ body, exec i s = issue s k r body

theorem issuesRequest_of {i : Instr} {s : State} {k : Tok} {r : Req} {body : State → List (Word × Tag) → Nat → Res}
    (hr : request i s = some (k, r)) (he : exec i s = issue s k r body) : IssuesRequest i s := by
  intro k' r' h
  obtain ⟨rfl, rfl⟩ := Prod.mk.inj (Option.some.inj (hr.symm.trans h))
  exact ⟨body, he⟩

theorem issuesRequest_none {i : Instr} {s : State} (hr : request i s = none) : IssuesRequest i s :=
  fun _ _ h => nomatch hr.symm.trans h

/-- A hand instruction's meaning is an issue of the request that it has. -/
theorem exec_is_issue (i : Instr) (s : State) : IssuesRequest i s := by
  cases i
  case csrw kk a c =>
    by_cases hc : c = .palbase
    · subst hc
      exact issuesRequest_of rfl rfl
    · intro k r h
      have he : exec (.csrw kk a c) s = execCsrw kk a c s := rfl
      rw [execCsrw, if_neg hc] at he
      have hr : some (kk, if c = .palbase then _ else _) = some (k, r) := h
      rw [if_neg hc] at hr
      obtain ⟨rfl, rfl⟩ := Prod.mk.inj (Option.some.inj hr)
      exact ⟨_, he⟩
  case chcnt k d a => cases a <;> exact issuesRequest_of rfl rfl
  case chfree k d a => cases a <;> exact issuesRequest_of rfl rfl
  all_goals first
    | exact issuesRequest_of rfl rfl
    | exact issuesRequest_none rfl

end Sys2Proof.Machine
end

