-- ==== Sys2Proof/Laws/Step.lean ====
section
/-! SUPPORT. What one step can do: the next move of the schedule reaches a state without an instruction, or an instruction's
meaning answers one; the end of the step follows. -/

namespace Sys2Proof.Machine

theorem step_cases {s t : State} (h : step s = .next t) :
    (∃ u, nextMove s = .stays u ∧ t = settled u) ∨ ∃ i u v, nextMove s = .goes i u ∧ exec i u = .next v ∧ t = settled v := by
  simp only [step] at h
  split at h
  · rename_i u hm; cases h; exact .inl ⟨u, hm, rfl⟩
  · rename_i i u hm
    split at h
    · rename_i v hv; cases h; exact .inr ⟨i, u, v, hm, hv, rfl⟩
    · cases h
    · cases h

theorem step_goes {s u v : State} {i : Instr} (hm : nextMove s = .goes i u) (he : exec i u = .next v) : step s = .next (settled v) := by
  simp only [step, hm, he]

theorem step_stays {s u : State} (hm : nextMove s = .stays u) : step s = .next (settled u) := by
  simp only [step, hm]

end Sys2Proof.Machine
end

