-- ==== Sys2Proof/Laws/Trap.lean ====
section
/-! SUPPORT. Laws of taking a trap and returning from one (R330 to R333): what entry writes on a hand, and what it leaves. -/

namespace Sys2Proof.Machine

@[simp] theorem enterTrap_sup (h : Hand) (q : SeqId) (c : Nat) (i : Word) (p : Ptr) (now : Nat) : (enterTrap h q c i p now).sup = true := rfl
@[simp] theorem enterTrap_tinfo (h : Hand) (q : SeqId) (c : Nat) (i : Word) (p : Ptr) (now : Nat) : (enterTrap h q c i p now).tinfo = i := rfl
@[simp] theorem enterTrap_epcPc (h : Hand) (q : SeqId) (c : Nat) (i : Word) (p : Ptr) (now : Nat) : (enterTrap h q c i p now).epcPc = ptrWord p := rfl
@[simp] theorem enterTrap_xpc (h : Hand) (q : SeqId) (c : Nat) (i : Word) (p : Ptr) (now : Nat) : (enterTrap h q c i p now).x.pc = ptrOf h.tvec := by cases q <;> rfl
@[simp] theorem enterTrap_bound (h : Hand) (q : SeqId) (c : Nat) (i : Word) (p : Ptr) (now : Nat) : (enterTrap h q c i p now).bound = h.bound := by cases q <;> rfl
@[simp] theorem enterTrap_chans (h : Hand) (q : SeqId) (c : Nat) (i : Word) (p : Ptr) (now : Nat) : (enterTrap h q c i p now).chans = h.chans := by cases q <;> rfl
@[simp] theorem enterTrap_landings (h : Hand) (q : SeqId) (c : Nat) (i : Word) (p : Ptr) (now : Nat) : (enterTrap h q c i p now).landings = h.landings := by cases q <;> rfl

/-- Entry writes no register of any sequencer, and no buffered access. -/
theorem enterTrap_keeps (h : Hand) (q q' : SeqId) (c : Nat) (i : Word) (p : Ptr) (now : Nat) :
    (seqOf (enterTrap h q c i p now) q').regs = (seqOf h q').regs ∧ (seqOf (enterTrap h q c i p now) q').ob = (seqOf h q').ob ∧
    (seqOf (enterTrap h q c i p now) q').lc = (seqOf h q').lc := by
  cases q <;> cases q' <;> simp only [seqOf, enterTrap] <;> (try split) <;> exact ⟨rfl, rfl, rfl⟩

/-- Only X keeps its line of fetch: entry freezes the other sequencers that run, at their code pointers. -/
theorem enterTrap_freezes (h : Hand) (q q' : SeqId) (c : Nat) (i : Word) (p : Ptr) (now : Nat) (hq : q' ≠ .x) :
    (seqOf (enterTrap h q c i p now) q').pc = (seqOf h q').pc ∧ (seqOf (enterTrap h q c i p now) q').status = (seqOf h q').status ∧
    ((seqOf h q').status = .run → (seqOf (enterTrap h q c i p now) q').frozen = true) := by
  have key : ∀ x y z : Seqr, y.pc = x.pc → y.status = x.status → z = (if y.status = .run then { y with frozen := true } else y) →
      z.pc = x.pc ∧ z.status = x.status ∧ (x.status = .run → z.frozen = true) := by
    intro x y z h1 h2 h3; subst h3; split <;> simp_all
  cases q <;> cases q' <;> first | exact absurd rfl hq | exact key _ _ _ rfl rfl rfl |
    exact key _ { seqOf h _ with since := none } _ rfl rfl rfl

/-- Everything taking a trap can do to the rest of the state: its hand, trace records, and a stop that matches. -/
theorem trapAt_cases (s : State) (g : Nat) (q : SeqId) (c : Nat) (i : Word) (p : Ptr) :
    ((handOf s g).sup = true ∧ trapAt s g q c i p = traceTrap (modHand s g (fun h => doubleTrap h q c i p)) g q) ∨
    ((handOf s g).sup = false ∧ trapAt s g q c i p = stopIf (traceTrap (modHand s g (fun h => enterTrap h q c i p s.time.toNat)) g q) g 2 (some q)) := by
  simp only [trapAt]
  split
  · rename_i h; exact .inl ⟨h, rfl⟩
  · rename_i h; exact .inr ⟨by simpa using h, rfl⟩

/-- With no stop on it, entry leaves the hand as R330 says. -/
theorem handOf_takeTrap {s : State} {g : Nat} {q : SeqId} {c : Nat} {i : Word} (hs : (handOf s g).sup = false)
    (hn : stopMatch (traceTrap (modHand s g (fun h => enterTrap h q c i (sqOf s g q).pc s.time.toNat)) g q) g 2 (some q) = none) :
    handOf (takeTrap s g q c i) g = enterTrap (handOf s g) q c i (sqOf s g q).pc s.time.toNat := by
  rcases trapAt_cases s g q c i (sqOf s g q).pc with ⟨h, _⟩ | ⟨_, h⟩
  · rw [hs] at h; cases h
  · have hm : handOf (traceTrap (modHand s g (fun h => enterTrap h q c i (sqOf s g q).pc s.time.toNat)) g q) g =
        handOf (modHand s g (fun h => enterTrap h q c i (sqOf s g q).pc s.time.toNat)) g := by simp [handOf, traceTrap]
    rw [takeTrap, h]; simp only [stopIf, hn]
    rw [hm, handOf_modHand_self]

/-- A double trap stops every sequencer and ends the leaf with status 5 (R332). -/
theorem doubleTrap_stops (h : Hand) (q q' : SeqId) (c : Nat) (i : Word) (p : Ptr) :
    (doubleTrap h q c i p).ending = some 5 ∧ (seqOf (doubleTrap h q c i p) q').status ≠ .run ∧ (seqOf (doubleTrap h q c i p) q').frozen = false := by
  refine ⟨rfl, ?_⟩
  cases q' <;> refine ⟨?_, rfl⟩ <;> simp only [seqOf, doubleTrap] <;> split <;> simp_all

end Sys2Proof.Machine
end

