-- ==== Sys2Proof/Tests/Slice0.lean ====
section
/-! SUPPORT. Tests of this model on small states: words of the spec decoded, ill-formed terms refused, one step at a time, and for
the statements a concrete state and operands that meet their hypotheses. -/

namespace Sys2Proof.Tests

set_option Elab.async false

open Sys2Proof Sys2Proof.Machine

/-! ### Small states -/

/-- A TOK field that asks for nothing. -/
def k0 : Tok := { wf := false, sf := false, wb := false, sb := false }

/-- A TOK field of these letters. -/
def tok (wf sf wb sb : Bool) : Tok := { wf := wf, sf := sf, wb := wb, sb := sb }

def leaf0 : Bound := { launch := 7, task := 0, leaf := 0, codeBase := 0x4000, codeLen := 4, windows := [(0, 96), (0, 96), (0, 64)] }
/-- A started sequencer at slot 1 of a line of 15 slots that has no successor. -/
def run0 : Seqr := { Seqr.reset with status := .run, line := some (0x1F000000 :: List.replicate 15 0) }
def hand0 : Hand := { Hand.reset with bound := some leaf0, x := run0, l := run0, c := run0, s := run0 }

/-- A state at rest in which hand 0 runs a leaf and sequencer q is in focus, hand 0 edited by f. -/
def at0 (q : SeqId) (f : Hand → Hand) : State := { State.reset with nextId := 100, focusSq := q, hands := [(0, f hand0)] }

/-- A register of sequencer q set. -/
def withReg (q : SeqId) (n : Nat) (v : Word) (h : Hand) : Hand := modSeq h q (fun z => { z with regs := tput z.regs n v })

/-- The state that an answer gives, if it is a next state that satisfies p. -/
def gives (o : Res) (p : State → Bool) : Bool :=
  match o with
  | .next t => p t
  | .fault _ => false
  | .refused _ => false

def reg (t : State) (q : SeqId) (n : BitVec 5) : Word := regGet (sqOf t 0 q) n

/-! ### Issue points that issue -/

/-- The values that a request reads in a state, with the hand after it. -/
def readOf (s : State) (r : Req) : Hand × List (Word × Tag) :=
  match readSrcs (handOf s s.focus) (s.focus % 4) s.focusSq r.norec r.srcs with
  | .ok p => p
  | .error _ => (Hand.reset, [])

def readable (s : State) (r : Req) : Bool :=
  match readSrcs (handOf s s.focus) (s.focus % 4) s.focusSq r.norec r.srcs with
  | .ok _ => true
  | .error _ => false

/-- The premises of Issues, computed. -/
def issuable (s : State) (k : Tok) (r : Req) : Bool :=
  let h := handOf s s.focus
  let z := sqOf s s.focus s.focusSq
  canIssue s s.focus s.focusSq && (s.focusSq != .c || h.landings.all (fun l => l.rem != 0)) &&
  (s.focusSq != .x || h.heldMc == none || h.sup) && (stopMatch s s.focus 0 (some s.focusSq) == none) &&
  (checks h s.focus s.focusSq r == none) && !z.awaits.isSome && (reqRegs r).all (fun n => !regPending z n) &&
  (tokenWait h s.focusSq k == none) && (s.focusSq != .c || decide (h.landings.length + r.lands ≤ 16)) &&
  (s.focusSq != .c || !r.lane || h.lanes == 0) && readable s r &&
  (match reserves s.focusSq r.dst with
   | none => true
   | some n => chanRoom s s.focus n)

theorem issues_of {s : State} {k : Tok} {r : Req} (h : issuable s k r = true) : Issues s k r (readOf s r).1 (readOf s r).2 := by
  simp only [issuable, Bool.and_eq_true, Bool.or_eq_true, Bool.not_eq_true', bne_iff_ne, beq_iff_eq, decide_eq_true_eq, List.all_eq_true] at h
  obtain ⟨⟨⟨⟨⟨⟨⟨⟨⟨⟨⟨live, noDue⟩, noMc⟩, noStop⟩, legal⟩, nb⟩, np⟩, tw⟩, lr⟩, lf⟩, rd⟩, room⟩ := h
  refine { live := live, noDue := ?_, noBarrier := ?_, noMc := ?_, noStop := noStop, legal := legal, noPending := np, tokens := tw, landRoom := ?_, lanesFree := ?_, reads := ?_, room := ?_ }
  · intro hc l hl; rcases noDue with h | h
    · exact absurd hc h
    · exact h l hl
  · rw [← barrierPending_iff]; simp [nb]
  · intro hx; rcases noMc with (h | h) | h
    · exact absurd hx h
    · exact .inl h
    · exact .inr h
  · intro hc; rcases lr with h | h
    · exact absurd hc h
    · exact h
  · intro hc hl; rcases lf with (h | h) | h
    · exact absurd hc h
    · simp [hl] at h
    · exact h
  · simp only [readable, readOf] at rd ⊢
    split at rd
    · rename_i p hp; simp [hp]
    · cases rd
  · intro n hn; rw [hn] at room; exact room

/-- An instruction issues: it has a request, and the request issues. -/
def runs (s : State) (i : Instr) : Bool :=
  match request i s with
  | some (k, r) => issuable s k r
  | none => false

theorem issues_of_runs {s : State} {i : Instr} (h : runs s i = true) : ∃ k r, request i s = some (k, r) ∧ Issues s k r (readOf s r).1 (readOf s r).2 := by
  simp only [runs] at h
  split at h
  · rename_i k r hr; exact ⟨k, r, hr, issues_of h⟩
  · cases h

/-! ### Decoding

The words of these tables are put together from the fixed and operand bits that spec/opcode_table.json and R85 to R91 give each
row: registers 5, 6, 7, tokens ^sf ^sb, distinct values in the other fields. -/

def kt : Tok := tok false true false true

/-- A word of the short form, with anything after it, decodes to an instruction. -/
def reads (w : IWord) (i : Instr) : Bool :=
  (match decode w 0 with
   | .ok j => j == i
   | .error _ => false) &&
  (match decode w 0xFFFFFFFF with
   | .ok j => j == i
   | .error _ => false)

def readsLong (w v : IWord) (i : Instr) : Bool :=
  match decode w v with
  | .ok j => j == i
  | .error _ => false

def readsMicro (w : IWord) (i : Instr) : Bool :=
  match decodeMicro w with
  | .ok j => j == i
  | .error _ => false

theorem test_decode_nop_to_minu : ([
    (0x01400000, .nop kt),
    (0x05450C1C, .add kt (.reg 5) (.reg 6) (.reg 7)),
    (0x05450C1D, .sub kt (.reg 5) (.reg 6) (.reg 7)),
    (0x05450C1E, .and kt (.reg 5) (.reg 6) (.reg 7)),
    (0x05450C1F, .or kt (.reg 5) (.reg 6) (.reg 7)),
    (0x09450C1C, .xor kt (.reg 5) (.reg 6) (.reg 7)),
    (0x09450C1D, .sll kt (.reg 5) (.reg 6) (.reg 7)),
    (0x09450C1E, .srl kt (.reg 5) (.reg 6) (.reg 7)),
    (0x09450C1F, .sra kt (.reg 5) (.reg 6) (.reg 7)),
    (0x0D450C1C, .mul kt (.reg 5) (.reg 6) (.reg 7)),
    (0x0D450C1D, .mulh kt (.reg 5) (.reg 6) (.reg 7)),
    (0x0D450C1E, .mulhu kt (.reg 5) (.reg 6) (.reg 7)),
    (0x0D450C1F, .andn kt (.reg 5) (.reg 6) (.reg 7)),
    (0x11450C1C, .div kt (.reg 5) (.reg 6) (.reg 7)),
    (0x11450C1D, .divu kt (.reg 5) (.reg 6) (.reg 7)),
    (0x11450C1E, .rem kt (.reg 5) (.reg 6) (.reg 7)),
    (0x11450C1F, .remu kt (.reg 5) (.reg 6) (.reg 7)),
    (0x15450C1C, .seq kt (.reg 5) (.reg 6) (.reg 7)),
    (0x15450C1D, .slt kt (.reg 5) (.reg 6) (.reg 7)),
    (0x15450C1E, .sltu kt (.reg 5) (.reg 6) (.reg 7)),
    (0x15450C1F, .sne kt (.reg 5) (.reg 6) (.reg 7)),
    (0x19450C1C, .min kt (.reg 5) (.reg 6) (.reg 7)),
    (0x19450C1D, .max kt (.reg 5) (.reg 6) (.reg 7)),
    (0x19450C1E, .minu kt (.reg 5) (.reg 6) (.reg 7))] : List (IWord × Instr)).all (fun x => reads x.1 x.2) = true := by decide +kernel

theorem test_decode_maxu_to_beqz : ([
    (0x19450C1F, .maxu kt (.reg 5) (.reg 6) (.reg 7)),
    (0x1D450DF1, .addi kt (.reg 5) (.reg 6) 497),
    (0x21450DF1, .andi kt (.reg 5) (.reg 6) 497),
    (0x25450DF1, .ori kt (.reg 5) (.reg 6) 497),
    (0x29450DF1, .xori kt (.reg 5) (.reg 6) 497),
    (0x2D450C03, .slli kt (.reg 5) (.reg 6) 3),
    (0x2D450C83, .srli kt (.reg 5) (.reg 6) 3),
    (0x2D450D03, .srai kt (.reg 5) (.reg 6) 3),
    (0x2D450D83, .roti kt (.reg 5) (.reg 6) 3),
    (0x31450DF1, .slti kt (.reg 5) (.reg 6) 497),
    (0x35450DF1, .sltiu kt (.reg 5) (.reg 6) 497),
    (0x39450C1E, .addsh kt (.reg 5) (.reg 6) (.reg 7) 2),
    (0x3D450C00, .clz kt (.reg 5) (.reg 6)),
    (0x3D450C01, .ctz kt (.reg 5) (.reg 6)),
    (0x3D450C02, .popc kt (.reg 5) (.reg 6)),
    (0x3D450C03, .brev kt (.reg 5) (.reg 6)),
    (0x41450C00, .tclr kt (.reg 5) (.reg 6)),
    (0x41450C01, .tget kt (.reg 5) 6),
    (0x41450C1E, .tjoin kt (.reg 5) (.reg 6) (.reg 7)),
    (0x41400C03, .twait kt 6),
    (0x4545C600, .chcnt kt (.reg 5) (.peek 3)),
    (0x4545C601, .chfree kt (.reg 5) (.peek 3)),
    (0x45450006, .tkcnt kt (.reg 5) 1),
    (0x49520032, .beqz kt 9 3 2)] : List (IWord × Instr)).all (fun x => reads x.1 x.2) = true := by decide +kernel

theorem test_decode_bnez_to_amomin : ([
    (0x49524032, .bnez kt 9 3 2),
    (0x49528032, .bltz kt 9 3 2),
    (0x4952C032, .bgez kt 9 3 2),
    (0x49530032, .bgtz kt 9 3 2),
    (0x49534032, .blez kt 9 3 2),
    (0x4D400032, .j kt 3 2),
    (0x51400032, .jal kt 3 2),
    (0x55400C00, .jr kt (.reg 6)),
    (0x55400C01, .jalr kt (.reg 6)),
    (0x59410C00, .loop kt 1 (.reg 6)),
    (0x5D410600, .loopi kt 1 3),
    (0x61420032, .brloop kt 1 3 2),
    (0x65450D83, .ld kt (.reg 5) (.reg 6) .d 3),
    (0x69450D83, .lds kt (.reg 5) (.reg 6) .d 3),
    (0x6D450DA3, .lda kt (.reg 5) (.reg 6) .d .cluster 3),
    (0x71430C1F, .st kt 3 (.reg 6) (.reg 7) .d),
    (0x75530C1F, .str kt .cluster 3 (.reg 6) (.reg 7) .d),
    (0x79450DC3, .ldb kt (.reg 5) (.reg 6) .d .cb 3),
    (0x7D630C1F, .stb kt .cb 3 (.reg 6) (.reg 7) .d),
    (0x814A6386, .amoadd kt 5 6 7 true .release),
    (0x814A638E, .amoand kt 5 6 7 true .release),
    (0x814A6396, .amoor kt 5 6 7 true .release),
    (0x814A639E, .amoxor kt 5 6 7 true .release),
    (0x814A63A6, .amomin kt 5 6 7 true .release)] : List (IWord × Instr)).all (fun x => reads x.1 x.2) = true := by decide +kernel

theorem test_decode_amomax_to_cadd : ([
    (0x814A63AE, .amomax kt 5 6 7 true .release),
    (0x814A63B6, .amominu kt 5 6 7 true .release),
    (0x814A63BE, .amomaxu kt 5 6 7 true .release),
    (0x814A63C6, .amoswap kt 5 6 7 true .release),
    (0x814A63CE, .amocas kt 5 6 7 true .release),
    (0x814A63D2, .amofadd kt 5 6 7 false .release),
    (0x814A63DA, .amofmax kt 5 6 7 false .release),
    (0x854A6380, .binit kt 5 6 7),
    (0x854A6381, .barv kt 5 6 7),
    (0x854A6382, .bwait kt 5 6 7),
    (0x854A6383, .btest kt 5 6 7),
    (0x854A6384, .breset kt 5 6 7),
    (0x894000AA, .fence kt .cluster true false true false true false),
    (0x8D4A6000, .cpqry kt 5 6),
    (0x8D4A6390, .frgo kt 5 6 7),
    (0x8D4A6011, .frst kt 5 6),
    (0x8D4A6012, .frspl kt 5 6),
    (0x8D4A6393, .frld kt 5 6 7),
    (0x8D4A63A0, .cxlay kt 5 6 7),
    (0x8D4A63A1, .cxgo kt 5 6 7),
    (0x8D4A63A2, .carm kt 5 6 7),
    (0x8D4A6023, .cdis kt 5 6),
    (0x8D4A6024, .ccnt kt 5 6),
    (0x8D4A63A5, .cadd kt 5 6 7)] : List (IWord × Instr)).all (fun x => reads x.1 x.2) = true := by decide +kernel

theorem test_decode_csend_to_vsub : ([
    (0x8D4A6026, .csend kt 5 6),
    (0x8D4A63A7, .chist kt 5 6 7),
    (0x8D4A0028, .cslot kt 5),
    (0x914A8002, .pushc kt 5 8 .glaze),
    (0x95450C00, .mlease kt (.reg 5) (.reg 6)),
    (0x95400001, .mfree kt),
    (0x95450002, .mstat kt (.reg 5)),
    (0x95400003, .msync kt),
    (0x9D450010, .csrr kt (.reg 5) .time),
    (0xA1400C32, .csrw kt (.reg 6) (.lc 2)),
    (0xA1400C42, .palbaseWrite kt (.reg 6)),
    (0xA5400C00, .trap kt (.reg 6)),
    (0xA4000001, .eret),
    (0xA5400002, .halt kt),
    (0xA5400003, .yield kt),
    (0xA9400001, .brk kt 1),
    (0xAD4A6380, .gtick kt 5 6 7),
    (0xAD4A6181, .gldg kt 5 6 3),
    (0xAD406382, .grst kt 6 7),
    (0xAD4A6383, .gexp kt 5 6 7),
    (0xAD4A6384, .gimp kt 5 6 7),
    (0xAD4A6005, .gstat kt 5 6),
    (0xB14A6390, .vadd kt 5 6 7 4),
    (0xB14A6391, .vsub kt 5 6 7 4)] : List (IWord × Instr)).all (fun x => reads x.1 x.2) = true := by decide +kernel

theorem test_decode_vmul_to_vor : ([
    (0xB14A6392, .vmul kt 5 6 7 4),
    (0xB14A6393, .vfma kt 5 6 7 4),
    (0xB54A6390, .vmin kt 5 6 7 4),
    (0xB54A6391, .vmax kt 5 6 7 4),
    (0xB54A6392, .vdiv kt 5 6 7 4),
    (0xB54A6393, .vfms kt 5 6 7 4),
    (0xB94A6010, .vsqrt kt 5 6 4),
    (0xB94A6011, .vrcp kt 5 6 4),
    (0xB94A6012, .vrsq kt 5 6 4),
    (0xB94A6013, .vexp2 kt 5 6 4),
    (0xBD4A6010, .vlog2 kt 5 6 4),
    (0xBD4A6011, .vabs kt 5 6 4),
    (0xBD4A6012, .vneg kt 5 6 4),
    (0xBD4A6013, .vtanh kt 5 6 4),
    (0xC14A6390, .vceq kt 5 6 7 4),
    (0xC14A6391, .vclt kt 5 6 7 4),
    (0xC14A6392, .vcle kt 5 6 7 4),
    (0xC14A6393, .vcne kt 5 6 7 4),
    (0xC54A6390, .viadd kt 5 6 7 4),
    (0xC54A6391, .visub kt 5 6 7 4),
    (0xC54A6392, .vimul kt 5 6 7 4),
    (0xC54A6393, .vshl kt 5 6 7 4),
    (0xC94A6390, .vand kt 5 6 7 4),
    (0xC94A6391, .vor kt 5 6 7 4)] : List (IWord × Instr)).all (fun x => reads x.1 x.2) = true := by decide +kernel

theorem test_decode_vxor_to_vscana : ([
    (0xC94A6392, .vxor kt 5 6 7 4),
    (0xC94A6393, .vshr kt 5 6 7 4),
    (0xCD4A6490, .vadds kt 5 6 9 4),
    (0xCD4A6491, .vmuls kt 5 6 9 4),
    (0xCD4A6492, .vfmas kt 5 6 9 4),
    (0xCD4A0493, .vbcast kt 5 9 4),
    (0xD14A6390, .vsel kt 5 6 7 4),
    (0xD14A6011, .vmov kt 5 6 4),
    (0xD14A6392, .vextr kt 5 6 7 4),
    (0xD14A6393, .vins kt 5 6 7 4),
    (0xD54A6010, .vrsum kt 5 6 4),
    (0xD54A6011, .vcsum kt 5 6 4),
    (0xD54A6012, .vrmax kt 5 6 4),
    (0xD54A6013, .vcmax kt 5 6 4),
    (0xD94A6010, .vtrn kt 5 6 4),
    (0xD94A6391, .vrotr kt 5 6 7 4),
    (0xD94A6392, .vrotc kt 5 6 7 4),
    (0xD94A6013, .vrev kt 5 6 4),
    (0xDD4A6390, .vhmul kt 5 6 7 4),
    (0xDD4A6011, .vhconj kt 5 6 4),
    (0xDD4A6012, .vhnorm kt 5 6 4),
    (0xDD4A6013, .vhinv kt 5 6 4),
    (0xE14A6390, .vscan kt 5 6 7 4),
    (0xE14A6011, .vscana kt 5 6 4)] : List (IWord × Instr)).all (fun x => reads x.1 x.2) = true := by decide +kernel

theorem test_decode_vscanm_to_vland : ([
    (0xE14A6012, .vscanm kt 5 6 4),
    (0xE54A6010, .vcvt kt 5 6 4),
    (0xE54A6011, .vqnt kt 5 6 4),
    (0xE54A6012, .vdq kt 5 6 4),
    (0xE54A6013, .vrnd kt 5 6 4),
    (0xE94A6380, .pand kt 5 6 7),
    (0xE94A6381, .por kt 5 6 7),
    (0xE94A6002, .pnot kt 5 6),
    (0xE94A6383, .pxor kt 5 6 7),
    (0xED4A2490, .vld kt 5 .cb 9 4),
    (0xED4A2491, .vst kt 5 .cb 9 4),
    (0xED4A2492, .vldr kt 5 .cb 9 4),
    (0xED4A2493, .vstr kt 5 .cb 9 4),
    (0xF14A6000, .vshape kt 5 6),
    (0xF14A6381, .psel kt 5 6 7),
    (0xF14A6002, .algsel kt 5 6),
    (0xF14A6383, .vland kt 5 6 7)] : List (IWord × Instr)).all (fun x => reads x.1 x.2) = true := by decide +kernel

theorem test_decode_micro : ([
    (0x0B100005, .wsetm 3 true 5),
    (0x10000005, .wmode 5),
    (0x1B000003, .wopen 3 3),
    (0x20000000, .wclose),
    (0x28000105, .wread true 5),
    (0x30000504, .wwrite 5 4),
    (0x3B000005, .wscale 3 5),
    (0x40000001, .wadd true),
    (0x48000000, .wdeq),
    (0x53000000, .wloop 3),
    (0x58000000, .wnext),
    (0x60000000, .wwin),
    (0x68000000, .wsave),
    (0x70000000, .wrest),
    (0x78000000, .wend)] : List (IWord × Instr)).all (fun x => readsMicro x.1 x.2) = true := by decide +kernel

/-- Words that the spec writes out, of the long form (R107, R108, R148, R149, R235, R237, R238, R214, R216, R259). -/
theorem test_decode_long : ([
    (0xF4001C00, 0x000186A0, .liw k0 (.reg 7) 100000),
    (0xF4011C00, 0x00000001, .lih k0 7 1),
    (0xF402490A, 0x30A10000, .copyIn k0 9 4 5 6 .ab .cluster true false .copy .zero),
    (0xF402510B, 0x35140000, .copyOut k0 10 4 5 6 .cb .package false true .addF32 .none),
    (0xF403490A, 0x30003800, .copyxIn k0 9 4 5 6 7 .ab .hand false false .copy .none),
    (0xF403490B, 0x30003800, .copyxOut k0 9 4 5 6 7 .ab .hand false false .copy .none),
    (0xF40449C8, 0x30000000, .drain k0 9 7 4 6 .hand false false .copy .none),
    (0xF40449C8, 0x31140000, .drain k0 9 7 4 6 .package false true .addF32 .none),
    (0xF405394C, 0x21E00000, .mma k0 7 5 6 false 2 0 3 3 0 false false false false false false),
    (0xF405394D, 0x02A0A000, .mma k0 7 5 6 true 0 1 1 1 0 false false true false true false),
    (0xF405394C, 0xF1FD1000, .mma k0 7 5 6 false 15 0 3 3 7 false true false false false true),
    (0xF406394C, 0x21E00F00, .mmag k0 7 5 6 false 2 0 3 3 0 false false false false false 3 3),
    (0xF4072900, 0x00000000, .algld k0 1 9),
    (0xF4083000, 0x00000064, .pset k0 6 .first 100),
    (0xF4083000, 0x80000003, .pset k0 6 .col 3),
    (0xF4092A0C, 0x20FF0000, .vtlu k0 5 8 6 1 0 0xFF),
    (0xF40A0348, 0x00000000, .gcfg k0 3 9)] : List (IWord × IWord × Instr)).all (fun x => readsLong x.1 x.2.1 x.2.2) = true := by decide +kernel

/-- Words that the spec writes out, of the scalar, memory and system families (R102 to R122, R143 to R151, R239, R255). -/
theorem test_decode_spec_scalar : ([
    (0x1C0409FF, .addi k0 (.reg 4) (.reg 4) 0x1FF),
    (0x48084001, .bnez k0 4 0 1),
    (0x4812BFE5, .bltz k0 9 0x3FE 5),
    (0x08050C1F, .sra k0 (.reg 5) (.reg 6) (.reg 7)),
    (0x2C050D03, .srai k0 (.reg 5) (.reg 6) 3),
    (0x3C050C02, .popc k0 (.reg 5) (.reg 6)),
    (0x400A1626, .tjoin k0 (.reg 10) (.reg 11) (.reg 9)),
    (0x4405C600, .chcnt k0 (.reg 5) (.peek 3)),
    (0x4405C801, .chfree k0 (.reg 5) (.peek 4)),
    (0x54003E00, .jr k0 (.reg 31)),
    (0x58010E00, .loop k0 1 (.reg 7)),
    (0x5C000800, .loopi k0 0 4),
    (0x60000001, .brloop k0 0 0 1),
    (0x50000011, .jal k0 1 1),
    (0x9C050010, .csrr k0 (.reg 5) .time),
    (0xA2000842, .palbaseWrite (tok true false false false) (.reg 4)),
    (0x64050382, .ld k0 (.reg 5) (.reg 1) .d 2),
    (0x68050CFF, .lds k0 (.reg 5) (.reg 6) .h 0x7F),
    (0x6C0509A1, .lda k0 (.reg 5) (.reg 4) .d .cluster 1),
    (0x7421081F, .str k0 .package 1 (.reg 4) (.reg 7) .d),
    (0x78050D22, .ldb k0 (.reg 5) (.reg 6) .w .wb 2),
    (0x7C020C1F, .stb k0 .ab 2 (.reg 6) (.reg 7) .d)] : List (IWord × Instr)).all (fun x => reads x.1 x.2) = true := by decide +kernel

/-- Words that the spec writes out, of the engine, glaze, barrier and vector families (R151, R202 to R219, R239, R254 to R258, R276). -/
theorem test_decode_spec_engines : ([
    (0x84124400, .binit k0 9 4 8),
    (0x84124582, .bwait k0 9 4 11),
    (0x84184003, .btest k0 12 4 0),
    (0x84004581, .barv k0 0 4 11),
    (0x8C0A6000, .cpqry k0 5 6),
    (0x8C064290, .frgo k0 3 4 5),
    (0x8C0A6011, .frst k0 5 6),
    (0x8C0A6012, .frspl k0 5 6),
    (0x8C0A6393, .frld k0 5 6 7),
    (0x900A8002, .pushc k0 5 8 .glaze),
    (0x90018004, .pushc k0 0 24 .copy),
    (0x94050002, .mstat k0 (.reg 5)),
    (0xAC104281, .gldg k0 8 4 5),
    (0xAC004302, .grst k0 4 6),
    (0xB008110F, .vfma k0 4 1 2 3),
    (0xC0061125, .vclt k0 3 1 2 9),
    (0xCC0A0483, .vbcast k0 5 9 0),
    (0xE00A6388, .vscan k0 5 6 7 2),
    (0xEC0A0488, .vld k0 5 .ab 9 2),
    (0xEC0A2481, .vst k0 5 .cb 9 0),
    (0xF00A6383, .vland k0 5 6 7),
    (0xF0006002, .algsel k0 0 6)] : List (IWord × Instr)).all (fun x => reads x.1 x.2) = true := by decide +kernel

/-- Words that R320 writes out. -/
theorem test_decode_spec_micro : ([
    (0x09000000, .wsetm 1 false 0), (0x10000006, .wmode 6), (0x1B000002, .wopen 3 2), (0x20000000, .wclose), (0x28000101, .wread true 1),
    (0x39000001, .wscale 1 1), (0x40000000, .wadd false), (0x48000000, .wdeq), (0x52000000, .wloop 2), (0x58000000, .wnext),
    (0x60000000, .wwin), (0x68000000, .wsave), (0x70000000, .wrest), (0x78000000, .wend)] : List (IWord × Instr)).all (fun x => readsMicro x.1 x.2) = true := by decide +kernel

/-! ### Ill-formed terms -/

/-- WellFormed refuses a term for each of its checks. -/
theorem test_ill_formed_terms : ([
    .chcnt k0 (.reg 5) (.reg 3), .chfree k0 (.reg 5) (.pop 3), .loopi k0 0 0, .amocas k0 5 6 7 true .relaxed, .amofadd k0 5 6 8 true .relaxed,
    .amofmax k0 5 6 8 true .relaxed, .pushc k0 5 9 .fresco, .csrw k0 (.reg 4) .id, .csrw k0 (.reg 4) .partid, .csrw k0 (.reg 4) (.lvl 0),
    .csrw k0 (.reg 4) .time, .gldg k0 8 4 0, .gldg k0 8 4 16, .gldg k0 0 4 1, .gldg k0 31 4 3,
    .copyIn k0 9 4 5 6 .ab .hand false false .max .none, .copyxIn k0 9 4 5 6 7 .ab .hand false false .addF32 .none, .algld k0 0 9,
    .pset k0 6 .first 1025, .csrw k0 (.reg 4) .palbase] : List Instr).all (fun i => !WellFormed i) = true := by decide +kernel

theorem test_ill_formed_scopes : ([
    .copyIn k0 9 4 5 6 .ab .die false false .copy .none, .copyOut k0 9 4 5 6 .ab .die false false .copy .none,
    .copyxIn k0 9 4 5 6 7 .ab .easel false false .copy .none, .copyxOut k0 9 4 5 6 7 .ab .easel false false .copy .none,
    .drain k0 9 7 4 6 .system false false .copy .none] : List Instr).all (fun i => !WellFormed i) = true := by decide +kernel

/-- Well-formed terms at the edges of the same limits. -/
theorem test_well_formed_terms : ([
    .chcnt k0 (.reg 5) (.peek 3), .loopi k0 0 1, .loopi k0 3 127, .amocas k0 5 6 8 true .relaxed, .amofadd k0 5 6 7 false .acqRel, .pushc k0 5 24 .copy,
    .gldg k0 1 4 1, .gldg k0 28 4 15, .copyIn k0 9 4 5 6 .ab .system true false .copy .fill, .algld k0 7 9, .pset k0 6 .last 1024,
    .csrw k0 (.reg 4) .tvec] : List Instr).all WellFormed = true := by decide +kernel

/-- Words that R92 makes illegal or that name nothing do not decode. -/
theorem test_reserved_words : ([0x00000001, 0x3C050C06, 0x54050C00, 0x48178000, 0x4405FFFF, 0xF4FF0000, 0xFC000000, 0x9C05003F] : List IWord).all (fun w =>
    match decode w 0 with
    | .ok _ => false
    | .error _ => true) = true := by decide +kernel

/-- DecodeOfEncode: a short, a long and a micro instruction meet its hypotheses. -/
theorem wit_decodeOfEncode : WellFormed (.add k0 (.reg 5) (.reg 6) (.reg 7)) = true ∧ encode (.add k0 (.reg 5) (.reg 6) (.reg 7)) = some [0x04050C1C] ∧
    WellFormed (.liw k0 (.reg 7) 100000) = true ∧ encode (.liw k0 (.reg 7) 100000) = some [0xF4001C00, 0x000186A0] ∧
    encodeMicro (.wsetm 1 false 0) = some 0x09000000 := by decide +kernel

/-! ### The issue point -/

/-- The premises of a statement on an instruction that issues. -/
abbrev Wit (s : State) (k : Tok) (r : Req) : Prop := Issues s k r (readOf s r).1 (readOf s r).2

theorem wit {s : State} {k : Tok} {r : Req} (h : issuable s k r = true) : Wit s k r := issues_of h

theorem atHead0 {s : State} (h : issuable s k0 (reqRR none []) = true) : AtHead s := (issues_of h).toAtHead

/-- IdleAndForbiddenInstructions. -/
theorem wit_idle : (request (.add k0 (.reg 1) (.reg 2) (.reg 3)) State.reset).isSome = true ∧ canIssue State.reset State.reset.focus State.reset.focusSq = false := by
  decide +kernel

theorem wit_forbidden : AtHead (at0 .x id) ∧ (∃ k r, request (.vadd k0 1 2 3 0) (at0 .x id) = some (k, r) ∧ r.allowed.contains (at0 .x id).focusSq = false) ∧
    (∃ k r, request (.gcfg k0 3 9) (at0 .x id) = some (k, r) ∧ r.allowed.contains (at0 .x id).focusSq = true ∧ r.sup = true ∧ (handOf (at0 .x id) (at0 .x id).focus).sup = false) :=
  ⟨atHead0 (by decide +kernel), ⟨_, _, rfl, by decide +kernel⟩, ⟨_, _, rfl, by decide +kernel⟩⟩

/-- VADD on X takes the illegal-instruction trap with code 2: X fetches at TVEC in supervisor state. -/
theorem test_forbidden : gives (exec (.vadd k0 1 2 3 0) (at0 .x (fun h => { h with tvec := 0x30 }))) (fun t =>
    (handOf t 0).sup && (handOf t 0).x.pc == { line := 3, slot := 0 } && fld (handOf t 0).tcause 7 0 == 1 && fld (handOf t 0).tinfo 7 0 == 2 &&
    (handOf t 0).l.frozen && (handOf t 0).c.frozen && (handOf t 0).s.frozen) = true := by decide +kernel

def sBarrier : State := at0 .x (fun h => { h with x := { h.x with awaits := some ({ line := 0, slot := 1 }, true) } })
def sPending : State := at0 .x (fun h => { h with x := { h.x with pend := [{ reg := 2, ticket := 5 }] } })

/-- InstructionsWait. -/
theorem wit_wait_barrier : Standing sBarrier ∧ barrierPending (sqOf sBarrier sBarrier.focus sBarrier.focusSq) ∧
    (∃ k r, request (.add k0 (.reg 1) (.reg 2) (.reg 3)) sBarrier = some (k, r) ∧ checks (handOf sBarrier sBarrier.focus) sBarrier.focus sBarrier.focusSq r = none) :=
  ⟨⟨by decide +kernel, by decide +kernel⟩, by unfold barrierPending; decide +kernel, ⟨_, _, rfl, by decide +kernel⟩⟩

theorem wit_wait_pending : AtHead sPending ∧ ¬barrierPending (sqOf sPending sPending.focus sPending.focusSq) ∧
    (∃ k r, request (.add k0 (.reg 1) (.reg 2) (.reg 3)) sPending = some (k, r) ∧ checks (handOf sPending sPending.focus) sPending.focus sPending.focusSq r = none ∧
      2 ∈ reqRegs r ∧ regPending (sqOf sPending sPending.focus sPending.focusSq) 2 = true) :=
  ⟨atHead0 (by decide +kernel), by unfold barrierPending; decide +kernel, ⟨_, _, rfl, by decide +kernel⟩⟩

theorem wit_wait_token : AtHead (at0 .l id) ∧ tokenWait (handOf (at0 .l id) 0) .l (tok true false false false) = some 1 ∧
    tokenWait (handOf (at0 .l id) 0) .l (tok false false true false) = some 2 := ⟨atHead0 (by decide +kernel), by decide +kernel, by decide +kernel⟩

/-! ### Scalar instructions -/

/-- Operands a and b in s2 and s3 of X. -/
def ab (a b : Word) : State := at0 .x (fun h => withReg .x 2 a (withReg .x 3 b h))

/-- An instruction of destination s1 run on operands a and b gives v, and goes on to slot 2. -/
def valueIs (i : Instr) (a b v : Word) : Bool := gives (exec i (ab a b)) (fun t => reg t .x 1 == v && (sqOf t 0 .x).pc.slot == 2)

/-- ScalarResults, DivisionCorners, ScalarInstructionsFrame. -/
theorem wit_scalar : Wit (at0 .x id) k0 (operands (.reg 1) [.reg 2, .reg 3]) ∧ Wit (at0 .c id) k0 (operands (.reg 1) [.reg 2]) ∧
    Wit (at0 .l id) k0 { operands (.reg 1) [.reg 2] with norec := true } ∧ ruleRR (.add k0 (.reg 1) (.reg 2) (.reg 3)) ≠ none ∧
    ruleRI (.clz k0 (.reg 1) (.reg 2)) ≠ none ∧ plainScalar (.j k0 1 1) = true ∧ request (.j k0 1 1) (at0 .x id) = some (k0, reqRR none []) ∧
    Wit (at0 .x id) k0 (reqRR none []) :=
  ⟨wit (by decide +kernel), wit (by decide +kernel), wit (by decide +kernel), nofun, nofun, rfl, rfl, wit (by decide +kernel)⟩

theorem wit_division : Wit (ab 5 0) k0 (operands (.reg 1) [.reg 2, .reg 3]) ∧ (readOf (ab 5 0) (operands (.reg 1) [.reg 2, .reg 3])).2 = [(5, Tag.empty), (0, Tag.empty)] ∧
    Wit (ab 0x8000000000000000 0xFFFFFFFFFFFFFFFF) k0 (operands (.reg 1) [.reg 2, .reg 3]) ∧
    (readOf (ab 0x8000000000000000 0xFFFFFFFFFFFFFFFF) (operands (.reg 1) [.reg 2, .reg 3])).2 = [(0x8000000000000000, Tag.empty), (0xFFFFFFFFFFFFFFFF, Tag.empty)] :=
  ⟨wit (by decide +kernel), by decide +kernel, wit (by decide +kernel), by decide +kernel⟩

/-- R102: hand calculation. -/
theorem test_rr_values : ([
    (.add k0 (.reg 1) (.reg 2) (.reg 3), 0xFFFFFFFFFFFFFFFF, 2, 1), (.sub k0 (.reg 1) (.reg 2) (.reg 3), 1, 2, 0xFFFFFFFFFFFFFFFF),
    (.and k0 (.reg 1) (.reg 2) (.reg 3), 0xC, 0xA, 8), (.or k0 (.reg 1) (.reg 2) (.reg 3), 0xC, 0xA, 0xE), (.xor k0 (.reg 1) (.reg 2) (.reg 3), 0xC, 0xA, 6),
    (.andn k0 (.reg 1) (.reg 2) (.reg 3), 0xC, 0xA, 4), (.sll k0 (.reg 1) (.reg 2) (.reg 3), 3, 65, 6), (.srl k0 (.reg 1) (.reg 2) (.reg 3), 0x8000000000000000, 63, 1),
    (.sra k0 (.reg 1) (.reg 2) (.reg 3), 0x8000000000000000, 63, 0xFFFFFFFFFFFFFFFF), (.mul k0 (.reg 1) (.reg 2) (.reg 3), 0xFFFFFFFFFFFFFFFF, 3, 0xFFFFFFFFFFFFFFFD),
    (.mulh k0 (.reg 1) (.reg 2) (.reg 3), 0xFFFFFFFFFFFFFFFF, 3, 0xFFFFFFFFFFFFFFFF), (.mulhu k0 (.reg 1) (.reg 2) (.reg 3), 0xFFFFFFFFFFFFFFFF, 3, 2),
    (.div k0 (.reg 1) (.reg 2) (.reg 3), 0xFFFFFFFFFFFFFFF9, 2, 0xFFFFFFFFFFFFFFFD), (.rem k0 (.reg 1) (.reg 2) (.reg 3), 0xFFFFFFFFFFFFFFF9, 2, 0xFFFFFFFFFFFFFFFF),
    (.divu k0 (.reg 1) (.reg 2) (.reg 3), 7, 0, 0xFFFFFFFFFFFFFFFF), (.remu k0 (.reg 1) (.reg 2) (.reg 3), 7, 0, 7),
    (.seq k0 (.reg 1) (.reg 2) (.reg 3), 7, 7, 1), (.sne k0 (.reg 1) (.reg 2) (.reg 3), 7, 7, 0), (.slt k0 (.reg 1) (.reg 2) (.reg 3), 0xFFFFFFFFFFFFFFFF, 0, 1),
    (.sltu k0 (.reg 1) (.reg 2) (.reg 3), 0xFFFFFFFFFFFFFFFF, 0, 0), (.min k0 (.reg 1) (.reg 2) (.reg 3), 0xFFFFFFFFFFFFFFFF, 1, 0xFFFFFFFFFFFFFFFF),
    (.max k0 (.reg 1) (.reg 2) (.reg 3), 0xFFFFFFFFFFFFFFFF, 1, 1), (.minu k0 (.reg 1) (.reg 2) (.reg 3), 0xFFFFFFFFFFFFFFFF, 1, 1),
    (.maxu k0 (.reg 1) (.reg 2) (.reg 3), 0xFFFFFFFFFFFFFFFF, 1, 0xFFFFFFFFFFFFFFFF), (.addsh k0 (.reg 1) (.reg 2) (.reg 3) 2, 7, 7, 35),
    (.tjoin k0 (.reg 1) (.reg 2) (.reg 3), 7, 9, 7)] : List (Instr × Word × Word × Word)).all (fun x => valueIs x.1 x.2.1 x.2.2.1 x.2.2.2) = true := by decide +kernel

/-- R103, R104, R106: hand calculation; R106 gives CLZ and CTZ of 0 as 64. -/
theorem test_ri_values : ([
    (.addi k0 (.reg 1) (.reg 2) 0x1FF, 5, 4), (.andi k0 (.reg 1) (.reg 2) 0x1FF, 0xFFFFFFFFFFFFFFFF, 0x1FF), (.ori k0 (.reg 1) (.reg 2) 0x1FF, 0, 0x1FF),
    (.xori k0 (.reg 1) (.reg 2) 0x1FF, 0x1FF, 0), (.slti k0 (.reg 1) (.reg 2) 0x1FF, 0xFFFFFFFFFFFFFFFE, 1), (.sltiu k0 (.reg 1) (.reg 2) 0x1FF, 5, 1),
    (.slli k0 (.reg 1) (.reg 2) 63, 3, 0x8000000000000000), (.srli k0 (.reg 1) (.reg 2) 4, 0x100, 0x10), (.srai k0 (.reg 1) (.reg 2) 4, 0xFFFFFFFFFFFFFF00, 0xFFFFFFFFFFFFFFF0),
    (.roti k0 (.reg 1) (.reg 2) 4, 0x1F, 0xF000000000000001), (.clz k0 (.reg 1) (.reg 2), 0, 64), (.ctz k0 (.reg 1) (.reg 2), 0, 64), (.clz k0 (.reg 1) (.reg 2), 1, 63),
    (.ctz k0 (.reg 1) (.reg 2), 8, 3), (.popc k0 (.reg 1) (.reg 2), 0xFF, 8), (.brev k0 (.reg 1) (.reg 2), 1, 0x8000000000000000), (.tclr k0 (.reg 1) (.reg 2), 9, 9)] :
    List (Instr × Word × Word)).all (fun x => valueIs x.1 x.2.1 0 x.2.2) = true := by decide +kernel

/-- ShortScalarsComplete, OperandsReadInOrder, ResultReachesItsDestination. -/
theorem wit_short : Wit (at0 .x id) k0 (operands (.reg 1) []) ∧ Wit (at0 .x id) k0 (operands (.reg 1) [.reg 1]) ∧ Wit (at0 .x id) k0 (reqRR none [.reg 1]) ∧
    Wit (at0 .c id) k0 { operands (.reg 5) [] with chan7 := srcBad 0 .c (.peek 3), limit := notPeek (.peek 3) } ∧
    Wit (at0 .c id) k0 { operands (.reg 5) [] with chan7 := writeBad 0 .c (.peek 4), limit := notPeek (.peek 4) } ∧
    Wit (at0 .x id) k0 { operands (.reg 5) [] with limit := !csrHere .x .time } ∧ (operands (.reg 1) []).dst = some (.reg 1) :=
  ⟨wit (by decide +kernel), wit (by decide +kernel), wit (by decide +kernel), wit (by decide +kernel), wit (by decide +kernel), wit (by decide +kernel), rfl⟩

def twoEntries : Hand := { hand0 with chans := [(3, [{ val := some 8, ticket := 1, terms := [] }, { val := some 9, ticket := 2, terms := [] }])] }

theorem wit_operandsReadInOrder : chanList { hand0 with chans := [(3, [{ val := some 8, ticket := 1, terms := [] }])] } 3 = [{ val := some 8, ticket := 1, terms := [] }] ∧
    chanList twoEntries 3 = [{ val := some 8, ticket := 1, terms := [] }, { val := some 9, ticket := 2, terms := [] }] := by decide +kernel

/-- R84: two pops take two entries; LIH keeps the low half (R108); CSRR TIME (R121). -/
theorem test_pops : gives (exec (.sub k0 (.reg 1) (.pop 3) (.pop 3)) { at0 .c (fun h => { h with chans := twoEntries.chans }) with focusSq := .c }) (fun t =>
    (handOf t 0).landings == [{ rem := 0, what := .scalar 1 0xFFFFFFFFFFFFFFFF, tag := Tag.empty, join := false, stat := 0 }] && chanList (handOf t 0) 3 == []) = true := by
  decide +kernel

theorem test_lih : gives (exec (.lih k0 2 1) (ab 0xAAAAAAAABBBBBBBB 0)) (fun t => reg t .x 2 == 0x1BBBBBBBB && (sqOf t 0 .x).pc.slot == 3) = true := by decide +kernel

theorem test_liw : gives (exec (.liw k0 (.reg 2) 0xFFFFFFFE) (ab 0 0)) (fun t => reg t .x 2 == 0xFFFFFFFFFFFFFFFE) = true := by decide +kernel

theorem test_csrr_time : gives (exec (.csrr k0 (.reg 1) .time) { ab 0 0 with time := 77 }) (fun t => reg t .x 1 == 77) = true := by decide +kernel

/-- ControlFlowCompletes. -/
theorem wit_controlFlow : branchRule (.beqz k0 2 1 3) ≠ none ∧ Wit (at0 .x id) k0 (reqRR none [.reg 2]) ∧ Wit (at0 .x id) k0 (operands (.reg 31) []) ∧
    Wit (at0 .l id) k0 (operands (.reg 31) [.reg 7]) ∧ Wit (at0 .c id) k0 (operands (.reg 31) []) ∧ Wit (at0 .c id) k0 (operands (.reg 31) [.reg 7]) ∧
    Wit (at0 .c id) k0 { reqRR none [] with limit := (4 : BitVec 7) == 0 } :=
  ⟨nofun, wit (by decide +kernel), wit (by decide +kernel), wit (by decide +kernel), wit (by decide +kernel), wit (by decide +kernel), wit (by decide +kernel)⟩

/-- R114: bltz two lines back to slot 5; R115: jal one line on; R118: brloop counts down and turns ROT of C. -/
theorem test_bltz : gives (exec (.bltz k0 2 0x3FE 5) (ab 0xFFFFFFFFFFFFFFFF 0)) (fun t => (sqOf t 0 .x).pc == { line := -2, slot := 5 }) = true := by decide +kernel

theorem test_jal : gives (exec (.jal k0 1 1) (ab 0 0)) (fun t => (sqOf t 0 .x).pc == { line := 1, slot := 1 } && reg t .x 31 == 2) = true := by decide +kernel

theorem test_jr : gives (exec (.jr k0 (.reg 2)) (ab 0x35 0)) (fun t => (sqOf t 0 .x).pc == { line := 3, slot := 5 }) = true := by decide +kernel

theorem test_brloop : gives (exec (.brloop k0 1 0 1) (at0 .c (fun h => { h with c := { h.c with lc := [(1, 2)], pc := { line := 0, slot := 7 } } }))) (fun t =>
    (sqOf t 0 .c).pc == { line := 0, slot := 1 } && lcGet (sqOf t 0 .c) 1 == 1 && (handOf t 0).rot == 15) = true := by decide +kernel

theorem test_brloop_falls_through : gives (exec (.brloop k0 1 0 1) (at0 .x (fun h => { h with x := { h.x with lc := [(1, 1)], pc := { line := 0, slot := 7 } } }))) (fun t =>
    (sqOf t 0 .x).pc == { line := 0, slot := 8 } && lcGet (sqOf t 0 .x) 1 == 0 && (handOf t 0).rot == 0) = true := by decide +kernel

/-! ### Memory and buffers -/

def page0 (vbase : Nat) (t : PageType) : Page :=
  { part := 0, vbase := vbase, size := 21, pbase := vbase, kind := .so, ptype := t, sup := false, w := true, rd := true, keyid := 0, layout := 0 }
def pNorm : Page := page0 0x200000 .normal
def pSync : Page := page0 0x400000 .sync
def pGlaze : Page := page0 0x600000 .glaze

/-- Hand 0 with those pages in its TLB and s2 at v. -/
def onPages (q : SeqId) (v : Word) : State := at0 q (fun h => withReg q 2 v { h with tlb := [pNorm, pSync, pGlaze] })

/-- MemoryOperationsEnter: a load, a store of eight bytes up to the page's end, an atomic on a sync page. -/
theorem wit_load : loadRule (.ld k0 (.reg 1) (.reg 2) .d 0) = some (k0, .reg 1, .reg 2, .d, 0, false, none) ∧
    Wit (onPages .x 0x200008) k0 { operands (.reg 1) [.reg 2] with allowed := xls } ∧ Reaches (onPages .x 0x200008) false 0x200008 8 [pNorm] ∧
    address ((valOf (readOf (onPages .x 0x200008) { operands (.reg 1) [.reg 2] with allowed := xls }).2 0).1) 0 .d = 0x200008 :=
  ⟨rfl, wit (by decide +kernel), ⟨by decide +kernel, by decide +kernel, by decide +kernel, by decide +kernel⟩, by decide +kernel⟩

theorem wit_store : storeRule (.st k0 0 (.reg 2) (.reg 3) .d) = some (k0, .reg 2, .reg 3, .d, 0, none) ∧
    Wit (onPages .s 0x3FFFF8) k0 { reqRR none [.reg 2, .reg 3] with allowed := xls } ∧ Reaches (onPages .s 0x3FFFF8) true 0x3FFFF8 8 [pNorm] :=
  ⟨rfl, wit (by decide +kernel), ⟨by decide +kernel, by decide +kernel, by decide +kernel, by decide +kernel⟩⟩

theorem wit_atomic : amoRule (.amocas k0 1 2 4 true .acqRel) = some (k0, 1, 2, 4, true, .acqRel, 9) ∧
    (∃ r, request (.amocas k0 1 2 4 true .acqRel) (onPages .l 0x400010) = some (k0, r) ∧ Wit (onPages .l 0x400010) k0 r) ∧
    xlateAll (onPages .l 0x400010) 0 .l true true [.normal, .sync, .glaze] (splitPages 0x400010 8) = .pages [pSync] ∧ pSync.ptype ≠ .glaze :=
  ⟨rfl, ⟨_, rfl, wit (by decide +kernel)⟩, by decide +kernel, by decide⟩

/-- AtomicResults, ArrivalCompletesThePhase: 8-bit words; the object of R276's example one arrival short, and complete. -/
theorem wit_atomicResults : 0 < 8 ∧ 200 < 2 ^ 8 ∧ amoNew 0 8 200 100 0 = 44 ∧ amoNew 4 8 200 100 0 = 200 ∧ amoNew 6 8 200 100 0 = 100 := by decide +kernel

/-- AtomicResults, the FP32 operations: a NaN, the infinities, a sum that is zero and one that is not, and 1.0 + 2.0 = 3.0. -/
theorem wit_atomicFloats : fval 0x7FC00000 = .nan ∧ fval 0x7F800000 = .inf false ∧ fval 0xFF800000 = .inf true ∧ fval 0x3F800000 = .fin false 8388608 (-23) ∧
    sgnInt false (8388608 * 2 ^ 0) + sgnInt true (8388608 * 2 ^ 0) = 0 ∧ amoNew 10 32 0x3F800000 0x40000000 0 = 0x40400000 ∧
    amoNew 11 32 0x3F800000 0xC0000000 0 = 0x3F800000 ∧ amoNew 11 32 0x7FA00000 0x3F800000 0 = 0x7FC00000 := by decide +kernel

theorem wit_arrival : boArrived 0x0000102400000060 + 95 < boExpect 0x0000102400000060 ∧ boExpect 0x00001020005F0060 ≤ boArrived 0x00001020005F0060 + 1 := by decide +kernel

/-- The states of the object of spec/17_program_barrier.md: arrival 96 of 96, and three units at 95. -/
theorem test_arrival : (arriveAt 0x00011020005F0060 0 1).1 = 0x0000102100000060 ∧ (arriveAt 0x00011020005F0060 0 1).2.1 = 1 ∧
    (arriveAt 0x00001024005F0060 4 3).1 = 0x0000103500000060 ∧ (arriveAt 0x00001024005F0060 4 3).2.1 = 0x0000000200000005 := by decide +kernel

/-- BarrierOperationsEnter, FenceCompletes. -/
theorem wit_barrier : barrierRule (.barv k0 1 2 3) = some (k0, 1, 2, 3, 1) ∧ Wit (onPages .x 0x400020) k0 (reqCP xls [1, 2, 3]) ∧
    xlateAll (onPages .x 0x400020) 0 .x true true [.sync] (splitPages 0x400020 16) = .pages [pSync] := ⟨rfl, wit (by decide +kernel), by decide +kernel⟩

theorem wit_fence : Wit (at0 .c id) k0 (reqRR none []) ∧ Wit (at0 .l id) (tok false true false true) (reqRR none []) := ⟨wit (by decide +kernel), wit (by decide +kernel)⟩

/-- R165: a FENCE of C with the memory bits alone is a NOP; with ENG it enters, and holds its signals. -/
theorem test_fence : gives (exec (.fence k0 .die true true true true false false) (at0 .c id)) (fun t => (sqOf t 0 .c).ob == [] && (sqOf t 0 .c).pc.slot == 2) &&
    gives (exec (.fence (tok false true false false) .die false false false false true false) (at0 .c id)) (fun t =>
      (sqOf t 0 .c).ob.length == 1 && (sqOf t 0 .c).held == [{ fwd := true, fence := some 100 }]) = true := by decide +kernel

/-- BufferAccesses: LDB and STB (each with its own request) inside the window, at its end, beyond it, misaligned, at 2^32, and STB to WB. -/
theorem wit_buffers : Wit (onPages .x 24) k0 { operands (.reg 1) [.reg 2] with allowed := xls } ∧ Wit (onPages .x 24) k0 { reqRR none [.reg 2, .reg 3] with allowed := xls } ∧
    (windowOf (handOf (onPages .x 24) 0) .ab).2 = 6291456 ∧ address 24 0 .d = 24 ∧ address 6291448 0 .d + 8 = 6291456 ∧ address 6291456 0 .d = 6291456 ∧
    address 3 0 .w % 4 ≠ 0 ∧ 2 ^ 32 ≤ address 0x100000000 0 .b ∧ (easelOf (onPages .x 24) 0).rc.length < 128 :=
  ⟨wit (by decide +kernel), wit (by decide +kernel), by decide +kernel, by decide +kernel, by decide +kernel, by decide +kernel, by decide +kernel, by decide +kernel, by decide +kernel⟩

/-- A load's destination waits and its tag is slot 0; a store carries B's low bytes; a misaligned STB traps with cause 4. -/
theorem test_ld : gives (exec (.ld k0 (.reg 1) (.reg 2) .d 1) (onPages .x 0x200008)) (fun t =>
    (sqOf t 0 .x).ob.map (fun e => (e.va, e.width)) == [(0x200010, 8)] && regPending (sqOf t 0 .x) 1 && (tagGet (sqOf t 0 .x) 1).loc == 1) = true := by decide +kernel

theorem test_st : gives (exec (.st k0 0 (.reg 2) (.reg 2) .h) (onPages .x 0x200008)) (fun t =>
    (sqOf t 0 .x).ob.map (fun e => e.data) == [[0x08, 0x00]] && t.mem == Memory.empty) = true := by decide +kernel

theorem test_stb_misaligned : gives (exec (.stb k0 .ab 0 (.reg 2) (.reg 3) .w) (onPages .x 3)) (fun t => fld (handOf t 0).tcause 7 0 == 4 && (handOf t 0).sup) = true := by decide +kernel

theorem test_ld_unmapped_waits : gives (exec (.ld k0 (.reg 1) (.reg 2) .d 0) (onPages .x 0x800000)) (fun t => (sqOf t 0 .x).stall == 14 && (sqOf t 0 .x).walks.length == 1) = true := by
  decide +kernel

theorem test_st_to_glaze : gives (exec (.st k0 0 (.reg 2) (.reg 3) .d) (onPages .x 0x600000)) (fun t => (handOf t 0).sup && fld (handOf t 0).tcause 7 0 != 0) = true := by decide +kernel

/-! ### Engines -/

/-- CommandsEnterTheirQueues: a register command, a record command, FRGO and FRLD on C, and FRGO on X with a record of zeros. -/
theorem wit_commands : cmdRule (.frst k0 1 3) = some (0x11, k0, 1, 3, 0) ∧ runs (onPages .x 0x200000) (.frst k0 1 3) = true ∧
    recordRule (.csend k0 1 2) = some (0x26, k0, 1, 2, 0) ∧ runs (onPages .x 0x200040) (.csend k0 1 2) = true ∧
    xlateAll (onPages .x 0x200040) 0 .x true false [.normal] [{ va := 0x200040, len := 64 }] = .pages [pNorm] ∧
    Wit (onPages .c 0x200000) k0 (reqCP everywhere [1, 2, 3]) ∧ xlateAll (onPages .c 0x200000) 0 .c true false [.normal] (splitPages 0x200000 64) = .pages [pNorm] ∧
    xlateAll (onPages .c 0x200000) 0 .c true false [.normal] (splitPages 0x200000 128) = .pages [pNorm] ∧ Wit (onPages .x 0x200000) k0 (reqCP everywhere [1, 2, 3]) :=
  ⟨rfl, by decide +kernel, rfl, by decide +kernel, by decide +kernel, wit (by decide +kernel), by decide +kernel, by decide +kernel, wit (by decide +kernel)⟩

def recordOf (n : Nat) : Piece := { va := 0x200000, pa := 0x200000, psize := 12, len := n, off := 0, kind := .so, ptype := .normal, done := false, fwd := none, data := [] }

theorem wit_commands_read : (splitPages 0x200000 64).length = 1 ∧ mayReadAll (onPages .x 0x200000) 0 .x [recordOf 64] = true ∧
    (let bs := (pointRead (opened (onPages .x 0x200000) k0 (reqCP everywhere [1, 2, 3]) (handOf (onPages .x 0x200000) 0)) 0 .so .normal 0x200000 64).1
     let ts := jobTouches (BitVec.ofNat 512 (natOfBytes bs))
     xlateAll (onPages .x 0x200000) 0 .x true false [.normal] ts.1 = .pages [] ∧ xlateAll (onPages .x 0x200000) 0 .x true true [.normal] ts.2 = .pages [] ∧ ts.1.length + ts.2.length ≤ 256) ∧
    (splitPages 0x200000 128).length = 1 ∧ mayReadAll (onPages .x 0x200000) 0 .x [recordOf 128] = true := by decide +kernel

theorem test_frst : gives (exec (.frst k0 1 3) (onPages .x 0)) (fun t =>
    (easelOf t 0).frescoQ.map (fun c => (c.fn, c.ticket)) == [(some 0x11, 100)] && regPending (sqOf t 0 .x) 1) = true := by decide +kernel

/-- A tensor shape record: FP32, one dimension of 4 elements, BASEVA 0x200100 (R136). -/
def tsr : BitVec 1024 := BitVec.ofNat 1024 (0x200100 + 0x008000 * 2 ^ 64 + 2 ^ 90 + (4 + 4 * 2 ^ 32) * 2 ^ 128)
def withTsr (q : SeqId) : State := { onPages q 0x200000 with mem := memWrite Memory.empty 0x200000 (bytesOfNat 128 tsr.toNat) }
def copyArgs (kd : CopyKind) (u : Buf) : CopyArgs :=
  { kind := kd, t := 9, ts := 2, b := 5, o := 6, x := none, u := u, sc := .hand, acq := false, rel := false, op := .copy, cl := .none }
def copyReq (i : Instr) (s : State) : Req := ((request i s).map (·.2)).getD (reqRR none [])

/-- CopiesEnterTheQueue: a copy-in on L, a drain on S; PUSHC with room and with a full queue; CPQRY. -/
theorem wit_copyIn : copyRule (.copyIn k0 9 2 5 6 .ab .hand false false .copy .none) = some (k0, copyArgs .inn .ab) ∧
    Wit (withTsr .l) noTok (copyReq (.copyIn k0 9 2 5 6 .ab .hand false false .copy .none) (withTsr .l)) ∧ CopyAccepted (withTsr .l) k0 (copyArgs .inn .ab) pNorm tsr [pNorm] ∧
    BitVec.ofNat 1024 (natOfBytes (pointRead (withTsr .l) 0 .so .normal 0x200000 128).1) = tsr :=
  ⟨rfl, wit (by decide +kernel), by constructor <;> decide +kernel, by decide +kernel⟩

theorem wit_drain : copyRule (.drain k0 9 5 2 6 .hand false false .copy .none) = some (k0, copyArgs .drain .cb) ∧
    Wit (withTsr .s) noTok (copyReq (.drain k0 9 5 2 6 .hand false false .copy .none) (withTsr .s)) ∧ CopyAccepted (withTsr .s) k0 (copyArgs .drain .cb) pNorm tsr [pNorm] :=
  ⟨rfl, wit (by decide +kernel), by constructor <;> decide +kernel⟩

theorem test_copyIn : gives (exec (.copyIn k0 9 2 5 6 .ab .hand false false .copy .none) (withTsr .l)) (fun t =>
    (easelOf t 0).copyQ.map (fun c => (c.src, c.total, c.pages)) == [(0x200100, 32, [pNorm])] && regPending (sqOf t 0 .l) 9 && (sqOf t 0 .l).pc.slot == 3 &&
    (easelOf t 0).rc.map (fun r => r.ranges) == [[{ buf := .ab, lo := 0, hi := 32, wr := true }]]) = true := by decide +kernel

def queueFull : State := { at0 .x id with easels := [(0, { Easel.reset with frescoQ := List.replicate 16 (cmdOf (at0 .x id) 0 0 0 0 []) })] }

theorem wit_pushc : runs (at0 .x id) (.pushc k0 5 8 .copy) = true ∧ queueRoom (easelOf (at0 .x id) 0) .copy = true ∧ runs queueFull (.pushc k0 5 8 .fresco) = true ∧
    queueRoom (easelOf queueFull 0) .fresco = false ∧ Wit (at0 .x (withReg .x 2 1)) k0 (reqCP everywhere [1, 2]) :=
  ⟨by decide +kernel, by decide +kernel, by decide +kernel, by decide +kernel, wit (by decide +kernel)⟩

theorem test_pushc_full : gives (exec (.pushc k0 5 8 .fresco) queueFull) (fun t => reg t .x 5 == 1 && (easelOf t 0).frescoQ.length == 16) = true := by decide +kernel

theorem test_cpqry : gives (exec (.cpqry k0 5 2) (at0 .x (withReg .x 2 1))) (fun t => regPending (sqOf t 0 .x) 5 && (sqOf t 0 .x).late.map (·.val) == [64]) &&
    gives (exec (.cpqry k0 5 2) (at0 .x (withReg .x 2 9))) (fun t =>
      let u := lateArrive t 0 .x (fun x => x.due.isNone)
      reg u .x 5 == 0xFFFFFFFFFFFFFFFF && !regPending (sqOf u 0 .x) 5 && (sqOf u 0 .x).late == []) = true := by decide +kernel

def aReply : Late := { ticket := 99, dst := .reg 5, due := none, val := 7, tag := Tag.empty }
def onReply : State := at0 .x (fun h => { h with x := { h.x with late := [aReply] } })

theorem wit_reply : (sqOf onReply 0 .x).late = [aReply] ∧ aReply.dst = .reg (5 : BitVec 5).toNat ∧ aReply.due = none ∧ (5 : BitVec 5) ≠ 0 := by decide +kernel

/-! ### The mural array -/

/-- BF16 operands and an FP32 result in palette entry 0, and the tile registers s5, s6, s7 of three 32 by 32 tiles (R186, R226). -/
def muralHand (h : Hand) : Hand :=
  withReg .c 7 0x40000000000 (withReg .c 6 0x10000000000 (withReg .c 5 0x10000000000 { h with palette := [(0, BitVec.ofNat 128 (2 ^ 127 + 0x008000 * 2 ^ 48 + 0x008002 * 2 ^ 24 + 0x008002))] }))
def onMural (f : Mural → Mural) : State := { at0 .c muralHand with easels := [(0, { Easel.reset with mural := f Mural.reset })] }
def heldMural : State := onMural (fun m => { m with lease := .held, holder := 0 })
def mmaArgs : MmaArgs := { c := 7, a := 5, b := 6, acc := false, pal := 0, alg := 0, m := 0, n := 0, k := 0, ta := false, tb := false, ca := false, cb := false, sw := false, chain := false }
def group1 : GroupReq := { id := 7, hand := 0, rows := 1, cols := 1, since := 0 }
def groupMural : State := { onMural (fun m => { m with lease := .group, group := 7 }) with groups := [(0, [group1])] }

/-- LeaseInstructionsComplete, with the lease held and not held; MuralCommandsComplete. -/
theorem wit_lease : Wit heldMural k0 { operands (.reg 1) [.reg 2] with allowed := [.c] } ∧ Wit heldMural k0 { operands (.reg 1) [] with allowed := [.c] } ∧
    Wit heldMural k0 (reqV [] false false 0) ∧ (muralOf heldMural 0).lease = .held ∧ (muralOf heldMural 0).holder = 0 ∧ muralBusy heldMural 0 = false ∧
    Wit (onMural id) k0 { operands (.reg 1) [.reg 2] with allowed := [.c] } ∧ (muralOf (onMural id) 0).lease ≠ .held ∧
    muralBusy (onMural (fun m => { m with queue := [mkMural (handOf heldMural 0) 0 5 mmaArgs none] })) 0 = true ∧
    bit ((valOf (readOf { onMural id with hands := [(0, withReg .c 2 0x200 hand0)] } { operands (.reg 1) [.reg 2] with allowed := [.c] }).2 0).1) 9 = true :=
  ⟨wit (by decide +kernel), wit (by decide +kernel), wit (by decide +kernel), by decide +kernel, by decide +kernel, by decide +kernel, wit (by decide +kernel), by decide +kernel,
    by decide +kernel, by decide +kernel⟩

theorem wit_mma : Wit heldMural k0 (reqV [7, 5, 6] (mmaLimit (handOf heldMural 0) 0 0 0 0 false false) false 0) ∧ (mmaTrap heldMural 0 mmaArgs).isNone = true ∧
    (queuedOf (muralOf heldMural 0) 0).length < 2 ∧ (easelOf heldMural 0).rc.length < 128 :=
  ⟨wit (by decide +kernel), by decide +kernel, by decide +kernel, by decide +kernel⟩

theorem wit_mmag : Wit groupMural k0 (reqV [7, 5, 6] (meshFar 0 0 0 || mmaLimit (handOf groupMural 0) 0 0 0 0 false false) false 0) ∧ (mmaTrap (dropGroup groupMural 0) 0 mmaArgs).isNone = true ∧
    groupFault groupMural group1 = none ∧ groupReady groupMural { group1 with id := 0 } = true ∧ (acceptedOf groupMural 0).length < 2 ∧
    (∀ y ∈ groupMembers group1, (easelOf groupMural (easelNo (4 * y))).rc.length < 128) :=
  ⟨wit (by decide +kernel), by decide +kernel, by decide +kernel, by decide +kernel, by decide +kernel, by decide +kernel⟩

theorem test_mma : gives (exec (.mma k0 7 5 6 false 0 0 0 0 0 false false false false false false) heldMural) (fun t =>
    (muralOf t 0).queue.map (fun c => (c.m, c.n, c.k, c.acc)) == [(32, 32, 32, false)] && (sqOf t 0 .c).pc.slot == 3) = true := by decide +kernel

/-- An MMA whose stride is no odd multiple of 256 takes the bank-conflict trap, cause 3. -/
theorem test_mma_bank : gives (exec (.mma k0 7 5 6 false 0 0 0 0 0 false false false false false false)
    { heldMural with hands := [(0, withReg .c 5 0x20000000000 (muralHand hand0))] }) (fun t => fld (handOf t 0).tcause 7 0 == 3) = true := by decide +kernel

/-- TableLoadsComplete: record of an algebra of one component, e0·e0 = e0, at byte 0 of WB. -/
def withAlgebra : State := { at0 .c id with easels := [(0, { Easel.reset with wb := memWrite Memory.empty 0 (bytesOfNat 80 (0x40 + 2 ^ 512)) })] }

theorem wit_tableLoads : Wit withAlgebra k0 (reqV [2] ((1 : BitVec 3) == 0) false 0) ∧
    inlineWait withAlgebra 0 .c 100 [rangeOf (handOf withAlgebra 0) .wb 0 80 false] = none ∧
    algBad (BitVec.ofNat 640 (natOfBytes (bufRead (easelOf withAlgebra 0) .wb 0 80))) = false ∧
    Wit withAlgebra k0 { reqRR none [.reg 2] with limit := SeqId.c != .c } ∧ inlineWait withAlgebra 0 .c 100 [rangeOf (handOf withAlgebra 0) .wb 0 256 false] = none :=
  ⟨wit (by decide +kernel), by decide +kernel, by decide +kernel, wit (by decide +kernel), by decide +kernel⟩

/-! ### System -/

/-- CsrwCompletes: a writable CSR of X in supervisor state, and LC2 in user state. -/
def super (h : Hand) : Hand := { h with sup := true, tcause := 0x0405, epcPc := 0x25, epcXres := 0x37 }

theorem wit_csrw : (∃ r, request (.csrw k0 (.reg 2) .tvec) (at0 .x super) = some (k0, r) ∧ Wit (at0 .x super) k0 r) ∧
    (∃ r, request (.csrw k0 (.reg 2) (.lc 2)) (at0 .l id) = some (k0, r) ∧ Wit (at0 .l id) k0 r) ∧
    (∃ r, request (.csrw k0 (.reg 2) .shape) (at0 .c id) = some (k0, r) ∧ Wit (at0 .c id) k0 r) ∧ csrMask .tvec = some 0xFFFFFFF :=
  ⟨⟨_, rfl, wit (by decide +kernel)⟩, ⟨_, rfl, wit (by decide +kernel)⟩, ⟨_, rfl, wit (by decide +kernel)⟩, rfl⟩

theorem test_csrw_lc : gives (exec (.csrw k0 (.reg 2) (.lc 2)) (ab 7 0)) (fun t => lcGet (sqOf t 0 .x) 2 == 7) = true := by decide +kernel

/-- TakingATrap: no stop, and a double trap. -/
theorem wit_trap : (14 : Nat) < 2 ^ 8 ∧ (handOf (at0 .l id) 0).sup = false ∧
    stopMatch (traceTrap (modHand (at0 .l id) 0 (fun h => enterTrap h .l 14 7 { line := 0, slot := 2 } 0)) 0 .l) 0 2 (some .l) = none ∧ (handOf (at0 .x super) 0).sup = true := by
  decide +kernel

/-- TrapAndBrkComplete, EretCompletes, HaltAndYieldComplete. -/
theorem wit_system : Wit (at0 .l id) k0 (reqRR none [.reg 2]) ∧ (partOf (at0 .l id) (handPart (at0 .l id) 0)).stops = [] ∧ (handOf (at0 .l id) 0).sup = false ∧
    (∃ r, request .eret (at0 .x super) = some (noTok, r) ∧ Wit (at0 .x super) noTok r) ∧ Wit (at0 .x super) k0 (reqRR none []) ∧
    Wit (at0 .c id) k0 { reqRR none [] with limit := (handOf (at0 .c id) 0).sup } :=
  ⟨wit (by decide +kernel), by decide +kernel, by decide +kernel, ⟨_, rfl, wit (by decide +kernel)⟩, wit (by decide +kernel), wit (by decide +kernel)⟩

theorem test_trap : gives (exec (.trap k0 (.reg 2)) (at0 .l (withReg .l 2 77))) (fun t =>
    (handOf t 0).tinfo == 77 && fld (handOf t 0).tcause 9 0 == 0x10E && (handOf t 0).epcPc == 2 && (handOf t 0).epcXres == 1 && (handOf t 0).sup) = true := by decide +kernel

/-- EretCompletes: another sequencer frozen since nanosecond 3 of a stall; one that trapped while X was halted (TCAUSE 0x1505). -/
theorem wit_eret : (∃ r, request .eret (at0 .x (fun h => super { h with l := { h.l with frozen := true, since := some 3 } })) = some (noTok, r) ∧
      Wit (at0 .x (fun h => super { h with l := { h.l with frozen := true, since := some 3 } })) noTok r) ∧
    (sqOf (at0 .x (fun h => super { h with l := { h.l with frozen := true, since := some 3 } })) 0 .l).frozen = true ∧ seqNo .l ≠ fld (super hand0).tcause 9 8 ∧
    (∃ r, request .eret (at0 .x (fun h => { super h with tcause := 0x1505 })) = some (noTok, r) ∧ Wit (at0 .x (fun h => { super h with tcause := 0x1505 })) noTok r) ∧
    fld (0x1505 : Word) 9 8 = 1 ∧ bit (0x1505 : Word) 12 = true :=
  ⟨⟨_, rfl, wit (by decide +kernel)⟩, by decide +kernel, by decide +kernel, ⟨_, rfl, wit (by decide +kernel)⟩, by decide +kernel, by decide +kernel⟩

/-- TCAUSE 0x405 names X and PSUP: ERET resumes X at EPC.PC and stays in supervisor state. -/
theorem test_eret : gives (exec .eret (at0 .x super)) (fun t => (handOf t 0).sup && (handOf t 0).x.pc == { line := 2, slot := 5 } && !(handOf t 0).l.frozen) = true := by decide +kernel

theorem test_double_trap : gives (exec (.trap k0 (.reg 2)) (at0 .x super)) (fun t =>
    (handOf t 0).ending == some 5 && allSeqs.all (fun q => (sqOf t 0 q).status != .run) && fld (handOf t 0).tcause 7 0 == 14) = true := by decide +kernel

theorem test_halt_in_supervisor_state : gives (exec (.halt k0) (at0 .x super)) (fun t =>
    (handOf t 0).ending == some 4 && allSeqs.all (fun q => (sqOf t 0 q).status == .halted)) = true := by decide +kernel

theorem test_brk : gives (exec (.brk k0 300) (at0 .c id)) (fun t => fld (handOf t 0).tcause 7 0 == 15 && (handOf t 0).tinfo == 300) = true := by decide +kernel

theorem test_yield : gives (exec (.yield k0) (at0 .s id)) (fun t => t.preempts.map (fun e => (e.1, e.2.by_, e.2.saved)) == [(0, 2, false)] && !canIssue t 0 .x) = true := by decide +kernel

/-! ### Glaze -/

/-- Region 0 of partition 0: one page at 0x600000, valid, counted by tick, transferable (R241). -/
def region0 : Region := { Region.reset with desc := BitVec.ofNat 512 (0x600000 + 2 ^ 67 + 2 ^ 71 + 2 ^ 72 + 2 ^ 128), pages := [pGlaze] }
def onRegion (q : SeqId) (v : Word) : State := { onPages q v with parts := [(0, { Part.reset with regions := [(0, region0)] })] }

theorem wit_glaze : Wit (onRegion .x 0) k0 (reqCP xls [1, 2, 3]) ∧ cfgStallsRegion (onRegion .x 0) 0 0 = false ∧ rgValid region0.desc = true ∧ rgPerTick region0.desc = true ∧
    rgXfer region0.desc = true ∧ Wit (onRegion .x 0) k0 (reqCP xls [1, 2]) ∧ Wit (onRegion .s 0x600010) k0 (reqCP xls [2, 3]) ∧
    xlateAll (onRegion .s 0x600010) 0 .s false true [.glaze] [{ va := 0x600010, len := 1 }] = .pages [pGlaze] ∧ cfgStalls (onRegion .s 0x600010) 0 0x600010 = false ∧
    wordFault (onRegion .s 0x600010) 0 0x600010 0x600010 = none ∧ runs (onRegion .l 0x600010) (.gldg k0 8 2 5) = true ∧
    xlateAll (onRegion .l 0x600010) 0 .l true false [.glaze] [{ va := 0x600010, len := 1 }] = .pages [pGlaze] ∧
    xlateAll (onRegion .x 0) 0 .x false true [.normal] (splitRange 0x200000 4160) = .pages [pNorm, pNorm] ∧
    xlateAll (onRegion .x 0) 0 .x true false [.normal] (splitRange 0x200000 4160) = .pages [pNorm, pNorm] :=
  ⟨wit (by decide +kernel), by decide +kernel, by decide +kernel, by decide +kernel, by decide +kernel, wit (by decide +kernel), wit (by decide +kernel), by decide +kernel,
    by decide +kernel, by decide +kernel, by decide +kernel, by decide +kernel, by decide +kernel, by decide +kernel⟩

/-- GtickTrapsAndGcfg: an invalid region, one that does not count ticks, and GCFG of a descriptor of zeros. -/
def onGcfg : State := { onRegion .x 0x200000 with hands := [(0, withReg .x 2 0x200000 { hand0 with tlb := [pNorm], sup := true })] }

theorem wit_gtickTraps : Wit (onRegion .x 1) k0 (reqCP xls [1, 2, 3]) ∧ rgValid (regionOf (partOf (onRegion .x 1) 0) 1).desc = false ∧
    cfgStallsRegion (onRegion .x 1) 0 1 = false ∧ rgPerTick (BitVec.ofNat 512 (0x600000 + 2 ^ 72 + 2 ^ 128)) = false ∧ rgValid (BitVec.ofNat 512 (0x600000 + 2 ^ 72 + 2 ^ 128)) = true :=
  ⟨wit (by decide +kernel), by decide +kernel, by decide +kernel, by decide +kernel, by decide +kernel⟩

theorem wit_gcfg : Wit onGcfg k0 { reqCP [.x] [2] with sup := true } ∧ xlateAll onGcfg 0 .x true false scalarTypes [{ va := 0x200000, len := 64 }] = .pages [pNorm] ∧
    mayRead onGcfg 0 .x (recordOf 64) = true ∧ BitVec.ofNat 512 (natOfBytes (pointRead onGcfg 0 .so .normal 0x200000 64).1) = 0 ∧ cfgFault onGcfg 0 0 0 = none ∧
    glazeOutstanding onGcfg 0 0 region0.desc 0 = false :=
  ⟨wit (by decide +kernel), by decide +kernel, by decide +kernel, by decide +kernel, by decide +kernel, by decide +kernel⟩

theorem test_gtick_reason : gives (exec (.gtick k0 1 2 3) (onRegion .x 1)) (fun t => fld (handOf t 0).tcause 7 0 == 10 && fld (handOf t 0).tinfo 3 0 == 3) = true := by decide +kernel

theorem test_gcfg : gives (exec (.gcfg k0 0 2) onGcfg) (fun t => rgValid (regionOf (partOf t 0) 0).desc == false && (sqOf t 0 .x).pc.slot == 3) = true := by decide +kernel

/-! ### Vector instructions -/

def vec (f : Hand → Hand) : State := at0 .c (fun h => f { h with vregs := [(1, List.replicate 1024 0x3F800000)], pregs := [(1, 7)] })

/-- The element-wise, vector-with-scalar, comparison, permutation, reduction, scan and hypercomplex statements have the premises
of one issue point: C, with free lanes, or without them, a register of C, or neither. -/
theorem wit_vector : Wit (vec id) k0 (reqV [] false true 1) ∧ Wit (vec id) k0 (reqV [6] false true 1) ∧ Wit (vec id) k0 (reqV [] false false 1) ∧
    (elementRule (.vadd k0 2 1 1 1)).isSome = true ∧ (broadcastRule (.vadds k0 2 1 6 0)).isSome = true ∧ (compareRule (.vclt k0 1 2 3 0)).isSome = true ∧
    (predRule (.pand k0 2 1 1)).isSome = true ∧ (permuteRule (.vextr k0 3 1 2 0)).isSome = true ∧ (reduceRule (.vrsum k0 2 1 0)).isSome = true ∧
    (scanRule (.vscan k0 4 1 2 1)).isSome = true ∧ (hyperRule (.vhmul k0 4 1 2 0)).isSome = true ∧ (29 : BitVec 5).toNat + (2 : BitVec 3).toNat ≤ 31 :=
  ⟨wit (by decide +kernel), wit (by decide +kernel), wit (by decide +kernel), rfl, rfl, rfl, rfl, rfl, rfl, rfl, rfl, by decide⟩

/-- The record of the complex numbers (R229): e1·e1 = −e0, CONJ negates e1. -/
def complex : BitVec 640 :=
  BitVec.ofNat 640 (2 * 2 ^ 512 + 2 ^ 521 + 0x40 + 0x41 * 2 ^ 8 + 0x41 * 2 ^ 64 + 0x80 * 2 ^ 72)

/-- HypercomplexResults: an algebra whose record is in order, and an empty slot. -/
theorem wit_hyper : Wit (vec (fun h => { h with algs := [(2, complex)], algsel := 2 })) k0 (reqV [] false true 1) ∧
    algSlot (handOf (vec (fun h => { h with algs := [(2, complex)], algsel := 2 })) 0) 2 ≠ 0 ∧ algBad complex = false ∧
    algSlot (handOf (vec (fun h => { h with algsel := 5 })) 0) 5 = 0 := ⟨wit (by decide +kernel), by decide +kernel, by decide +kernel, by decide +kernel⟩

theorem test_empty_algebra_slot : gives (exec (.vhmul k0 4 1 2 0) (vec (fun h => { h with algsel := 5 }))) (fun t =>
    fld (handOf t 0).tcause 7 0 == 9 && fld (handOf t 0).tinfo 2 0 == 5 && (handOf t 0).landings == []) = true := by decide +kernel

/-- ConversionResults: CFMT FP32 without blocks, and a narrow format with blocks of 32. -/
theorem wit_convert : Wit (vec id) k0 (reqV [] false true 1) ∧ (convFmt (handOf (vec id) 0)).isSome = true ∧ (handOf (vec id) 0).bsz = 0 ∧
    Wit (vec (fun h => { h with cfmt := 0x071431, bsz := 1 })) k0 (reqV [] false true 1) ∧
    (convFmt { hand0 with cfmt := 0x071431, bsz := 1 }).isSome = true ∧ narrowCode (0x071431) = true :=
  ⟨wit (by decide +kernel), by decide +kernel, by decide +kernel, wit (by decide +kernel), by decide +kernel, by decide +kernel⟩

/-- VectorBufferAccesses: a tile at the start of AB's window, dense and strided. -/
theorem wit_tile : TileInWindow hand0 .ab 0 false := ⟨by decide +kernel, by decide +kernel, by decide +kernel⟩
theorem wit_tile_strided : TileInWindow hand0 .ab (BitVec.ofNat 64 (128 * 2 ^ 32 + 4)) true := ⟨by decide +kernel, by decide +kernel, by decide +kernel⟩
theorem wit_vector_access : Wit (vec id) k0 (reqV [6] false false 1) ∧ Wit (vec id) k0 (reqV [6] false false 0) ∧
    (vloadRule (.vld k0 2 .ab 6 0)).isSome = true ∧ (vstoreRule (.vst k0 2 .ab 6 0)).isSome = true ∧
    inlineWait (vec id) 0 .c 100 [rangeOf (handOf (vec id) 0) .ab 0 4096 false] = none ∧ (easelOf (vec id) 0).rc.length < 128 :=
  ⟨wit (by decide +kernel), wit (by decide +kernel), rfl, rfl, by decide +kernel, by decide +kernel⟩

/-- VectorControlsComplete. -/
theorem wit_vectorControls : Wit (vec id) k0 (reqCPw [.c] 4 [5]) ∧ Wit (vec id) k0 (reqCPw [.c] 4 [5, 6]) := ⟨wit (by decide +kernel), wit (by decide +kernel)⟩

theorem test_psel : gives (exec (.psel k0 4 5 6) (vec (withReg .c 5 1))) (fun t =>
    (handOf t 0).landings.map (fun l => (l.rem, l.what)) == [(1, LandWhat.scalar 4 7)]) = true := by decide +kernel

theorem test_vshape : gives (exec (.vshape k0 4 5) (vec (withReg .c 5 0x10000080C))) (fun t =>
    (handOf t 0).logc == 10 && (handOf t 0).cfmt == 0x000008 && (handOf t 0).bsz == 1) = true := by decide +kernel

theorem test_pset_last : gives (exec (.pset k0 6 .last 1023) (vec id)) (fun t =>
    (handOf t 0).landings.map (fun l => l.what) == [LandWhat.pred 6 (BitVec.ofNat 1024 (2 ^ 1023)) (BitVec.allOnes 1024)]) = true := by decide +kernel

/-- R186, R187, R205: rounded to nearest even, a NaN in is the canonical NaN out, and FMAX takes +0 over −0. -/
theorem test_element_functions : fadd .rne 0x3F800000 0x33800000 = (0x3F800000, 0) ∧ (fadd .rup 0x3F800000 0x33800000).1 = 0x3F800001 ∧
    (fmul .rne 0x7FC00001 0x3F800000).1 = 0x7FC00000 ∧ (fmax 0x80000000 0).1 = 0 ∧ (ffma .rne 0x40000000 0x40400000 0xC0C00000).1 = 0 := by decide +kernel

/-! ### Fresco contexts -/

def job (f : Context → Context) : Context :=
  f { Context.reset with state := .running, begun := true, wpages := [{ pNorm with vbase := 0, pbase := 0 }], opages := [{ pNorm with vbase := 0, pbase := 0 }] }
/-- Context 0 of channel 0 runs a job. -/
def onJob (f : Context → Context) : State := { State.reset with channels := [(0, { Channel.reset with owner := some 0, ctx := [(0, job f)] })] }

theorem microRuns {s : State} {n : Nat} (h : ((ctxOf s s.microCx).state == .running && (ctxOf s s.microCx).begun && !(ctxOf s s.microCx).drained &&
    (chanOf s (s.microCx / 4)).power == .active && decide ((ctxOf s s.microCx).since + n ≤ 240)) = true) : MicroRuns s n := by
  simp only [Bool.and_eq_true, beq_iff_eq, Bool.not_eq_true', decide_eq_true_eq] at h
  exact ⟨.inl h.1.1.1.1, h.1.1.1.2, h.1.1.2, h.1.2, h.2⟩

/-- MicroInstructionsOnRegisters: every duration; an open loop; a count above 1 and one of 1. -/
theorem wit_micro : MicroRuns (onJob id) 1 ∧ MicroRuns (onJob id) 4 ∧ MicroRuns (onJob id) 16 ∧ (ctxOf (onJob id) 0).w4 = false ∧ MicroRuns (onJob id) 8 ∧
    MicroRuns (onJob (fun c => { c with loops := [(3, 2)] })) 1 ∧ (ctxOf (onJob (fun c => { c with loops := [(3, 2)] })) 0).abort = false ∧
    (ctxOf (onJob (fun c => { c with loops := [(3, 2)] })) 0).spiller = 0 ∧ MicroRuns (onJob (fun c => { c with loops := [(3, 1)] })) 1 :=
  ⟨microRuns (by decide +kernel), microRuns (by decide +kernel), microRuns (by decide +kernel), by decide +kernel, microRuns (by decide +kernel), microRuns (by decide +kernel),
    by decide +kernel, by decide +kernel, microRuns (by decide +kernel)⟩

/-- MicroRowOperationsComplete: a row of the job's pages, one that is not; a save row that was written, and none. -/
theorem wit_rows : MicroRuns (onJob id) 48 ∧ memWf (onJob id).mem = true ∧ Machine.onPages (job id).wpages (rowPa 0 0 0) = true ∧
    Machine.onPages (job id).wpages (rowPa 0 3 0x1FFFF) = false ∧ (ctxOf (onJob id) 0).phase = 0 ∧ saveValid (onJob id) 0 = false :=
  ⟨microRuns (by decide +kernel), by decide +kernel, by decide +kernel, by decide +kernel, by decide +kernel, by decide +kernel⟩

theorem test_wnext : gives (exec .wnext (onJob (fun c => { c with loops := [(3, 2)] }))) (fun t => (ctxOf t 0).mpc == 3 && (ctxOf t 0).loops == [(3, 1)]) &&
    gives (exec .wnext (onJob (fun c => { c with loops := [(3, 1)], mpc := 9 }))) (fun t => (ctxOf t 0).mpc == 10 && (ctxOf t 0).loops == []) = true := by decide +kernel

theorem test_wsetm : gives (exec (.wsetm 1 false 0x8000) (onJob id)) (fun t => tget 0 (ctxOf t 0).m 1 == 0xFFFF8000) &&
    gives (exec (.wsetm 1 true 0x1234) (onJob (fun c => { c with m := [(1, 0xFFFF8000)] }))) (fun t => tget 0 (ctxOf t 0).m 1 == 0x12348000) = true := by decide +kernel

/-- A row outside the job's pages ends the job with STATUS 9. -/
theorem test_wread_off_pages : gives (exec (.wread false 1) (onJob (fun c => { c with wpages := [], opages := [] }))) (fun t =>
    (ctxOf t 0).state == .idle && (ctxOf t 0).hold == false) = true := by decide +kernel

theorem test_wread_moves_back : gives (exec (.wread false 0xFF) (onJob id)) (fun t => (ctxOf t 0).curRow == 0x1FFFF && (ctxOf t 0).mpc == 1) = true := by decide +kernel

/-! ### One step -/

/-- ADD s1 = s2 + s3 at slot 1 of X's line, in the state of the schedule, in focus, and as the one action of the schedule. -/
def onAdd : State := at0 .x (fun h => withReg .x 2 5 (withReg .x 3 6 { h with x := { h.x with line := some (0x1F000000 :: 0x0401040C :: List.replicate 14 0) } }))

theorem wit_step : latchDue onAdd = false ∧ onAdd.agenda = [] ∧ canIssue onAdd 0 .x = true ∧ (sqOf onAdd 0 .x).ranOff = false ∧ (sqOf onAdd 0 .x).walks = [] ∧
    isLong (headWord (sqOf onAdd 0 .x)) = false ∧ readsLong (headWord (sqOf onAdd 0 .x)) (nextWord (sqOf onAdd 0 .x)) (.add k0 (.reg 1) (.reg 2) (.reg 3)) = true := by decide +kernel

def onMicroWord : State := { onJob id with agenda := [.micro 0 false], channels := [(0, { chanOf (onJob id) 0 with ibuf := [(0, 0x09000000)] })] }

theorem wit_step_micro : latchDue onMicroWord = false ∧ (ctxOf onMicroWord 0).state = .running ∧ (ctxOf onMicroWord 0).begun = true ∧ (ctxOf onMicroWord 0).drained = false ∧
    readsMicro (tget 0 (chanOf onMicroWord 0).ibuf (ctxOf onMicroWord 0).mpc) (.wsetm 1 false 0) = true := by decide +kernel

theorem wit_step_event : isEvent (.landing 0) = true ∧ isEvent .latch = true ∧ isEvent (.add k0 (.reg 1) (.reg 2) (.reg 3)) = false ∧ isEvent .wend = false := by decide +kernel

theorem test_step : gives (step onAdd) (fun t => (sqOf t 0 .x).pc.slot == 2 && t.time == 1) &&
    gives (step { onAdd with agenda := [.issue 0 .x] }) (fun t => (sqOf t 0 .x).pc.slot == 2 && t.agenda == []) = true := by decide +kernel

/-- ResetState's fields where the spec states them; EveryStepKeepsMemoryCanonical from reset. -/
theorem wit_reset : memWf State.reset.mem = true ∧ (gives (step State.reset) (fun t => memWf t.mem)) = true := by decide +kernel

/-- R354: cycles of a conflict, which the schedule gives, count in the easel's matrix and saturate. -/
theorem test_conflict_counts : gives (step { State.reset with agenda := [.tally 5 0 83 7] }) (fun t => tget 0 (easelOf t 0).conflict 83 == 7) &&
    gives (step { State.reset with agenda := [.tally 5 0 83 (2 ^ 33)] }) (fun t => tget 0 (easelOf t 0).conflict 83 == 0xFFFFFFFF) = true := by decide +kernel

/-! ### The device's own steps at a sequencer, at memory and at buffers -/

/-- Tables of partition 0 that map the first 1 GiB to the first 1 GiB (R124, R126): normal, writable, readable. -/
def tables : Memory :=
  memWrite (memWrite (memWrite Memory.empty 0x1000 (bytesOfNat 8 0x2001)) 0x2000 (bytesOfNat 8 0x3001)) 0x3000 (bytesOfNat 8 0xF)
def mappedPart : Part := { Part.reset with exists_ := true, root := 0x1000 }
/-- Hand 0 runs a leaf in partition 0, whose channel 0 its tables map. -/
def mapped (f : State → State) : State :=
  f { at0 .x (fun h => { h with tlb := [pNorm, page0 0 .code] }) with mem := tables, parts := [(0, mappedPart)], channels := [(0, { Channel.reset with owner := some 0 })] }
def pData : Page := { part := 0, vbase := 0, size := 30, pbase := 0, kind := .so, ptype := .normal, sup := false, w := true, rd := true, keyid := 0, layout := 0 }
def edit (f : Hand → Hand) (s : State) : State := modHand s 0 f

/-- Whether a computation answers v, or fails with v. -/
def okIs {α β : Type} [DecidableEq β] (r : Except α β) (v : β) : Bool :=
  match r with
  | .ok x => x == v
  | .error _ => false
def errIs {α β : Type} [DecidableEq α] (r : Except α β) (v : α) : Bool :=
  match r with
  | .ok _ => false
  | .error x => x == v

/-- ArrivalsAndWalks: a line of X that is in format, one of zeros that is not, the code page of both. -/
def onLine (w : Nat) : State := mapped (fun s => edit (fun h => { h with x := { h.x with line := none } }) { s with mem := memWrite s.mem 0x4000 (bytesOfNat 4 w) })
theorem wit_lineFetch : canIssue (onLine 0) 0 .x = true ∧ (sqOf (onLine 0) 0 .x).line = none ∧ (sqOf (onLine 0) 0 .x).pc = { line := 0, slot := 1 } ∧
    xlateAll (onLine 0) 0 .x true false [.code] [{ va := 0x4000, len := 64 }] = .pages [page0 0 .code] ∧ lineFault .x 0x1F000000 1 = none ∧ lineFault .x 0 1 = some 2 ∧
    linkOwn 0x80000000 < 5 ∧ linkOwn 0x80000000 ≠ seqNo .x ∧ lineFault .x 0x80000000 1 = some 3 := by
  decide +kernel

theorem test_lineFetch : gives (exec (.lineFetch 0 .x false) (onLine 0x1F000000)) (fun t => ((sqOf t 0 .x).line.map (·.take 2)) == some [0x1F000000, 0]) &&
    gives (exec (.lineFetch 0 .x false) (onLine 0)) (fun t => fld (handOf t 0).tcause 7 0 == 2 && fld (handOf t 0).tinfo 3 0 == 2) = true := by decide +kernel

def due (w : LandWhat) : Landing := { rem := 0, what := w, tag := Tag.empty, join := false, stat := 1 }
def onLanding (w : LandWhat) : State := at0 .c (fun h => { h with landings := [{ due w with rem := 3 }, due w] })

theorem wit_landing : handLive (onLanding (.scalar 4 9)) 0 = true ∧ (handOf (onLanding (.scalar 4 9)) 0).c.status = .run ∧
    (handOf (onLanding (.scalar 4 9)) 0).landings = [{ due (.scalar 4 9) with rem := 3 }] ++ due (.scalar 4 9) :: [] ∧ chanRoom (onLanding (.chan 3 9)) 0 3 = true := by decide +kernel

theorem test_landing : gives (exec (.landing 0) (onLanding (.scalar 4 9))) (fun t => reg t .c 4 == 9 && (handOf t 0).fstat == 1 && (handOf t 0).landings.length == 1) &&
    gives (exec (.landing 0) (onLanding (.chan 3 9))) (fun t => (chanList (handOf t 0) 3).map (·.val) == [some 9]) &&
    gives (exec (.landing 0) (onLanding (.pred 2 5 4))) (fun t => pget (handOf t 0) 2 == 4 && (handOf t 0).vregs == []) = true := by decide +kernel

/-- A walk that has come to its last table, and one that stands at the table before it. -/
def aWalk (va : Nat) : Walk := { part := 0, va := va, order := 5, start := some 0, level := 2, table := 0x3000, found := none, failed := none }
def walkAbove : Walk := { aWalk 5 with level := 3, table := 0x2000 }
def walking (w : Walk) : State := mapped (edit (fun h => { h with x := { h.x with walks := [w] } }))
def onWalk (va : Nat) : State := walking (aWalk va)
/-- X waits since TIME 0 with stall reason 9, and the limit is past. -/
def onStall : State := mapped (fun s => edit (fun h => { h with x := { h.x with stall := 9, since := some 0 } }) { s with time := 100000000 })

theorem wit_walk : walkRead (onWalk 5) 0 (4096 * 5) 2 0x3000 = .page pData ∧ walkRead (onWalk 0x40000) 0 (4096 * 0x40000) 2 0x3000 = .fault { cause := 5, reason := 2, level := 2 } ∧
    walkRead (walking walkAbove) 0 (4096 * 5) 3 0x2000 = .table 0x3000 ∧ walkLive walkAbove = true ∧ walkLive (aWalk 5) = true ∧ walkOld (onWalk 5) (aWalk 5) (some pData) = false ∧ walkOld (onWalk 0x40000) (aWalk 0x40000) none = false ∧
    chanOpen (walking walkAbove) (.known 5 4) 0x2000 = true ∧ chanOpen (onWalk 5) (.known 5 3) 0x3000 = true ∧ chanOpen (onWalk 0x40000) (.known 5 3) 0x3008 = true ∧
    timedOut onStall 0 = some .x ∧ (partOf onStall (handPart onStall 0)).hang = none ∧ (sqOf onStall 0 .x).ob = [] ∧ onStall.groups = [] ∧ (handOf onStall 0).bound.isSome = true := by decide +kernel

theorem test_walk : gives (exec (.walkComplete 0 ⟨.x, 0⟩) (onWalk 5)) (fun t => (handOf t 0).tlb.head? == some pData && (sqOf t 0 .x).walks.map (·.found) == [some pData]) &&
    gives (exec (.walkComplete 0 ⟨.x, 0⟩) (walking walkAbove)) (fun t => (sqOf t 0 .x).walks == [aWalk 5]) &&
    gives (exec (.walkComplete 0 ⟨.x, 0⟩) (onWalk 0x40000)) (fun t => (sqOf t 0 .x).walks.map (·.failed) == [some { cause := 5, reason := 2, level := 2 }]) = true := by decide +kernel

theorem test_stallTimeOut : gives (exec (.stallTimeOut 0) onStall) (fun t => fld (handOf t 0).tcause 7 0 == 12 && (handOf t 0).tinfo == 0x109) = true := by decide +kernel

theorem test_machineCheck : gives (exec (.machineCheck 0 5 ⟨2, none⟩) onStall) (fun t => (handOf t 0).heldMc.isSome && (handOf t 0).sup == false) &&
    gives (exec (.machineCheck 0 5 ⟨6, (some (0, .x, 3))⟩) (modSq onStall 0 .x (fun x => regPut x 3 9 Tag.empty))) (fun t => reg t .x 3 == 0) = true := by decide +kernel

/-- BuffersPerform: a load and a store of four bytes at 0x200010, a load behind a store that covers it, an atomic. -/
def piece0 (n : Nat) : Piece := { va := 0x200010, pa := 0x200010, psize := 30, len := n, off := 0, kind := .so, ptype := .normal, done := false, fwd := none, data := [] }
def obEntry (tk : Nat) (op : ObOp) : ObEntry := { ticket := tk, op := op, tag := Tag.empty, va := 0x200010, width := 4, pieces := [piece0 4], data := [1, 2, 3, 0x84] }
def onOb (l : List ObEntry) : State := mapped (edit (fun h => { h with x := { h.x with ob := l } }))
def obLoad : ObEntry := obEntry 6 (.load true none (.reg 3))
def obStore : ObEntry := obEntry 5 (.store none)

theorem wit_perform : mayPerform (onOb [obLoad]) 0 .x [] obLoad (piece0 4) = true ∧ viaCache 0 .so .normal 0x200010 = false ∧ chanOpen (onOb [obLoad]) (.known 6 0) 0x200010 = true ∧ chanOpen (onOb [obStore]) (.known 5 0) 0x200010 = true ∧
    fwdStore [obStore] [piece0 4] = some obStore ∧ mayPerformBehind (onOb [obStore, obLoad]) 0 .x [obStore] obLoad (piece0 4) (fun x => forwardBehind (onOb [obStore, obLoad]) (handPart (onOb [obStore, obLoad]) 0) 5 x obLoad (piece0 4)) = true ∧
    mayPerform (onOb [obStore]) 0 .x [] obStore (piece0 4) = true ∧ mayPerform (onOb [obEntry 5 (.amo 0 false .relaxed 5 0 (.reg 3))]) 0 .x [] (obEntry 5 (.amo 0 false .relaxed 5 0 (.reg 3))) (piece0 4) = true ∧
    (dieOf (onOb []) 0).cache = [] := by decide +kernel

theorem test_perform : gives (exec (.orderingBufferPerform 0 .x 1 0 .forwarded) (onOb [obStore, obLoad])) (fun t => reg t .x 3 == 0xFFFFFFFF84030201 && (sqOf t 0 .x).ob.length == 2) &&
    gives (exec (.orderingBufferPerform 0 .x 0 0 .plain) (onOb [obStore])) (fun t => memRead t.mem 0x200010 4 == [1, 2, 3, 0x84] && (sqOf t 0 .x).ob == []) &&
    gives (exec (.orderingBufferPerform 0 .x 0 0 .plain) (onOb [obEntry 5 (.amo 0 false .relaxed 5 0 (.reg 3))])) (fun t => memRead t.mem 0x200010 4 == [5, 0, 0, 0] && reg t .x 3 == 0) = true := by
  decide +kernel

def rcEntry (w : RcWhat) (wr : Bool) : RcEntry := { ticket := 5, hand := 0, sq := .x, tag := Tag.empty, ranges := [{ buf := .ab, lo := 0, hi := 32, wr := wr }], what := w }
def onRc (w : RcWhat) (wr : Bool) : State := mapped (fun s => { s with easels := [(0, { Easel.reset with rc := [rcEntry w wr] })] })

theorem wit_bufferAccess : rcReady (onRc (.ldb 8 4 (.reg 3)) false) 0 (rcEntry (.ldb 8 4 (.reg 3)) false) = true ∧ portTurn (onRc (.ldb 8 4 (.reg 3)) false) 0 (vectorPort .ab) = some (0 % 4) ∧
    rcReady (onRc (.stb 8 [7]) true) 0 (rcEntry (.stb 8 [7]) true) = true ∧ portTurn (onRc (.stb 8 [7]) true) 0 (vectorPort .ab) = some (0 % 4) ∧
    rcReady (onRc (.vst [(8, 7)]) true) 0 (rcEntry (.vst [(8, 7)]) true) = true ∧ portTurn (onRc (.vst [(8, 7)]) true) 0 (vectorPort .ab) = some (0 % 4) := by decide +kernel

theorem test_bufferAccess : gives (exec (.bufferAccessPerform 0 0) (onRc (.stb 8 [7]) true)) (fun t => bufRead (easelOf t 0) .ab 7 3 == [0, 7, 0] && (easelOf t 0).rc == []) &&
    gives (exec (.bufferAccessPerform 0 0) (onRc (.vst [(8, 0x01020304)]) true)) (fun t => bufRead (easelOf t 0) .ab 8 4 == [4, 3, 2, 1]) = true := by decide +kernel

def obFence : ObEntry := { obEntry 5 (.fence .die true true true true true false) with pieces := [] }
def onFence : State := mapped (edit (fun h => { h with x := { h.x with ob := [obFence], held := [{ fwd := true, fence := some 5 }] } }))
def obWait : ObEntry := { obEntry 5 (.barrier 2 0 true k0 (.reg 3)) with width := 16, pieces := [{ piece0 16 with ptype := .sync }] }
def aWait : Registration := { pa := 0x200010, hand := 0, sq := .x, ticket := 5, bound := some 10 }
def onWait : State := mapped (fun s => edit (fun h => { h with x := { h.x with ob := [obWait], awaits := some ({ line := 0, slot := 1 }, true) } }) { s with time := 20, dies := [(0, { Die.reset with regs := [aWait] })] })

theorem wit_fenceRelease : (sqOf onFence 0 .x).ob.find? (fun x => isFence x.op && !fenceHolds onFence 0 .x (sqOf onFence 0 .x).ob x true true false &&
      !(fenceEng x.op && (cmdTickets onFence 0 .x).any (fun t => decide (t < x.ticket)))) = some obFence ∧ (sqOf onFence 0 .x).held = [{ fwd := true, fence := some 5 }] ∧
    [0, 1, 2, 3].flatMap (fun d => ((dieOf onWait d).regs.filter (fun r => r.ticket == 5)).map (fun r => (d, r))) = [(0, aWait)] ∧
    (sqOf onWait 0 .x).ob.find? (fun y => y.ticket == 5) = some obWait := by decide +kernel

theorem test_fenceRelease : gives (exec (.fenceTokenRelease 0 .x) onFence) (fun t => (sqOf t 0 .x).ob == [] && (sqOf t 0 .x).fwdQ == 1) &&
    gives (exec (.bwaitTimeBoundExpiry 5) onWait) (fun t => reg t .x 3 == 0x0300000000000000 && (sqOf t 0 .x).pc.slot == 2) = true := by decide +kernel

/-- CacheAndInvalidationSteps. -/
def onCache : State := mapped (fun s => { s with dies := [(0, { Die.reset with cache := [(0x200010, { val := 7, dirty := true, at_ := 0 }), (0x200011, { val := 8, dirty := false, at_ := 0 })] })], invals := [(5, 0, 0x200000, 64, 0)] })

theorem wit_cache : memWf onCache.mem = true ∧ dirtyIn onCache 0 0x200000 128 ≠ [] ∧ chanOpen onCache .unit 0x200010 = true ∧
    onCache.invals.find? (fun e => e.1 == 5) = some (5, 0, 0x200000, 64, 0) ∧ inFlight onCache 0 0x200000 64 = 0 ∧ oldWalk onCache 0 0 = false ∧ mcUp onCache = true := by decide +kernel

theorem test_cache : gives (exec (.dieCacheWriteBack 0 0x200010) onCache) (fun t => memRead t.mem 0x200010 2 == [7, 0] && (dieOf t 0).cache.all (fun e => !e.2.dirty)) &&
    gives (exec (.dieCacheDiscard 0 0x200010) onCache) (fun t => (dieOf t 0).cache.map (·.1) == [0x200010] && t.mem == tables) &&
    gives (exec (.invalidationComplete 5) onCache) (fun t => t.outbox == [.log 1 5] && t.invals == [] && (handOf t 0).tlb == [page0 0 .code]) = true := by decide +kernel

/-! ### Engines -/

/-- The copy-in of wit_copyIn in its queue, and a copy-out of the same box. -/
def aCopy (kd : CopyKind) : CopyCmd := { copyCommand (withTsr .l) (copyArgs kd .ab) tsr with ticket := 5, hand := 0, sq := .l, leaf := some leaf0, pages := [pNorm], tag := Tag.empty, outOp := .copy }
def onCopy (c : CopyCmd) : State := mapped (fun s => { s with easels := [(0, { Easel.reset with copyQ := [c] }), (512, { Easel.reset with copyQ := [c] })], mem := memWrite s.mem 0x200100 [1, 2, 3, 4] })
def aRun (kd : CopyKind) : Run := runFrom (aCopy kd) 0 0
def doneCopy (kd : CopyKind) : CopyCmd := { aCopy kd with started := true, pos := 32, bytes := 32 }

theorem wit_copyAccess : copyEnabled (onCopy (aCopy .inn)) (.known 5 0) 0 (aCopy .inn) = true ∧ accessRuns (aCopy .inn) = [aRun .inn] ∧ (aRun .inn).inside = true ∧ (aCopy .inn).kind = .inn ∧
    pageAt (aCopy .inn).pages 0 ((aRun .inn).src / 2) = some pNorm ∧ copyEnabled (onCopy (aCopy .out)) (.known 5 0) 0 (aCopy .out) = true ∧ accessRuns (aCopy .out) = [aRun .out] ∧ (aRun .out).inside = true ∧
    pageAt (aCopy .out).pages 0 ((aRun .out).dst / 2) = some pNorm ∧ (aRun .out).dst % 2 = 0 ∧ (aRun .out).n % 2 = 0 ∧
    accessesDone (onCopy (doneCopy .inn)) (doneCopy .inn) = true ∧ releaseReady (onCopy (doneCopy .inn)) 0 (doneCopy .inn) = true ∧ (doneCopy .inn).token = some 9 ∧
    leafBound (onCopy (doneCopy .inn)) 0 (some leaf0) = true ∧ (stepGlaze (aCopy .inn) = [] ∧ stepGlaze (aCopy .out) = []) := by decide +kernel

/-- A copy-in whose source is word 0 of region 0, of which a tick owes an advance; a copy-out that adds its one element to memory. -/
def tapCopy : CopyCmd := { aCopy .inn with src := 0x600000, pages := [pGlaze] }
def onTap : State :=
  { onCopy tapCopy with
    parts := [(0, { mappedPart with regions := [(0, region0)] })]
    channels := [(0, { Channel.reset with owner := some 0, ticks := [{ ticket := 9, part := 0, region := 0, tick0 := 0, n := 3, words := [(0x600000, 1)] }] })] }
def addCopy : CopyCmd := { aCopy .out with outOp := .addF32 }

theorem wit_copyOperation : copyEnabled onTap (.known 5 0) 0 tapCopy = true ∧ ((stepGlaze tapCopy).find? (fun x => (owing onTap 0 x.1 x.2.1).isSome)).isSome = true ∧
    copyEnabled (onCopy addCopy) (.known 5 0) 0 addCopy = true ∧ (accessRuns addCopy).length = 1 ∧ ((accessRuns addCopy).all (fun r => r.inside && r.n == 2 * (addCopy.comps * (addCopy.cbits / 8)) &&
      (List.range (r.n / 2)).all (fun i => pageAt addCopy.pages 0 (r.dst / 2 + i) == some pNorm))) = true ∧ stepGlaze addCopy = [] ∧ memWf (onCopy addCopy).mem = true ∧
    (dieOf (onCopy addCopy) 0).cache = [] := by decide +kernel

theorem test_copyOperation : gives (exec (.copyEngineAccess 0 0 false) onTap) (fun t => (chanOf t 0).ticks.map (·.words) == [[]] && (easelOf t 0).copyQ.map (·.pos) == [0]) &&
    gives (exec (.copyEngineAccess 0 0 false) (onCopy addCopy)) (fun t => (easelOf t 0).copyQ.map (·.started) == [true]) = true := by decide +kernel

theorem test_copyAccess : gives (exec (.copyEngineAccess 0 0 false) (onCopy (aCopy .inn))) (fun t => bufRead (easelOf t 0) .ab 0 5 == [1, 2, 3, 4, 0]) &&
    gives (exec (.copyEngineAccess 0 0 true) (onCopy (aCopy .inn))) (fun t => bufRead (easelOf t 0) .ab 0 4 == [0, 0, 0, 0] && (easelOf t 0).copyQ.map (·.status) == [1]) &&
    gives (exec (.copyCompletion 0 0) (onCopy (doneCopy .inn))) (fun t => reg t .l 9 == 16 && (easelOf t 0).copyQ == []) = true := by decide +kernel

/-- A node record of a copy: KIND 1, its shape record at 0x200000, no bases of its own. -/
def copyNode : BitVec 512 := BitVec.ofNat 512 (1 + 0x200000 * 2 ^ 64 + 0x200300 * 2 ^ 128 + 0x200100 * 2 ^ 192)
def aTask : Task := { node := 0, iter := [], state := .running, readyAt := 0, order := 0, sel := none, placed := 0, retired := [], stopped := false, status := 0, detail := 0, detail1 := 0, iters := 0, exited := false, lastPlaced := 0 }
def aLaunch (nodes : List (BitVec 512)) (t : Task) : Launch :=
  { part := 0, queue := 0, entry := 0, va := 0, cookie := 0, header := 0, levels := [], nodes := nodes, edges := [], tstart := 0, tasks := [t], units := [], status := 0, node := 0, detail := 0, dwords := [], cut := false, ended := false, posted := none }
/-- With a shape record at 0x200000, or with zeros there, which are no legal record. -/
def onNode (n : Nat) : State := mapped (fun s => { s with launches := [(7, aLaunch [copyNode] aTask)], mem := memWrite s.mem 0x200000 (bytesOfNat 128 n) })

def nodeChecks (s : State) : State × Except (Nat × Word) CopyCmd :=
  globalCheck (nodeTaken (copyStart (walkTouched s 0 (nodeCopy s 0 7 0 copyNode).dst) 512 (nodeCopy s 0 7 0 copyNode)) 7 0 0) 0 (nodeCopy s 0 7 0 copyNode) (fld copyNode 127 64) (originOf (fld copyNode 315 256))

theorem wit_copyNode : launchOf (onNode 0) 7 = some (aLaunch [copyNode] aTask) ∧ okIs (walk (onNode 0) 0 (nodeCopy (onNode 0) 0 7 0 copyNode).dst) pData = true ∧
    unitsOpen (onNode 0) (unitTables (onNode 0) 0 (nodeCopy (onNode 0) 0 7 0 copyNode).dst) = true ∧ globalOpen (onNode 0) 0 (nodeCopy (onNode 0) 0 7 0 copyNode) 0x200000 (originOf (fld copyNode 315 256)) = true ∧
    globalOpen (onNode tsr.toNat) 0 (nodeCopy (onNode tsr.toNat) 0 7 0 copyNode) 0x200000 (originOf (fld copyNode 315 256)) = true ∧
    (match (nodeChecks (onNode tsr.toNat)).2 with
     | .ok _ => true
     | .error _ => false) = true ∧
    (match (nodeChecks (onNode 0)).2 with
     | .ok _ => false
     | .error _ => true) = true := by decide +kernel

theorem test_copyNode : gives (exec (.globalCopy 7 0) (onNode tsr.toNat)) (fun t => (easelOf t 512).copyQ.length == 1) &&
    gives (exec (.globalCopy 7 0) (onNode 0)) (fun t => ((launchOf t 7).map (fun l => l.tasks.map (·.status))) == some [7] && t.easels == []) = true := by decide +kernel

/-- A command of queue 4: completion word at 0x200400, op code 255; the same command checked, with its accesses made. -/
def aCommand : CopyCmd := { aCopy .command with words := [0xFF, 0x200000, 0x200100, 0x200300, 0, 0x200400, 0, 0], acq := false, rel := false }
def doneCommand : CopyCmd := { doneCopy .global with done := some (0x200400, pData), status := 2, bytes := 0 }

theorem wit_globalCommand : copyReady (onCopy aCommand) (copyOfWords aCommand) = true ∧ stopsCmd (onCopy aCommand) 0 .l (some leaf0) 5 = false ∧ (aCommand.words.getD 5 0).toNat % 8 = 0 ∧
    okIs (unitPages (onCopy aCommand) 0 false false true [.normal] [{ va := 0x200400, len := 8 }]) [pData] = true ∧ globalMalformed (fun i => aCommand.words.getD i 0) = true ∧ unitsOpen (onCopy aCommand) (unitTables (onCopy aCommand) 0 0x200400) = true ∧
    accessesDone (onCopy doneCommand) doneCommand = true ∧ releaseReady (onCopy doneCommand) 512 doneCommand = true ∧ chanOpen (onCopy doneCommand) .unit 0x200400 = true := by
  decide +kernel

theorem test_globalCommand : gives (exec (.globalCopyCommand 512 0) (onCopy doneCommand)) (fun t => memRead t.mem 0x200400 8 == [0, 0, 0, 0, 0, 0, 0, 2] && (easelOf t 512).copyQ == []) = true := by
  decide +kernel

/-- IntegerProductsAreExact: signed bytes in, INT32 out, wrapping and saturating. -/
def bytePal (sat : Nat) : BitVec 128 := BitVec.ofNat 128 (2 ^ 127 + sat * 2 ^ 122 + 0x008006 * 2 ^ 48 + 0x000071 * 2 ^ 24 + 0x000071)
def byteCmd (sat : Nat) : MuralCmd := { mkMural (handOf heldMural 0) 0 5 mmaArgs none with a := 0, b := 0, c := 0, m := 2, n := 2, k := 2, pal := bytePal sat, alg := realsRecord, start := 0 }

theorem wit_integerProducts : palClass (bytePal 0) = some .narrowInt ∧ palClass (bytePal 1) = some .narrowInt ∧ palA (bytePal 0) = [some (.int true 7 0)] ∧ palB (bytePal 1) = [some (.int true 7 0)] ∧
    bit (bytePal 0) 122 = false ∧ bit (bytePal 1) 122 = true ∧ (byteCmd 0).group = none := by decide +kernel

/-- −2 · 3 + −2 · 3, by bytes that every element of the tiles shares. -/
theorem test_integerProduct : (sliceElement { heldMural with easels := [(0, { Easel.reset with ab := memWrite Memory.empty 0 [0xFE, 0xFE], wb := memWrite Memory.empty 0x0 [3, 3] })] } 0 (byteCmd 0) 0 0 0) = 0xFFFFFFF4 := by
  decide +kernel

/-- MuralStepsComplete. -/
def plainMma : MuralCmd := byteCmd 0
def chainOf (c : MuralCmd) : Chain := { c := c.c, m := c.m, n := c.n, slot := c.slot, int := true, d := 1, base := 0, accs := List.replicate (c.m * c.n) 5 }
def queued (f : Mural → Mural) : State := onMural (fun m => f { m with lease := .held, holder := 0, budget := 3, queue := [plainMma] })

theorem wit_muralStart : queuedOf (muralOf (queued id) 0) 0 = plainMma :: [] ∧ (muralOf (queued id) 0).queue.find? (fun x => x.ticket == plainMma.ticket) = some plainMma ∧ (handOf (queued id) plainMma.hand).chainMark = none ∧
    continues { plainMma with acc := true } (chainOf plainMma) = true ∧ continues plainMma (chainOf plainMma) = false ∧
    sliceFree (queued (fun m => { m with running := some plainMma, queue := [] })) plainMma 0 = true ∧ plainMma.chain = false ∧
    rcBlocked (rcBefore (easelOf (queued (fun m => { m with spill := some 9, chain := some (chainOf plainMma), queue := [] })) 0).rc 9) [] = false := by decide +kernel

theorem test_muralStart : gives (exec (.muralCommandStart 0) (queued id)) (fun t => (muralOf t 0).running.isSome && (muralOf t 0).budget == 2 && (muralOf t 0).queue == []) &&
    gives (exec (.muralCommandStart 0) (queued (fun m => { m with chain := some (chainOf plainMma) }))) (fun t => (muralOf t 0).running.isNone && (muralOf t 0).spill == some 100) = true := by decide +kernel

def waiting : State := { queued (fun m => { m with running := some plainMma, waits := [(1, 0)] }) with time := 100000, hands := [(0, hand0), (1, { hand0 with c := { run0 with stall := 10 } })] }
def idle : State := { queued (fun m => { m with queue := [], chain := some (chainOf plainMma) }) with time := 100000, hands := [(0, hand0)], groups := [(0, [{ group1 with hand := 1 }])] }

theorem wit_leaseBounds : (muralOf waiting 0).waits.find? (fun w => w.1 == 1) = some (1, 0) ∧ 0 + (handOf waiting 1).lbound.toNat ≤ waiting.time.toNat ∧ (muralOf waiting 0).holder ≠ 1 ∧
    (muralOf waiting 0).running.isSome = true ∧ (muralOf waiting 0).expired.contains 1 = false ∧ asks waiting 0 1 = true ∧ (muralOf waiting 0).lease = .held ∧
    (muralOf idle 0).lease = .held ∧ (muralOf idle 0).running = none ∧ (muralOf idle 0).spill = none ∧ othersAsk idle 0 = true ∧
    queuedOf (muralOf idle 0) 0 = [] ∧ (muralOf idle 0).idle + 256 ≤ dieCycles idle 0 := by decide +kernel

theorem wit_reservation : reservationAt { groupMural with easels := [] } 0 = some group1 ∧ (muralOf { groupMural with easels := [] } 0).lease = .free ∧
    arbitrate { groupMural with easels := [] } 0 = some (0, true) ∧ reservationAt { heldMural with groups := [(0, [group1])] } 0 = some group1 ∧
    queuedOf (muralOf heldMural 0) 0 = [] ∧ (muralOf heldMural 0).chain = none := by
  decide +kernel

/-! ### Glaze, synchronisation, collectives, fresco -/

/-- Tick, export and import jobs of region 0, alone, and a tick at channel 0 with its last word left, and with two. -/
def aJob (op : Nat) (chans : List Nat) : GlazeJob :=
  { ticket := 5, part := 0, region := 0, op := op, n := 3, image := [pNorm], imgVa := 0x200000, hand := 0, sq := .x, leaf := some leaf0, dst := .none, cookie := none, node := none, chans := chans, holds := [], pos := 0, held := [], desc := 0, words := [] }
def aTick (words : List (Nat × Nat)) : TickJob := { ticket := 5, part := 0, region := 0, tick0 := 0, n := 3, words := words }
def onGlaze (js : List GlazeJob) (ticks : List TickJob) : State :=
  mapped (fun s => { s with glazeJobs := js, parts := [(0, { mappedPart with regions := [(0, region0)] })], channels := [(0, { Channel.reset with owner := some 0, ticks := ticks })] })

/-- The bytes of region 0's descriptor, and an import whose image holds given bytes, at a position of it. -/
def imageDesc : List Byte := bytesOfNat 64 region0.desc.toNat
def onImport (bs : List Byte) (pos : Nat) : State :=
  let s := onGlaze [{ aJob 4 [] with pos := pos, desc := region0.desc }] []
  { s with mem := memWrite s.mem 0x200000 bs }

/-- A transfer at the first part of its words, which have been read or not. -/
def moving (op : Nat) (held : List Byte) : GlazeJob := { aJob op [] with pos := 64, desc := region0.desc, held := held }
def onMoving (op : Nat) (held : List Byte) : State := onGlaze [moving op held] []

theorem wit_ticks : jobBehind (onGlaze [aJob 0 [0]] []) (aJob 0 [0]) = false ∧ (aJob 0 [0]).chans.contains 0 = true ∧ chanOpen (onGlaze [aJob 0 []] [aTick [(0x600000, 1)]]) (.known 5 0) 0x600000 = true ∧
    (onGlaze [aJob 0 []] [aTick [(0x600000, 1)]]).glazeJobs.find? (fun j => j.ticket == 5) = some (aJob 0 []) ∧ jobBehind (onGlaze [aJob 3 []] []) (aJob 3 []) = false ∧ jobOpen (onGlaze [aJob 3 []] []) (.known 5 0) (aJob 3 []) = true ∧
    jobBehind (onGlaze [aJob 3 [0]] []) (aJob 3 [0]) = false ∧ jobOpen (onImport [] 0) (.known 5 0) (aJob 4 []) = true ∧ jobBehind (onImport [] 0) (aJob 4 []) = false ∧
    importBad region0.desc (BitVec.ofNat 512 (natOfBytes (memRead (onImport imageDesc 0).mem (imageAt (aJob 4 []) 0) 64))) = false ∧
    importBad region0.desc (BitVec.ofNat 512 (natOfBytes (memRead (onImport [] 0).mem (imageAt (aJob 4 []) 0) 64))) = true ∧
    jobOpen (onImport imageDesc 64) (.known 5 0) { aJob 4 [] with pos := 64 } = true ∧ jobOpen (onMoving 3 []) (.known 5 0) (moving 3 []) = true ∧
    jobOpen (onMoving 3 [7]) (.known 5 0) (moving 3 [7]) = true ∧ jobOpen (onMoving 4 [7]) (.known 5 0) (moving 4 [7]) = true := by decide +kernel

theorem test_glazeHold : gives (exec (.tickPresent 0 0) (onGlaze [aJob 3 [0]] [])) (fun t => t.glazeJobs.map (fun j => (j.chans, j.holds)) == [([], [0])]) &&
    gives (exec (.glazeHold 0 false) (onGlaze [aJob 3 []] [])) (fun t => memRead t.mem 0x200000 64 == imageDesc && t.glazeJobs.map (·.pos) == [64]) &&
    gives (exec (.glazeHold 0 false) (onImport imageDesc 0)) (fun t => t.glazeJobs.map (fun j => (j.pos, j.desc)) == [(64, region0.desc)]) &&
    gives (exec (.glazeHold 0 false) (onImport [] 0)) (fun t => t.glazeJobs == []) = true := by decide +kernel

theorem test_ticks : gives (exec (.wordAdvance 0) (onGlaze [aJob 0 []] [aTick [(0x600000, 1)]])) (fun t => rgTick (regionOf (partOf t 0) 0).desc == 3 && t.glazeJobs == [] && (chanOf t 0).ticks == []) &&
    gives (exec (.wordAdvance 0) (onGlaze [aJob 0 []] [aTick [(0x600000, 2), (0x600010, 3)]])) (fun t => (chanOf t 0).ticks.map (·.words) == [[(0x600000, 1), (0x600010, 3)]]) = true := by decide +kernel

/-- A command of queue 2 or 3, issued by hand 0's leaf. -/
def aCmd (fn : Option Nat) (dst : DstRef) (words : List Word) : EngCmd :=
  { ticket := 5, hand := 0, sq := .x, part := 0, leaf := some leaf0, tag := Tag.empty, fn := fn, words := words, dst := dst, extra := [], pages := [], phase := 0 }
def gStat : EngCmd := aCmd none .none [3, 0, 9, 0, 0, 0, 0, 0]
def gTick : EngCmd := aCmd none .none [0, 4, 9, 0, 0, 0, 0, 0]
/-- ADD of 5 to the 32-bit word at 0x200010. -/
def sAdd : EngCmd := aCmd none .none [0, 0x200010, 5, 0, 0, 0, 0, 0]
def onQueues (e : Easel) : State := { onGlaze [] [] with easels := [(0, e)] }

theorem wit_queue2 : cmdReady (onQueues Easel.reset) 0 .x 5 Tag.empty = true ∧ glazeMalformed (fun i => gStat.words.getD i 0) = false ∧ glazeMalformed (fun i => gTick.words.getD i 0) = false ∧
    cfgStallsRegion (onQueues Easel.reset) 0 0 = false ∧ rgValid region0.desc = true ∧ rgPerTick region0.desc = true ∧ 0 < fld (gTick.words.getD 1 0) 15 0 ∧ syncMalformed sAdd = false ∧
    okIs (unitPages (onQueues Easel.reset) 0 false true true [.normal, .sync] [{ va := 0x200010, len := 4 }]) [pData] = true ∧
    unitOpen (onQueues Easel.reset) 0 0x200010 4 = true ∧
    (amoStep (walkTouched (onQueues Easel.reset) 0 0x200010) .unit 0 .normal 0 4 0x200010 5 0).isSome = true ∧ stopsCmd (onQueues Easel.reset) 0 .x (some leaf0) 5 = false := by decide +kernel

theorem wit_answerRoom : AnswerRoom (onQueues Easel.reset) 0 (some leaf0) 10 1 ∧ AnswerRoom (onQueues Easel.reset) 0 (some leaf0) 11 2 :=
  ⟨⟨by decide +kernel, by decide +kernel, by decide +kernel, by decide +kernel⟩, ⟨by decide +kernel, by decide +kernel, by decide +kernel, by decide +kernel⟩⟩

theorem test_queue2 : gives (exec (.glazeControlCommand 0 0) (onQueues { Easel.reset with glazeQ := [gStat] })) (fun t => (chanList (handOf t 0) 10).map (·.val) == [some 0x0003000900000011]) &&
    gives (exec (.glazeControlCommand 0 0) (onQueues { Easel.reset with glazeQ := [gTick] })) (fun t => t.glazeJobs.map (fun j => (j.op, j.n, j.chans)) == [(0, 4, [0])]) &&
    gives (exec (.syncCommand 0 0 false) (onQueues { Easel.reset with syncQ := [sAdd] })) (fun t => memRead t.mem 0x200010 4 == [5, 0, 0, 0] && (chanList (handOf t 0) 11).map (·.val) == [some 0, some 0]) = true := by
  decide +kernel

/-- CollectiveStepsComplete: an armed trigger that adds 3 to counter 9 once counter 4 has reached 5. -/
def trig : Trigger := { record := BitVec.ofNat 512 (8 + 4 * 16 + 5 * 2 ^ 64 + 9 * 2 ^ 128 + 3 * 2 ^ 192), send := 0, hand := 0, sq := .x, leaf := some leaf0, ticket := 5 }
def onPart (f : Part → Part) : State := mapped (fun s => { s with parts := [(0, f mappedPart)], pkg := { s.pkg with ready := 0xFFFFFFFFFFFFF } })

theorem wit_trigger : trCond trig.record = 0 ∧ trCidx trig.record = 4 % 1024 ∧ (trThresh trig.record).toNat ≤ (5 : Word).toNat ∧ trAct trig.record = 2 ∧ trEvt trig.record = false := by decide +kernel

theorem test_trigger : gives (exec (.counterSupervisorWrite 0 false 4 5) (onPart (fun x => { x with triggers := [(1, trig)] }))) (fun t =>
    (partOf t 0).triggers == [] && tget 0 (partOf t 0).counters 9 == 3 && tget 0 (partOf t 0).counters 4 == 5) &&
    gives (exec (.counterSupervisorWrite 0 false 4 5) (onPart (fun x => { x with triggers := [(1, trig)], paused := true }))) (fun t => (partOf t 0).deferred.length == 1 && tget 0 (partOf t 0).counters 9 == 0) &&
    gives (exec (.collectiveResume 0) (onPart (fun x => { x with deferred := [(1, trig)], paused := true }))) (fun t => (partOf t 0).deferred == [] && tget 0 (partOf t 0).counters 9 == 3) = true := by
  decide +kernel

/-- A mesh of 2 by 2, rank 3; a rank outside it. -/
theorem wit_mesh : (meshAxes (1 + 2 ^ 12 + 2 ^ 48 + 3 * 2 ^ 50) = 2 ∧ meshCount (1 + 2 ^ 12 + 2 ^ 48 + 3 * 2 ^ 50) = 4 ∧ meshRank (1 + 2 ^ 12 + 2 ^ 48 + 3 * 2 ^ 50) = 3 ∧ fld (1 + 2 ^ 12 + 2 ^ 48 + 3 * 2 ^ 50 : Word) 63 62 = 0) ∧
    meshCount (2 ^ 50) ≤ meshRank (2 ^ 50) := by decide +kernel

/-- An exchange of 8 FP32 elements whose step along axis 0 is an all-reduce (R281), so that this device and rank 2 take part in it. -/
def pair0 : BitVec 512 := BitVec.ofNat 512 (1 + 3 * 2 ^ 20 + 0x008000 * 2 ^ 24 + (7 + 2 ^ 16) * 2 ^ 192 + 7 * 2 ^ 224 + 8 * 2 ^ 288)
def aHandle : Handle := { newHandle pair0 0x200000 none with running := true, leaf := some leaf0, slots := [0] }
def aMessage (h : Option Nat) : Message := { ctx := 6, id := 1, part := 0, rank := 2, va := 0x200010, bytes := [1, 2, 3, 4], last := true, bad := none, handle := h, combine := false, upd := true, sb := false, ix := 4, inc := 2 }
/-- A send of 4 bytes at 0x200010 to rank 0, which adds 6 to counter 8 here. -/
def aSend : Send := { ticket := 5, record := BitVec.ofNat 512 (0x200010 + 0x300000 * 2 ^ 64 + 4 * 2 ^ 128 + 8 * 2 ^ 256 + 2 ^ 266 + 6 * 2 ^ 320), hand := 0, sq := .x, leaf := some leaf0, after := none, data := [], sent := false }
def square : Word := 1 + 2 ^ 12 + 2 ^ 48 + 3 * 2 ^ 50
def onRun (x : Send) (h : Handle) (begun : List (Nat × Bool)) : State :=
  { onPart (fun y => { y with sends := [x], handles := [(2, h)], mesh := square }) with
    ctxs := [(6, { part := 0, port := 0, rod := false, wdone := 0, open_ := false, tails := [], begun := begun })] }
def onSend : State := onRun aSend aHandle []
def readSend : Send := { aSend with data := [0, 0, 0, 0] }

theorem wit_collective : linkUp onSend 0 = true ∧ anyLink onSend = true ∧ mcUp onSend = true ∧ collPaused onSend 0 = false ∧ handleOf onSend 0 2 = some aHandle ∧
    (partOf onSend 0).exists_ = true ∧ (ctxGet onSend 6).isSome = true ∧ exchangesWith square pair0 2 = true ∧ onSend.pkg.phase = 0 ∧
    (messageStore onSend (aMessage none)).1 = some true ∧ (messageStore onSend { aMessage none with bad := some 2 }).1 = some false ∧
    collPaused { onSend with pkg := { onSend.pkg with phase := 1 } } 0 = true ∧ linkUp { onSend with pkg := { onSend.pkg with phase := 1 } } 0 = true := by decide +kernel

theorem wit_send : onSend.parts.findSome? (fun e => (e.2.sends.find? (fun x => x.ticket == 5)).map (fun x => (e.1, x))) = some (0, aSend) ∧
    nextGranule [(fld aSend.record 63 0, sdBytes aSend.record)] 0 = some (0x200010, 4) ∧ nextGranule [(fld aSend.record 63 0, sdBytes aSend.record)] 4 = none ∧
    sdLcv aSend.record = true ∧ bit aSend.record 432 = false ∧ okIs (unitPages onSend 0 false true false [.normal] [{ va := 0x200010, len := 4 }]) [pData] = true ∧
    unitsOpen onSend (unitTables onSend 0 0x200010) = true ∧ unitsOpen onSend (unitTables onSend 0 0x200010 ++ [0x200010]) = true := by decide +kernel

theorem test_send : gives (exec (.sendComplete 5 (.access false)) onSend) (fun t => (partOf t 0).sends.map (·.data) == [[0, 0, 0, 0]] && t.outbox == []) &&
    gives (exec (.sendComplete 5 (.access false)) (onRun readSend aHandle [])) (fun t => (partOf t 0).sends.map (·.sent) == [true] && t.outbox == [.send 0 0 none 0x300000 [0, 0, 0, 0] aSend.record]) &&
    gives (exec (.sendComplete 5 (.peer 0)) (onRun { readSend with sent := true } aHandle [])) (fun t => tget 0 (partOf t 0).counters 8 == 6 && (partOf t 0).sends == []) &&
    gives (exec (.sendComplete 5 (.peer 3)) (onRun { readSend with sent := true } aHandle [])) (fun t => tget 0 (partOf t 0).counters 8 == 0 && (partOf t 0).sends == []) &&
    gives (exec (.peerUnreachable 0 0) onSend) (fun t => (partOf t 0).sends == []) = true := by decide +kernel

theorem test_message : gives (exec (.collectiveMessage (aMessage none)) onSend) (fun t => memRead t.mem 0x200010 4 == [1, 2, 3, 4] && tget 0 (partOf t 0).counters 4 == 2) &&
    gives (exec (.collectiveMessage (aMessage (some 2))) onSend) (fun t => (handleOf t 0 2).map (fun h => h.inbox.length) == some 1 && t.mem == tables) &&
    gives (exec (.collectiveMessage { aMessage none with bad := some 2 }) onSend) (fun t => memRead t.mem 0x200010 3 == [1, 2, 0] && tget 0 (partOf t 0).counters 4 == 0 && t.outbox == [.log 9 2]) &&
    gives (exec (.collectiveMessage (aMessage none)) (onRun aSend aHandle [(1, true)])) (fun t => t.mem == tables && tget 0 (partOf t 0).counters 4 == 0) &&
    gives (exec (.collectiveMessage { aMessage none with ctx := 5 }) onSend) (fun t => t.mem == tables && tget 0 (partOf t 0).counters 4 == 0) = true := by decide +kernel

/-- A run whose message is to be read; read; sent; with the message of rank 2 in; with its shard to be written; written. -/
def runOf (sends : List (Nat × Nat)) (msg own : List Byte) (inbox : List Arrival) (out : Option (List (Nat × List Byte))) : Handle :=
  { aHandle with sends := sends, msg := msg, own := own, inbox := inbox, out := out }
def ones : List Byte := (List.replicate 8 [0, 0, 0x80, 0x3F]).flatten
def twos : List Byte := (List.replicate 8 [0, 0, 0, 0x40]).flatten
def arrived : Arrival := { rank := 2, va := 0x200000, bytes := ones, combine := true, last := true }
def onExch (h : Handle) : State := { onRun aSend h [] with mem := memWrite tables 0x200000 ones }

theorem wit_exchange : (trafficAxes square pair0).head? = some 0 ∧ stepReady square (runOf [(0, 2)] [] [] [] none) 0 = true ∧
    nextGranule (portionRows square pair0 0x200000 0 2) 0 = some (0x200000, 32) ∧ nextGranule (portionRows square pair0 0x200000 0 2) 32 = none ∧
    nextGranule ((sharedRows square pair0 0x200000).map (fun r => (r.1, r.2.2))) 0 = some (0x200000, 32) ∧ nextGranule ((sharedRows square pair0 0x200000).map (fun r => (r.1, r.2.2))) 32 = none ∧
    (trafficAxes square pair0).all (axisIn square (runOf [] [] ones [arrived] none)) = true ∧ (exShard square (runOf [] [] ones [arrived] none)).all (·.isSome) = true ∧
    okIs (unitPages (onExch aHandle) 0 false true false [.normal] [{ va := 0x200000, len := 32 }]) [pData] = true ∧ okIs (unitPages (onExch aHandle) 0 false false true [.normal] [{ va := 0x200000, len := 32 }]) [pData] = true ∧
    unitsOpen (onExch aHandle) (unitTables (onExch aHandle) 0 0x200000 ++ [0x200000]) = true ∧ unitsOpen (onExch aHandle) (unitTables (onExch aHandle) 0 0x200000) = true := by decide +kernel

/-- R281, R289: the message carries the shard; the shard of the all-reduce is the sum; it is written, and the run ends. -/
theorem test_exchange : gives (exec (.exchangeComplete 0 2 (.access false)) (onExch (runOf [(0, 2)] [] [] [] none))) (fun t => (handleOf t 0 2).map (·.msg) == some ones) &&
    gives (exec (.exchangeComplete 0 2 (.access false)) (onExch (runOf [(0, 2)] ones [] [] none))) (fun t => (handleOf t 0 2).map (fun h => h.sends) == some [] && t.outbox.length == 1) &&
    gives (exec (.exchangeComplete 0 2 (.access false)) (onExch (runOf [] [] [] [arrived] none))) (fun t => (handleOf t 0 2).map (·.own) == some ones) &&
    gives (exec (.exchangeComplete 0 2 (.access false)) (onExch (runOf [] [] ones [arrived] none))) (fun t => (handleOf t 0 2).map (·.out) == some (some [(0x200000, twos)])) &&
    gives (exec (.exchangeComplete 0 2 (.access false)) (onExch (runOf [] [] ones [arrived] (some [(0x200000, twos)])))) (fun t => memRead t.mem 0x200000 32 == twos && (handleOf t 0 2).map (·.out) == some (some [])) &&
    gives (exec (.exchangeComplete 0 2 (.access false)) (onExch (runOf [] [] ones [arrived] (some [])))) (fun t => (handleOf t 0 2).map (fun h => (h.running, h.slots)) == some (false, [])) &&
    gives (exec (.exchangeComplete 0 2 (.peer 3)) (onExch aHandle)) (fun t => (handleOf t 0 2).map (fun h => (h.running, h.slots)) == some (false, [])) = true := by decide +kernel

def cAdd : EngCmd := aCmd (some 0x25) (.reg 3) [9, 2]
def cCnt : EngCmd := aCmd (some 0x24) (.reg 3) [9, 0]
def cDis : EngCmd := aCmd (some 0x23) (.reg 3) [1, 0]
/-- CXLAY of a record at 0x200000, not yet read; read; read, and malformed. -/
def cLay (ph : Nat) : EngCmd := { aCmd (some 0x20) (.reg 3) [0x200000, 0x200000] with pages := [pNorm], phase := ph, extra := bytesOfNat 64 pair0.toNat }
def cBadLay : EngCmd := { cLay 1 with extra := List.replicate 64 0 }
def onColl (c : EngCmd) : State := { onPart (fun x => { x with counters := [(9, 40)], mesh := square }) with easels := [(0, { Easel.reset with collQ := [c] })] }

theorem wit_collectiveCommand : cmdReady (onColl cAdd) 0 .x 5 Tag.empty = true ∧ leafBound (onColl cAdd) 0 (some leaf0) = true ∧ targetBad 9 true = false ∧ targetBad 9 false = false ∧
    earlierDone (onColl cAdd) 0 .x (some leaf0) 5 = true ∧ fld (1 : Word) 63 9 = 0 ∧ stopsCmd (onColl cAdd) 0 .x (some leaf0) 5 = false ∧ chanOpen (onColl (cLay 0)) .unit 0x200000 = true ∧
    plannerUp (onColl (cLay 1)) = true ∧ unitsOpen (onColl (cLay 1)) (pairTables (onColl (cLay 1)) 0 (heldRecord (cLay 1)) 0x200000) = true ∧
    pairFault (onColl (cLay 1)) 0 (heldRecord (cLay 1)) 0x200000 = none ∧ freeHandle (onColl (cLay 1)) 0 = some 0 ∧ pairFault (onColl cBadLay) 0 0 0x200000 = some 1 := by decide +kernel

theorem test_collectiveCommand : gives (exec (.collectiveCommand 0 0 none) (onColl cAdd)) (fun t => tget 0 (partOf t 0).counters 9 == 42 && reg t .x 3 == 40) &&
    gives (exec (.collectiveCommand 0 0 none) (onColl cCnt)) (fun t => reg t .x 3 == 40) && gives (exec (.collectiveCommand 0 0 none) (onColl cDis)) (fun t => (easelOf t 0).collQ == [] && (partOf t 0).triggers == []) &&
    gives (exec (.collectiveCommand 0 0 none) (onColl (cLay 1))) (fun t => (handleOf t 0 0).map (·.record) == some pair0 && reg t .x 3 == 0) &&
    gives (exec (.collectiveCommand 0 0 none) (onColl cBadLay)) (fun t => (handleOf t 0 0).isNone && reg t .x 3 == 0x0800000000000001) = true := by
  decide +kernel

/-- FrescoStepsComplete. -/
def onFr (f : Context → Context) (l : List EngCmd) : State := { mapped (fun s => { s with channels := [(0, { Channel.reset with owner := some 0, ctx := [(0, f Context.reset)] })] }) with easels := [(0, { Easel.reset with frescoQ := l })] }
def frGo : EngCmd := { aCmd (some 0x10) (.reg 3) [0, 0, 0] with phase := phStart 0 }
def frState : EngCmd := aCmd (some 0x11) (.reg 3) [0, 0]
def frSpl : EngCmd := aCmd (some 0x12) (.reg 3) [0, 0]

/-- A hand whose leaf is being pre-empted. -/
def stoppingFr (c : EngCmd) : State :=
  { onFr id [c] with preempts := [(0, { by_ := 1, saved := false, time := 0, order := 60, leaf := some leaf0, image := Hand.reset, slot := none, copies := [], cmds := [], jobs := [] })] }

/-- An open window that owes its turn to a load which waited when it opened: context 0 holds the bank of 0x200010. -/
def owing : State :=
  let s := onFr (fun c => { c with hold := true, begun := true, state := .window, waited := [(6, 0)] }) []
  edit (fun h => { h with x := { h.x with ob := [obLoad] } }) s

theorem wit_fresco : memWf (onFr id [frGo]).mem = true ∧ frWaiting (onFr id [frGo]) (phStart 0) = (0, frGo) :: [] ∧ startReleased (onFr id [frGo]) frGo = true ∧
    windowOwes (onFr (fun c => { c with hold := true, begun := true, state := .window }) []) 0 = false ∧
    windowOwes owing 0 = true ∧ (waiters owing 0).any (fun x => (ctxOf owing 0).waited.contains x) = true ∧ cmdReady (onFr id [frState]) 0 .x 5 Tag.empty = true ∧
    (chanOf (onFr id [frSpl]) 0).owner = some 0 ∧ stopsLeaf (onFr (fun c => { c with state := .restoring, phase := 8 }) []) 0 none = false ∧
    stopsCmd (onFr id [frGo]) 0 .x (some leaf0) 5 = false ∧ stopsCmd (stoppingFr frGo) 0 .x (some leaf0) 5 = true ∧ frWaiting (stoppingFr frGo) (phStart 0) = (0, frGo) :: [] := by decide +kernel

/-- A drained context at its first row, and at its last; a restore at its first row, and at its last. -/
theorem test_spillRows : gives (exec (.frescoSpill 0) (onFr (fun c => { c with state := .draining, drained := true, phase := 1, acc := [(3, 9)] }) [])) (fun t => (ctxOf t 0).phase == 2 && memGet t.mem (spillPa 0 0 + 12) == 9) &&
    gives (exec (.frescoSpill 0) (onFr (fun c => { c with state := .draining, drained := true, phase := 9 }) [])) (fun t => (ctxOf t 0).state == .spilled && saveValid t 0) &&
    gives (exec (.frescoRestore 0) (onFr (fun c => { c with state := .restoring }) [])) (fun t => (ctxOf t 0).phase == 1 && (ctxOf t 0).state == .restoring) &&
    gives (exec (.frescoRestore 0) (onFr (fun c => { c with state := .restoring, phase := 8 }) [])) (fun t => (ctxOf t 0).state == .running) = true := by decide +kernel

theorem test_fresco : gives (exec (.jobStart 0) (onFr id [frGo])) (fun t => (ctxOf t 0).begun && reg t .x 3 == 0) &&
    gives (exec (.window 0 0) (onFr (fun c => { c with hold := true, begun := true, state := .window }) [])) (fun t => (ctxOf t 0).state == .running) &&
    gives (exec (.window 0 0) owing) (fun t => (ctxOf t 0).state == .window) &&
    gives (exec (.frescoCommand 0 0) (onFr (fun c => { c with mpc := 7, state := .running }) [frState])) (fun t => reg t .x 3 == 0x0020000000001C00) &&
    gives (exec (.frescoCommand 0 0) (onFr id [frSpl])) (fun t => (easelOf t 0).frescoQ == [] && (ctxOf t 0).state == .idle) = true := by decide +kernel

/-! ### The host, the supervisor, launches, the scheduler -/

def allReady : Word := 0xFFFFFFFFFFFFF
/-- Partition 0 with queue 0: a ring of 16 entries at 0x200000, completion ring at 0x208000, HEADVA 0x204000; TAILD 1. -/
def qDesc : BitVec 256 := BitVec.ofNat 256 (1 + 4 * 2 ^ 26 + 0x208000 * 2 ^ 64 + 0x204000 * 2 ^ 128 + 0x200000 * 2 ^ 192)
def aDelivery : Delivery := { part := 0, port := 0, rod := true, wdone := 0, open_ := false, tails := [], begun := [] }
def tailOf (v wcount : Nat) : BitVec 128 := BitVec.ofNat 128 (v * 2 ^ 64 + wcount * 2 ^ 96)
def onHost (tails : List (BitVec 128)) : State :=
  mapped (fun s => { s with parts := [(0, { mappedPart with queues := [0], pairs := [0], chans := [0, 1, 2, 3, 4, 5, 6, 7, 8] })], pkg := { s.pkg with ready := allReady }, queues := [(0, { HwQueue.reset with desc := qDesc, taild := 1 })], ctxs := [(3, { aDelivery with tails := tails })] })

theorem wit_host : ctxGet (onHost []) 4 = none ∧ (partOf (onHost []) 0).exists_ = true ∧ ctxGet (onHost []) 3 = some aDelivery ∧ portUp (onHost []) 0 = true ∧ ringOpen (onHost [tailOf 2 0]) 0 = true ∧ rangeOpen (onHost []) 0x200010 4 [pData] = true ∧ unitsOpen (onHost []) (rangeTables (onHost []) 0 0x200010 4) = true ∧ unitsOpen (onHost []) (rangeTables (onHost []) 0 0x40000000 4) = true ∧ mcUp (onHost []) = true ∧
    portUp { onHost [] with pkg := Package.reset } 0 = false ∧
    okIs (unitPages (onHost []) 0 false false true dataTypes (splitRange 0x200010 4)) [pData] = true ∧ okIs (unitPages (onHost []) 0 false true false dataTypes (splitRange 0x200010 4)) [pData] = true ∧
    errIs (unitPages (onHost []) 0 false false true dataTypes (splitRange 0x40000000 4)) (0x40000000, { cause := 5, reason := 2, level := 2 }) = true ∧ chanOpen (onHost []) .unit 0x200010 = true ∧
    fld (tailOf 2 0) 63 8 = 0 ∧ qEn qDesc = true ∧ qPart qDesc = 0 ∧ qHalted qDesc = false ∧ (0 - (tailOf 2 0).extractLsb' 96 32).toNat < 2 ^ 31 ∧ qLogN qDesc = 4 := by decide +kernel

theorem test_host : gives (exec (.hostRmaWrite 3 0x200010 ⟨[1, 2], true⟩) (onHost [])) (fun t => memRead t.mem 0x200010 2 == [1, 2] && (ctxGet t 3).map (·.wdone) == some 1) &&
    gives (exec (.hostRmaWrite 3 0x200010 ⟨[1, 2], false⟩) (onHost [])) (fun t => memRead t.mem 0x200010 2 == [1, 2] && (ctxGet t 3).map (fun c => (c.wdone, c.open_)) == some (0, true)) &&
    gives (exec (.hostRmaRead 3 0x1000 2) (onHost [])) (fun t => t.outbox == [.rmaRead 3 [0x01, 0x20]]) &&
    gives (exec (.tailMessage 3 0x5441494C (tailOf 2 0)) (onHost [])) (fun t => (ctxGet t 3).map (·.tails) == some [tailOf 2 0]) &&
    gives (exec (.ueAtomicRequest 3) (onHost [])) (fun t => t.outbox == [.atomicError 3]) &&
    gives (exec (.tailMessage 3 0x5441494D (tailOf 2 0)) (onHost [])) (fun t => (ctxGet t 3).map (·.tails) == some [] && tget 0 t.pkg.errs 3 == 1) = true := by decide +kernel

/-- A tail that moves TAILD, a stale one, one that overruns 16 entries. -/
theorem test_tails : gives (exec (.tailPresent ⟨3, false⟩) (onHost [tailOf 16 0])) (fun t => (queueOf t 0).taild == 16 && (ctxGet t 3).map (·.tails) == some []) &&
    gives (exec (.tailPresent ⟨3, false⟩) (onHost [tailOf 0 0])) (fun t => (queueOf t 0).taild == 1 && (queueOf t 0).stale == 1) &&
    gives (exec (.tailPresent ⟨3, false⟩) (onHost [tailOf 17 0])) (fun t => (queueOf t 0).taild == 1 && qHalted (queueOf t 0).desc) = true := by decide +kernel

/-- SupervisorRequestsComplete: a composition with everything in service. -/
def onConfig : State := { State.reset with pkg := { Package.reset with ready := allReady, config := some (BitVec.allOnes 4096) } }
theorem wit_composition : CompositionOk onConfig 1 [0] [0, 1, 2, 3, 4, 5, 6, 7] [5] 1024 128 :=
  ⟨by decide +kernel, by decide +kernel, by decide +kernel, by decide +kernel, by decide +kernel, by decide +kernel, by decide +kernel, by decide +kernel⟩

def twoParts : State := { onHost [] with parts := [(0, { mappedPart with queues := [0, 1], pairs := [0, 1], chans := [0, 1, 2, 3, 4, 5, 6, 7, 8] }), (1, { mappedPart with queues := [2], pairs := [2], chans := [9, 10, 11, 12, 13, 14, 15, 16] })] }
/-- A controller that is off. -/
theorem wit_mcOff : mcUp { onConfig with pkg := { onConfig.pkg with phase := 3 } } = false ∧ mcUp onConfig = true ∧ mcUp twoParts = true := by decide +kernel

theorem wit_supervisor : queueBad qDesc = false ∧ queueBad 0 = true ∧ qEn (queueOf onConfig 0).desc = false ∧ qRing qDesc ≠ qRing (queueOf onConfig 0).desc ∧
    ((5 : BitVec 32) - (queueOf (onHost []) 0).head).toNat ≤ 2 ^ qLogN qDesc ∧ ownerOf twoParts (.channel 8) = some 0 ∧ (partOf twoParts 1).exists_ = true ∧
    partRules (without (partOf twoParts 0) (.channel 8)) = true ∧ partRules (without (partOf twoParts 0) (.easelPair 1)) = true ∧ partRules (without (partOf twoParts 0) (.queue 1)) = true ∧
    partRules (withRes (partOf twoParts 1) (.channel 8)) = true ∧ partRules (withRes (partOf twoParts 1) (.counters 0 4)) = true ∧ ownerOf twoParts (.counters 0 0) = some 0 ∧
    partIdle twoParts 0 = true ∧ (((List.range 40).filter (fun i => i != 0)).map (fun i => swRlq (partOf State.reset i).sched)).sum + swRlq 0x00019908000003E8 ≤ 16384 ∧
    16384 < (((List.range 40).filter (fun i => i != 0)).map (fun i => swRlq (partOf State.reset i).sched)).sum + swRlq 0x0003E808000003E8 := by decide +kernel

theorem test_supervisor : gives (exec (.partitionComposition 1 [0] [0, 1, 2, 3, 4, 5, 6, 7] [5] 1024 128) onConfig) (fun t => (partOf t 1).exists_ && (easelOf t 1).owner == some 1 && (chanOf t 7).owner == some 1) &&
    gives (exec (.resourceReassignment (.channel 8) 1) twoParts) (fun t => (partOf t 1).chans.contains 8 && (chanOf t 8).owner == some 1) &&
    gives (exec (.schedulingWordWrite 0 0x0003E808000003E8) State.reset) (fun t => t.outbox == [.refused 6] && (partOf t 0).sched == 0x00019908000003E8) = true := by decide +kernel

/-- A conditional node: its word at 0x200010, no mask bits left out, c 5, CC 0 (R31). -/
def kernelNode : BitVec 512 := BitVec.ofNat 512 (2 ^ 351 + 3 * 2 ^ 128 + 4 * 2 ^ 192)
def ifNode : BitVec 512 := BitVec.ofNat 512 (4 + 0x200010 * 2 ^ 64 + (2 ^ 64 - 1) * 2 ^ 128 + 5 * 2 ^ 192)
def switchNode : BitVec 512 := BitVec.ofNat 512 (6 + 0x200010 * 2 ^ 64 + (2 ^ 64 - 1) * 2 ^ 128)
def loopNode : BitVec 512 := BitVec.ofNat 512 (5 + 0x200010 * 2 ^ 64 + (2 ^ 64 - 1) * 2 ^ 128 + 5 * 2 ^ 192)
def onTask (n : BitVec 512) (f : Task → Task) (word : Nat) : State :=
  { onHost [] with launches := [(7, { aLaunch [n] (f aTask) with levels := [1], header := BitVec.ofNat 512 (0x280000 * 2 ^ 448) })], mem := memWrite tables 0x200010 (bytesOfNat 8 word) }

def isWord (r : WordRead) (v : Word) : Bool :=
  match r with
  | .word w _ _ _ => w == v
  | .wait _ => false
  | .fail _ _ => false

theorem wit_control : launchOf (onTask ifNode id 5) 7 = some { aLaunch [ifNode] aTask with levels := [1], header := BitVec.ofNat 512 (0x280000 * 2 ^ 448) } ∧ schedUp (onTask ifNode id 5) = true ∧
    isWord (conditionWord (onTask ifNode id 5) { aLaunch [ifNode] aTask with levels := [1] } ifNode) 5 = true ∧ selector (ndKind ifNode) = true ∧ ndKind ifNode = 4 ∧ ndKind switchNode = 6 ∧ ndKind loopNode = 5 ∧
    conditionHolds 5 5 0 = true ∧ conditionHolds 6 5 0 = false ∧ schedEnds (onTask ifNode id 5) = true := by decide +kernel

theorem test_control : gives (exec (.conditionEvaluation 7 ⟨0, false⟩) (onTask ifNode id 5)) (fun t => ((launchOf t 7).map (fun l => l.tasks.map (·.sel))) == some [some 1]) &&
    gives (exec (.conditionEvaluation 7 ⟨0, true⟩) (onTask ifNode id 5)) (fun t => (launchOf t 7).map (fun l => (l.status, l.detail)) == some (7, 13)) &&
    gives (exec (.conditionEvaluation 7 ⟨0, false⟩) (onTask ifNode id 6)) (fun t => ((launchOf t 7).map (fun l => l.tasks.map (·.sel))) == some [some 0]) &&
    gives (exec (.conditionEvaluation 7 ⟨0, false⟩) (onTask switchNode id 3)) (fun t => ((launchOf t 7).map (fun l => l.tasks.map (·.sel))) == some [some 8]) &&
    gives (exec (.conditionEvaluation 7 ⟨0, false⟩) (onTask loopNode id 6)) (fun t => ((launchOf t 7).map (fun l => l.tasks.map (fun x => (x.exited, x.sel, x.iters)))) == some [(true, some 1, 0)]) = true := by
  decide +kernel

/-- NODE_COMPLETION of a copy node whose copy is done; a launch whose one task has ended writes its record at 0x280000. -/
def ended : State := onTask copyNode (fun t => { t with retired := [0], state := .complete }) 0
/-- The same launch once the body of its record is written, at COMPVA, and at its queue's ring. -/
def halfPosted (fallback : Bool) : State :=
  { ended with launches := ended.launches.map (fun e => (e.1, { e.2 with posted := some (fallback, 0x280000, 0x80 :: List.replicate 63 0) })) }
def written (r : Except (Nat × XlFault) State) : Bool :=
  match r with
  | .ok _ => true
  | .error _ => false
theorem wit_ends : taskDone (onTask copyNode (fun t => { t with retired := [0] }) 0) { aLaunch [copyNode] aTask with levels := [1] } 7 0 { aTask with retired := [0] } = true ∧
    ((launchOf ended 7).map (fun l => l.tasks.all taskEnded && l.units == [])) = some true ∧
    written (unitWrite ended 0 false dataTypes 0x280008 ((recordBytes 0 0 0 0 0 0 0 0 0 0 0).drop 8)) = true ∧ ((launchOf ended 7).map (fun l => recordOpen ended l)) = some true ∧
    written (unitWrite (halfPosted true) 0 false dataTypes 0x280000 (List.replicate 8 0)) = true ∧ ((launchOf (halfPosted true) 7).map (fun l => (recordOpen (halfPosted true) l, l.posted.isSome))) = some (true, true) ∧
    schedEnds ended = true ∧ [0, 1, 2, 3].all (fun d => !anyDirty ended d) = true := by decide +kernel

theorem test_ends : gives (exec (.nodeCompletion 7 0) (onTask copyNode (fun t => { t with retired := [0] }) 0)) (fun t => ((launchOf t 7).map (fun l => l.tasks.map (·.state))) == some [.complete]) &&
    gives (exec (.launchCompletionRecord ⟨7, []⟩) ended) (fun t => ((launchOf t 7).map (fun l => l.posted.isSome)) == some true && memRead t.mem 0x280000 8 == List.replicate 8 0) &&
    gives (exec (.launchCompletionRecord ⟨7, []⟩) (halfPosted false)) (fun t => (launchOf t 7).isNone && memRead t.mem 0x280000 1 == [0x80] && (queueOf t 0).count == 0) &&
    gives (exec (.launchCompletionRecord ⟨7, []⟩) (halfPosted true)) (fun t => (launchOf t 7).isNone && (queueOf t 0).count == 1) = true := by decide +kernel

theorem test_queueHalts : gives (exec (.queueEntryAccept ⟨0, []⟩) { onHost [] with parts := [(0, { mappedPart with queues := [0], root := 0x5000 })] }) (fun t => qHalted (queueOf t 0).desc && (queueOf t 0).head == 0) = true := by
  decide +kernel

/-- A kernel node whose X starts at line 0, with windows of one unit in each buffer; a launch of one leaf of it, whose record
lies at 0x210000, tables at 0x220000, code at 0x240000, completion record at 0x280000 (R17 to R23). -/
def oneLeaf : BitVec 512 := BitVec.ofNat 512 (3 * 2 ^ 128 + 4 * 2 ^ 192 + 2 ^ 264 + 2 ^ 280 + 2 ^ 296 + 2 ^ 351)
def aHeader : BitVec 512 := BitVec.ofNat 512 (0x4B5A4C44 + 2 ^ 64 + 2 ^ 104 + 2 ^ 112 + 2 ^ 160 + 0x240000 * 2 ^ 192 + 0x220000 * 2 ^ 256 + 0x280000 * 2 ^ 448)
def onQueue : State :=
  { onHost [] with hands := [], mem := [(0x200018, 8, 0x210000), (0x210000, 64, aHeader.toNat), (0x210040, 8, 1), (0x220000, 64, oneLeaf.toNat)].foldl (fun m c => memWrite m c.1 (bytesOfNat c.2.1 c.2.2)) tables }
def readOk (r : Except (Nat × XlFault) (List Byte)) (f : List Byte → Bool) : Bool :=
  match r with
  | .ok bs => f bs
  | .error _ => false

theorem wit_accept : schedUp onQueue = true ∧ fld onQueue.pkg.ready 34 19 ≠ 0 ∧ (queueOf onQueue 0).head ≠ (queueOf onQueue 0).taild ∧
    readOk (unitRead onQueue 0 false dataTypes 0x200000 32) (fun eb => wordAt eb 0 == 0 && wordAt eb 1 == 0 && wordAt eb 3 == 0x210000) = true ∧
    readOk (unitRead onQueue 0 false dataTypes 0x210000 128) (fun hb => BitVec.ofNat 512 (natOfBytes (hb.take 64)) == aHeader && (List.range 8).map (fun i => wordAt hb (8 + i)) == 1 :: List.replicate 7 0) = true ∧
    launchFault onQueue 0 (readTables onQueue 0 0x210000 aHeader (1 :: List.replicate 7 0)).1 (1 :: List.replicate 7 0) (readTables onQueue 0 0x210000 aHeader (1 :: List.replicate 7 0)).2 = none ∧
    rlqUsed onQueue 0 + 4 * hdNnode aHeader ≤ swRlq (partOf onQueue 0).sched ∧ acceptOpen onQueue 0 = true := by decide +kernel

theorem test_accept : gives (exec (.queueEntryAccept ⟨0, [0]⟩) onQueue) (fun t => qHalted (queueOf t 0).desc && t.launches == []) && gives (exec (.queueEntryAccept ⟨0, []⟩) onQueue) (fun t => (queueOf t 0).head == 1 && ((launchOf t 100).map (fun l => (l.nodes, l.tasks.map (·.state)))) == some ([oneLeaf], [.ready])) = true := by
  decide +kernel

/-- The launch accepted, its task ready; its leaf placed on hand 0; resident there; a gang of two on hands 0 and 1. -/
def theLaunch (lv : List Word) (t : Task) : Launch := { aLaunch [oneLeaf] { t with order := 101 } with header := aHeader, levels := lv }
def aSlot (st : SlotState) (gang : Option (Nat × Nat)) : Slot := { launch := 7, task := 0, leaf := 0, windows := ndWindows oneLeaf 0, state := st, gang := gang, start := none, resume := false, order := 50 }
def sched (lv : List Word) (t : Task) (sl : Table (List Slot)) : State := { onQueue with launches := [(7, theLaunch lv t)], slots := sl }
def readyTask : Task := { aTask with state := .ready }
def isPlan (r : Option Plan) (g : Nat) : Bool :=
  match r with
  | some p => p.1 == [(0, g)]
  | none => false

theorem wit_dispatch : candidates (retryExchanges (sched [1] readyTask []) 0) 0 = [.task 0 0 7 0] ∧ isPlan (planNext (retryExchanges (sched [1] readyTask []) 0) [] (theLaunch [1] readyTask) 7 0 { readyTask with order := 101 }) 0 = true ∧
    waitingSlot (sched [1] aTask [(0, [aSlot .placed none])]) 0 = some (aSlot .placed none) ∧ blocked (sched [1] aTask [(0, [aSlot .placed none])]) 0 (ndWindows oneLeaf 0) = false ∧
    ndPref oneLeaf = 0 ∧ waitingSlot (sched [1] aTask [(0, [aSlot .resident none])]) 0 = some (aSlot .resident none) ∧ bindable (sched [1] aTask [(0, [aSlot .resident none])]) 0 (aSlot .resident none) = true ∧
    (partOf (sched [1] aTask []) 0).stops = [] ∧ (handOf onQueue 0).bound = none := by decide +kernel

/-- A leaf with one prefetch, whose list of one entry, with zero bits z, lies at 0x230000 and names the record at 0x238000; one whose list is
not mapped; one that resumes. -/
def listNode (va : Nat) : BitVec 512 := oneLeaf ||| BitVec.ofNat 512 (2 ^ 8 + va * 2 ^ 448)
def prefSlot (resume : Bool) : Slot := { aSlot .placed none with resume := resume }
def onPref (va z : Nat) (resume : Bool) : State :=
  let s := sched [1] aTask [(0, [prefSlot resume])]
  { s with
    launches := [(7, { theLaunch [1] aTask with nodes := [listNode va] })]
    mem := [(0x230000, 32, 0x238000 * 2 ^ 192 + z), (0x238000, 128, tsr.toNat)].foldl (fun m c => memWrite m c.1 (bytesOfNat c.2.1 c.2.2)) s.mem }
def readPages (s : State) : List Page :=
  match unitPages s 0 false true false dataTypes (splitRange 0x230000 32) with
  | .ok ps => ps
  | .error _ => []
def fetched (z : Nat) : Option State :=
  let s := setSlot (onPref 0x230000 z false) 0 { prefSlot false with state := .fetching }
  let r := spanRead ((splitRange 0x230000 32).foldl (fun s t => walkTouched s 0 t.va) s) 0 0 (readPages (onPref 0x230000 z false)) 0x230000 32
  prefetched 0 0 (prefSlot false) r.1 r.2 (List.range 1)

theorem wit_prefetch : waitingSlot (onPref 0x230000 0 false) 0 = some (prefSlot false) ∧ (handOf (onPref 0x230000 0 false) 0).bound = none ∧ stopping (onPref 0x230000 0 false) 0 = false ∧
    waitingSlot (onPref 0x230000 0 true) 0 = some (prefSlot true) ∧ blocked (onPref 0x230000 0 false) 0 (prefSlot false).windows = false ∧ reserved (onPref 0x230000 0 false) 0 = false ∧
    ndPref (listNode 0x230000) = 1 ∧ readPages (onPref 0x230000 0 false) = [pData] ∧ listOpen (onPref 0x230000 0 false) 0 (prefSlot false) 0x230000 [pData] 32 = true ∧ (fetched 0).isSome = true ∧
    errIs (unitPages (onPref 0x40000000 0 false) 0 false true false dataTypes (splitRange 0x40000000 32)) (0x40000000, { cause := 5, reason := 2, level := 2 }) = true := by decide +kernel

theorem test_prefetch : gives (exec (.prefetch ⟨0, false⟩) (onPref 0x230000 0 false)) (fun t => (slotsOf t 0).map (·.state) == [.fetching] && (easelOf t 0).copyQ.map (fun c => (c.src, c.total)) == [(0x200100, 32)]) &&
    gives (exec (.prefetch ⟨0, true⟩) (onPref 0x230000 0 false)) (fun t => slotsOf t 0 == [] && ((launchOf t 7).map (fun l => l.tasks.map (·.status))) == some [3]) &&
    gives (exec (.prefetch ⟨0, false⟩) (onPref 0x230000 1 false)) (fun t => slotsOf t 0 == [] && ((launchOf t 7).map (fun l => l.tasks.map (·.status))) == some [3]) &&
    gives (exec (.prefetch ⟨0, false⟩) (onPref 0x230000 0 true)) (fun t => (slotsOf t 0).map (·.state) == [.resident]) = true := by decide +kernel

theorem test_dispatch : gives (exec (.dispatchChoice 0) (sched [1] readyTask [])) (fun t => (slotsOf t 0).map (fun x => (x.launch, x.leaf, x.state)) == [(7, 0, .placed)]) &&
    gives (exec (.prefetch ⟨0, false⟩) (sched [1] aTask [(0, [aSlot .placed none])])) (fun t => (slotsOf t 0).map (·.state) == [.resident]) &&
    gives (exec (.leafBind 0) (sched [1] aTask [(0, [aSlot .resident none])])) (fun t => (sqOf t 0 .x).status == .run && reg t .x 1 == 3 && reg t .x 2 == 4 && (sqOf t 0 .l).status == .off) = true := by
  decide +kernel

/-- A level of two leaves with GANG set: both resident, before the start is chosen and after it has come. -/
def gangSlots (st : Option Nat) : Table (List Slot) := [(0, [{ aSlot .resident (some (1, 0)) with start := st }]), (1, [{ aSlot .resident (some (1, 0)) with start := st, leaf := 1, windows := [(1, 1), (1, 1), (1, 1)], order := 51 }])]
def onGang (st : Option Nat) : State := { sched [1, 0x88000002] aTask (gangSlots st) with time := 500 }
theorem wit_gang : (aSlot .resident (some (1, 0))).gang.isSome = true ∧ (onGang none).slots = gangSlots none ∧ 64 ≤ (onGang (some 64)).time.toNat ∧
    (gangSlots (some 64)).all (fun e => e.2.all (fun x => bindable (onGang (some 64)) e.1 x)) = true := by decide +kernel

theorem test_gang : gives (exec (.gangStart 7 50) (onGang none)) (fun t => (slotsOf t 0).map (·.start) == [some 564] && (slotsOf t 1).map (·.start) == [some 564]) &&
    gives (exec (.gangStart 7 50) (onGang (some 64))) (fun t => (handOf t 0).bound.isSome && (handOf t 1).bound.isSome) = true := by decide +kernel

/-- R60: queue 0 has PRIO 20 and CEIL 20, and its head has waited; hand 0 runs a leaf of PRIO 0 whose windows lie apart and has no free entry; the
other hands of the pair hold a leaf that is not yet bound. -/
def far : List (Nat × Nat) := [(9, 1), (9, 1), (9, 1)]
def low : Bound := { launch := 8, task := 0, leaf := 0, codeBase := 0, codeLen := 1, windows := far }
def lowSlot : Slot := { launch := 8, task := 0, leaf := 0, windows := far, state := .bound, gang := none, start := none, resume := false, order := 40 }
def urgent : State :=
  { sched [1] readyTask ((0, [lowSlot, { lowSlot with order := 39 }]) :: (List.range 7).map (fun g => (g + 1, [lowSlot, { aSlot .resident none with order := 60 + g }]))) with time := 1000000000, hands := (List.range 8).map (fun g => (g, { hand0 with bound := some low })), queues := [(0, { HwQueue.reset with desc := qDesc ||| BitVec.ofNat 256 (20 * 2 ^ 35 + 20 * 2 ^ 30), taild := 1 })] }

theorem wit_priority : schedUp urgent = true ∧ swGap (partOf urgent 0).sched ≠ 0 ∧ urgent.preempts = [] ∧ candidates urgent 0 = [.task 0 20 7 0] ∧
    readyTask.lastPlaced + 1000 * swAge (partOf urgent 0).sched ≤ urgent.time.toNat ∧ (planNext urgent [] (theLaunch [1] readyTask) 7 0 { readyTask with order := 101 }).isNone = true ∧
    victims urgent 0 20 oneLeaf = [0] ∧ gangHands urgent 0 = [0] ∧ isPlan (planNext urgent [0] (theLaunch [1] readyTask) 7 0 { readyTask with order := 101 }) 0 = true := by decide +kernel

theorem test_priority : gives (exec (.priorityPreemption 0) urgent) (fun t => t.preempts.map (fun e => (e.1, e.2.by_, e.2.saved)) == [(0, 0, false)] && !canIssue t 0 .x) = true := by decide +kernel

/-! ### The end of a leaf, observation, power, bring-up -/

def boundTask : Task := { aTask with placed := 1 }
/-- Hand 0 runs the one leaf of launch 7, its sequencers halted, or running. -/
def onLeaf (st : SeqStatus) (f : State → State) : State :=
  f { sched [1] boundTask [(0, [{ aSlot .bound none with windows := leaf0.windows }])] with parts := [(0, { mappedPart with queues := [0], pairs := [0], chans := [0], saveVa := some 0x300000 })], hands := [(0, { hand0 with x := { run0 with status := st, regs := [(4, 9)] }, l := Seqr.reset, c := Seqr.reset, s := Seqr.reset })] }
def aPreempt (by_ : Nat) (saved : Bool) : Preempt := { by_ := by_, saved := saved, time := 0, order := 60, leaf := some leaf0, image := handOf (onLeaf .run id) 0, slot := none, copies := [], cmds := [], jobs := [] }
def saving : State := onLeaf .run (fun s => { s with preempts := [(0, aPreempt 1 false)] })

theorem wit_leaf : (handOf (onLeaf .halted id) 0).bound = some leaf0 ∧ launchOf (onLeaf .halted id) 7 = some (theLaunch [1] boundTask) ∧ boundTask.state = .running ∧
    allSeqs.all (fun q => (sqOf (onLeaf .halted id) 0 q).status != .run) = true ∧ workOver (onLeaf .halted id) 0 (some leaf0) = true ∧ stopping (onLeaf .halted id) 0 = false ∧
    (handOf (onLeaf .run id) 0).ending = none ∧ (onLeaf .run id).preempts = [] ∧ gangHands (onLeaf .run id) 0 = [0] ∧
    saving.preempts.find? (fun e => e.1 == 0 && !e.2.saved) = some (0, aPreempt 1 false) ∧ quiet saving 0 (some leaf0) = true ∧ (easelOf saving 0).mural.spill = none ∧
    (easelOf saving 0).mural.lease = .free ∧ ctxsOf saving 0 (some leaf0) (fun c => ctxLive c && !c.begun) = [] ∧ mcUp saving = true ∧ (partOf saving (handPart saving 0)).saveVa = some 0x300000 := by decide +kernel

/-- The save area of hand 0 is mapped, whatever the bytes of the context are. -/
theorem wit_saveArea : (splitRange (0x300000 + 0x34000 * 0) 4096).all (fun t => okIs (walk saving 0 t.va) pData && (pageFault pData 0 true false true [.normal] t.va t.len).isNone) = true := by decide +kernel

theorem wit_savedLeaf : (handOf { onLeaf .run id with hands := [], preempts := [(0, aPreempt 1 true)] } 0).bound = none ∧
    ({ onLeaf .run id with hands := [], preempts := [(0, aPreempt 1 true)] } : State).preempts.find? (fun e => e.1 == 0 && e.2.saved) = some (0, aPreempt 1 true) := by decide +kernel

/-- A saved leaf that has been aborted and whose copies are done. -/
def abortedSaved : State :=
  { onLeaf .run id with hands := [], preempts := [(0, { aPreempt 1 true with image := { handOf (onLeaf .run id) 0 with ending := some 6 } })] }

theorem wit_savedOver : (savedOver abortedSaved 0).map (·.leaf) = some (some leaf0) ∧ unitOpen saving 0 0x300000 0x34000 = true := by decide +kernel

theorem test_savedAbort : gives (exec (.leafAbort 0 false) { abortedSaved with preempts := [(0, aPreempt 1 true)] }) (fun t => (savedOver t 0).isSome && ((launchOf t 7).map (fun l => l.tasks.map (·.retired))) == some [[]]) &&
    gives (exec (.leafRetire 0) abortedSaved) (fun t => t.preempts == [] && (launchOf t 7).map (fun l => (l.status, l.tasks.map (·.retired))) == some (6, [[0]])) = true := by decide +kernel

theorem test_leafRetire : gives (exec (.leafRetire 0) (onLeaf .halted id)) (fun t => (handOf t 0).bound == none && ((launchOf t 7).map (fun l => l.tasks.map (·.retired))) == some [[0]] && slotsOf t 0 == []) = true := by
  decide +kernel

theorem test_leafAbort : gives (exec (.leafAbort 0 false) (onLeaf .run id)) (fun t => (handOf t 0).ending == some 6 && allSeqs.all (fun q => (sqOf t 0 q).status != .run)) &&
    gives (exec (.supervisorPreemptionRequest 0) (onLeaf .run id)) (fun t => t.preempts.map (fun e => (e.1, e.2.by_, e.2.saved)) == [(0, 1, false)] && reg t .x 4 == 9 && !canIssue t 0 .x) = true := by decide +kernel

/-- ObservationStepsComplete. -/
def aCut (save : Bool) : Cut := { launch := 7, time := 40, stop := 2, save := save, frozen := [], asked := [] }
def onCut (save : Bool) (tm : Word) : State := onLeaf .run (fun s => { s with cuts := [aCut save], time := tm })
/-- A hand frozen at TIME 50 whose X has waited since 45, at TIME 90. -/
def frozenCut : State :=
  { onCut false 90 with cuts := [{ aCut false with frozen := [(0, 50)] }], hands := (onCut false 90).hands.map (fun e => (e.1, { e.2 with x := { e.2.x with since := some 45 } })) }
theorem wit_resumed : frozenCut.cuts.filter (fun c => c.launch == 7) = [{ aCut false with frozen := [(0, 50)] }] ∧ launchHands frozenCut 7 = [0] ∧
    frozenCut.preempts = [] ∧ frozenCut.cuts.all (cutMade frozenCut) = true ∧ (onCut false 90).cuts.all (fun c => !cutMade (onCut false 90) c) = true ∧ mcUp frozenCut = true := by decide +kernel
theorem test_stopResume : gives (exec (.stopResume 7) frozenCut) (fun t => t.cuts == [] && (sqOf t 0 .x).since == some 95) &&
    gives (exec (.stopResume 7) (onCut false 90)) (fun t => t.cuts == [aCut false]) = true := by decide +kernel

theorem wit_observe : (settingRule (.leaseBound 5) (partOf State.reset 0)).2 = true ∧ (settingRule (.rootTable 5) (partOf State.reset 0)).2 = false ∧
    fld (1 : BitVec 128) 3 1 ≤ 3 ∧ fld (1 : BitVec 128) 127 100 = 0 ∧ fld (1 : BitVec 128) 15 4 = 0 ∧ partHands State.reset 0 = [] ∧ 3 < fld (8 : BitVec 128) 3 1 ∧
    cutOf (onCut false 50) 0 = some (aCut false) ∧ (onCut false 50).preempts = [] ∧ (aCut false).time ≤ (onCut false 50).time.toNat ∧ (onCut false 30).time.toNat < (aCut false).time := by decide +kernel

def onLatch : State := { State.reset with time := 5000000000, pkg := { Package.reset with ready := 1, latches := [7], counters := [(3, 8)] } }
def guestPart (m : BitVec 7) : State := { onLatch with parts := [(0, { mappedPart with gmask := m, qshift := 2, pairs := [0] })], pkg := { onLatch.pkg with shadow := [(3, 10)] } }
theorem wit_latch : onLatch.pkg.latches.find? (fun w => decide (w.toNat ≤ onLatch.time.toNat)) = some 7 ∧ bit onLatch.pkg.ready 0 = true ∧
    onLatch.pkg.latchAt + 1000 * onLatch.pkg.lper ≤ onLatch.time.toNat ∧ bit (partOf (guestPart 1) 0).gmask 0 = true ∧ ownsUnit (guestPart 1) 0 0 0 = true ∧ ownsUnit (guestPart 1) 0 0 40 = false ∧
    bit (partOf (guestPart 0) 0).gmask 0 = false ∧ mcUp onLatch = true ∧ mcUp (guestPart 1) = true ∧ mcUp (onCut true 50) = true ∧ (aCut true).asked.contains 0 = false := by decide +kernel

theorem test_observe : gives (exec (.cutFreeze 0) (onCut false 50)) (fun t => t.cuts.map (·.frozen) == [[(0, 50)]] && !canIssue t 0 .x && reg t .x 4 == 9) &&
    gives (exec .latch onLatch) (fun t => t.pkg.latchT == 7 && t.pkg.latchNo == 1 && tget 0 t.pkg.shadow 3 == 8) &&
    gives (exec (.guestCounterRead 0 0 0 3) (guestPart 1)) (fun t => t.outbox == [.counter 0 8 0 0]) && gives (exec (.mcRegisterWrite 0 (.rootTable 5)) State.reset) (fun t => t.outbox == [.refused 11]) = true := by
  decide +kernel

/-- PowerStepsComplete: a die at 16 and at 12; a channel in each state, idle for a microsecond. -/
def onPower (k : Nat) (p : ChanPower) (tm : Word) : State := { State.reset with time := tm, dies := [(0, { Die.reset with k := k })], channels := [(0, { Channel.reset with power := p })] }
/-- A channel in a power state for which an access has waited a time. -/
def knocked (p : ChanPower) (ns : Nat) : State :=
  { onPower 16 p (BitVec.ofNat 64 (5000 + ns)) with channels := [(0, { Channel.reset with power := p, wake := some 5000 })] }
theorem wit_power : wakeDue (knocked .powerDown 30) 0 30 = true ∧ wakeDue (knocked .powerDown 29) 0 30 = false ∧ wakeDue (knocked .selfRefresh 2000) 0 2000 = true ∧
    wakeDue (knocked .selfRefresh 1999) 0 2000 = false ∧ (dieOf (onPower 12 .active 1000) 0).k = 12 ∧
    atBoundary (onPower 12 .active 1000) (dieOf (onPower 12 .active 1000) 0) = true ∧ atBoundary (onPower 12 .active 1001) (dieOf (onPower 12 .active 1001) 0) = false ∧ mcUp (onPower 16 .active 0) = true := by decide +kernel

theorem test_power : gives (exec (.supplySag 0) (onPower 16 .active 1000)) (fun t => (dieOf t 0).k == 15 && (dieOf t 0).kTime == 1000) && gives (exec (.supplySag 0) (onPower 12 .active 20)) (fun t => (dieOf t 0).k == 12) &&
    gives (exec (.supplyRecoveryStep 0) (onPower 12 .active 1000)) (fun t => (dieOf t 0).k == 13) && gives (exec (.powerDownEntry 0) (onPower 16 .active 1000)) (fun t => (chanOf t 0).power == .powerDown) &&
    gives (exec (.powerDownEntry 0) (onPower 16 .active 999)) (fun t => (chanOf t 0).power == .active) && gives (exec (.powerDownExit 0) (onPower 16 .powerDown 1000)) (fun t => (chanOf t 0).power == .powerDown) &&
    gives (exec (.powerDownExit 0) (knocked .powerDown 30)) (fun t => (chanOf t 0).power == .active) && gives (exec (.powerDownExit 0) (knocked .powerDown 29)) (fun t => (chanOf t 0).power == .powerDown) &&
    gives (exec (.selfRefreshRequest 0) (onPower 16 .powerDown 1000)) (fun t => (chanOf t 0).power == .selfRefresh) && gives (exec (.selfRefreshExit 0) (knocked .selfRefresh 2000)) (fun t => (chanOf t 0).power == .active) &&
    decide (liveOf (onPower 16 .active 1000) 0 = []) = true := by decide +kernel

/-- SuspendAndResumeComplete: each phase; the digest of an image is the controller's function of it, whatever its value. -/
def inPhase (n : Nat) (d : Option (BitVec 256)) : State := { State.reset with time := 1000000000, pkg := { Package.reset with phase := n, digest := d } }
theorem wit_resume : (inPhase 4 (some (Config.sm3 [1]))).pkg.digest = some (Config.sm3 [1]) ∧ (inPhase 4 none).pkg.digest ≠ some (Config.sm3 [1]) ∧ quiesced (inPhase 1 none) = true ∧
    (inPhase 1 none).pkg.phaseAt + 200000000 ≤ (inPhase 1 none).time.toNat := ⟨rfl, (by intro h; cases h), by decide +kernel, by decide +kernel⟩

/-- A resume whose functions are not ready again; with a channel in RETENTION; with a job to restore; with nothing left to do. -/
def resuming (f : State → State) : State := f (inPhase 4 (some (Config.sm3 [1])))
def spilledJob : State :=
  resuming (fun s => { s with channels := [(0, { Channel.reset with ctx := [(0, { Context.reset with state := .spilled, spiller := 3 })] })] })
def retained : State := resuming (fun s => { s with channels := [(0, { Channel.reset with power := .retention })] })
theorem wit_retained : retained.pkg.phase = 4 ∧ retained.pkg.ready &&& retained.pkg.readyWas = retained.pkg.readyWas ∧ retained.pkg.digest = some (Config.sm3 [1]) ∧
    (∃ c ∈ retained.channels, c.2.power = .retention) := ⟨rfl, rfl, rfl, (0, { Channel.reset with power := .retention }), by decide +kernel, rfl⟩
theorem wit_resuming : (let s := resuming (fun s => { s with pkg := { s.pkg with readyWas := 1 } }); s.pkg.ready &&& s.pkg.readyWas ≠ s.pkg.readyWas) ∧
    (resuming id).pkg.ready &&& (resuming id).pkg.readyWas = (resuming id).pkg.readyWas ∧ (resuming id).channels = [] ∧ (wakeAll spilledJob).channels ≠ spilledJob.channels ∧ wakeAll (resuming id) = resuming id ∧
    reinstateAll (resuming id) (heldFor (resuming id) 3 (fun _ => true)) = some (resuming id) ∧ heldFor (resuming id) 3 (fun _ => true) = [] ∧ (resuming id).pkg.rejected = false :=
  ⟨by decide +kernel, rfl, rfl, by decide +kernel, rfl, rfl, rfl, rfl⟩

theorem test_suspend : gives (exec (.suspendRequest 9) (onLeaf .run id)) (fun t => t.pkg.phase == 1 && t.pkg.epoch == 9 && collPaused t 0 && t.preempts.map (fun e => (e.1, e.2.by_)) == [(0, 3)]) &&
    gives (exec (.suspendRequest 9) (inPhase 5 none)) (fun t => t.outbox == [.refused 14]) && gives (exec .suspendSave (inPhase 1 none)) (fun t => t.pkg.phase == 2) && gives (exec .suspendSave (inPhase 2 none)) (fun t => t.pkg.phase == 3 && (chanOf t 383).power == .retention) &&
    gives (exec .quiesceLimitExpiry { onLeaf .run id with time := 200000000, pkg := { Package.reset with phase := 1 } }) (fun t => (handOf t 0).bound == none) &&
    gives (exec (.resumeRequest 5 [1]) (inPhase 3 none)) (fun t => t.pkg.phase == 4) && gives (exec (.resumeRequest 5 [1]) (inPhase 4 none)) (fun t => t.pkg.phase == 5) && gives (exec .failureAcknowledge (inPhase 5 none)) (fun t => t.pkg.phase == 0) = true := by decide +kernel

/-- BringUpCompletes: whether a signature is valid is the controller's function; one of the two clauses holds of every image. -/
def inService : State := { State.reset with pkg := { Package.reset with firmware := true, config := some (BitVec.allOnes 4096) } }
def record0 : BitVec 4096 := BitVec.ofNat 4096 (0x4B5A4352 + 2 ^ 32 + 1000 * 2 ^ 672)
theorem wit_bringUp (fw : List Byte) (sig : BitVec 512) : State.reset.pkg.firmware = false ∧ (Config.sm2Valid Config.vendorKey (Config.sm3 fw) sig = true ∨ Config.sm2Valid Config.vendorKey (Config.sm3 fw) sig = false) ∧
    inService.pkg.firmware = true ∧ mcUp inService = true ∧ mcUp { inService with pkg := { inService.pkg with rejected := true } } = false ∧ bit (BitVec.allOnes 4096) (640 + (20 - 19)) = true ∧ fld record0 31 0 = 0x4B5A4352 ∧ fld record0 63 32 = 1 ∧ fld record0 671 656 = 0 ∧ fld record0 687 672 = 1000 ∧
    fld record0 767 688 = 0 ∧ fld record0 3583 1792 = 0 := by
  refine ⟨rfl, ?_, by decide +kernel⟩
  cases Config.sm2Valid Config.vendorKey (Config.sm3 fw) sig <;> simp

theorem test_bringUp : gives (exec (.selfTestPass 20) inService) (fun t => bit t.pkg.ready 20) && gives (exec (.selfTestPass 20) State.reset) (fun t => !bit t.pkg.ready 20) = true := by decide +kernel

end Sys2Proof.Tests
end

section
/-! What the accesses of the device's units leave alone (R311, R352, R358), translation among it, and what a launch's number reads
after an update of its launch. -/

namespace Sys2Proof.Machine

/-! ### Accesses at the channels -/

/-- What an access at the channels, taken or made to wait, may change of a state: the channels, but not their owners, and the
counters. -/
def TouchesChannels (s t : State) : Prop :=
  ∃ cs ks, t = { s with channels := cs, pkg := { s.pkg with counters := ks } } ∧ ∀ c, (chanOf t c).owner = (chanOf s c).owner

namespace TouchesChannels

theorem refl (s : State) : TouchesChannels s s := ⟨_, _, rfl, fun _ => rfl⟩

theorem trans {s t u : State} (h : TouchesChannels s t) (k : TouchesChannels t u) : TouchesChannels s u := by
  obtain ⟨_, _, rfl, ho⟩ := h
  obtain ⟨_, _, rfl, ko⟩ := k
  exact ⟨_, _, rfl, fun c => (ko c).trans (ho c)⟩

theorem foldl {α : Type} {f : State → α → State} (h : ∀ s x, TouchesChannels s (f s x)) (l : List α) (s : State) :
    TouchesChannels s (l.foldl f s) := by
  induction l generalizing s with
  | nil => exact refl s
  | cons x r ih => exact (h s x).trans (ih _)

variable {s t : State} (h : TouchesChannels s t)
include h

theorem mem : t.mem = s.mem := by obtain ⟨_, _, rfl, -⟩ := h; rfl
theorem parts : t.parts = s.parts := by obtain ⟨_, _, rfl, -⟩ := h; rfl
theorem queues : t.queues = s.queues := by obtain ⟨_, _, rfl, -⟩ := h; rfl
theorem launches : t.launches = s.launches := by obtain ⟨_, _, rfl, -⟩ := h; rfl
theorem time : t.time = s.time := by obtain ⟨_, _, rfl, -⟩ := h; rfl
theorem nextId : t.nextId = s.nextId := by obtain ⟨_, _, rfl, -⟩ := h; rfl

end TouchesChannels

theorem touches_modChan (s : State) (c : Nat) {f : Channel → Channel} (hf : ∀ x, (f x).owner = x.owner) :
    TouchesChannels s (modChan s c f) := by
  refine ⟨_, s.pkg.counters, rfl, fun c' => ?_⟩
  simp only [chanOf, modChan, tget_tput]
  split
  · next e => rw [hf, e]
  · rfl

theorem touches_count (s : State) (gr u i n : Nat) : TouchesChannels s (count s gr u i n) := ⟨s.channels, _, rfl, fun _ => rfl⟩

theorem touches_modGroup (s : State) (pa : Nat) (f : Context → Context) : TouchesChannels s (modGroup s pa f) :=
  touches_modChan s _ fun _ => rfl

theorem touches_wakeChan (s : State) (pa : Nat) : TouchesChannels s (wakeChan s pa) := by
  simp only [wakeChan]
  split
  · exact touches_modChan s _ fun _ => rfl
  · exact .refl s

theorem touches_knock (s : State) (pa : Nat) : TouchesChannels s (knock s pa) := by
  have hw := touches_wakeChan s pa
  simp only [knock, knockAs, turnName]
  split
  · exact hw
  · exact (hw.trans (touches_modGroup _ pa _)).trans (touches_count ..)

theorem touches_tookAccess (s : State) (pa : Nat) : TouchesChannels s (tookAccess s pa) := by
  have ht : TouchesChannels s (touchChan s pa) := touches_modChan s _ fun _ => rfl
  simp only [tookAccess, servedAs, turnName]
  split
  · exact ht.trans (touches_modGroup _ pa _)
  · exact ht

theorem touches_chanRead (s : State) (pa : Nat) : TouchesChannels s (chanRead s pa) := (touches_tookAccess s pa).trans (touches_count ..)
theorem touches_chanWrote (s : State) (pa : Nat) : TouchesChannels s (chanWrote s pa) := (touches_tookAccess s pa).trans (touches_count ..)

theorem touches_unitsKnock (s : State) (pas : List Nat) : TouchesChannels s (unitsKnock s pas) :=
  (TouchesChannels.foldl touches_wakeChan pas s).trans (.foldl touches_knock _ _)

theorem touches_walkTouched (s : State) (part va : Nat) : TouchesChannels s (walkTouched s part va) := .foldl touches_chanRead _ s

theorem touches_unitTouched (s : State) (wr : Bool) (va len : Nat) (ps : List Page) : TouchesChannels s (unitTouched s wr va len ps) := by
  refine .foldl (fun s x => ?_) _ s
  refine (touches_walkTouched s x.2.part x.1.va).trans ?_
  dsimp only
  split
  · exact touches_chanWrote ..
  · exact touches_chanRead ..

theorem touches_unitTook (s : State) (part va len : Nat) : TouchesChannels s (unitTook s part va len) := by
  simp only [unitTook]
  split
  · exact .refl s
  · exact touches_unitTouched ..

theorem touches_unitFetch (s : State) (part va n align : Nat) : TouchesChannels s (unitFetch s part va n align).2 := by
  simp only [unitFetch]
  split
  · exact touches_unitsKnock ..
  · split
    · exact touches_walkTouched ..
    · exact .refl s
    · split
      · exact touches_walkTouched ..
      · split
        · exact touches_unitsKnock ..
        · exact (touches_walkTouched ..).trans (touches_chanRead ..)

/-! ### Translation after an access -/

section
variable {s t : State} (h : TouchesChannels s t)
include h

theorem TouchesChannels.foreign_eq (part pa : Nat) : foreign t part pa = foreign s part pa := by
  obtain ⟨_, _, -, ho⟩ := h
  unfold foreign
  rw [ho]

theorem TouchesChannels.walkRead_eq (part va level a : Nat) : walkRead t part va level a = walkRead s part va level a := by
  simp only [walkRead, h.foreign_eq, h.mem]

theorem TouchesChannels.walk_eq (part va : Nat) : walk t part va = walk s part va := by
  have hf : ∀ level a, walkFrom t part va level a = walkFrom s part va level a := by
    intro level
    induction level with
    | zero =>
      intro a
      unfold walkFrom
      rw [h.walkRead_eq]
      cases walkRead s part va 0 a <;> rfl
    | succ n ih =>
      intro a
      unfold walkFrom
      rw [h.walkRead_eq]
      cases walkRead s part va (n + 1) a with
      | table t' => exact ih t'
      | page p => rfl
      | fault f => rfl
  simp only [walk, partOf, h.parts, hf]

theorem TouchesChannels.unitPages_eq (part : Nat) (sup rd wr : Bool) (types : List PageType) (l : List Touch) :
    unitPages t part sup rd wr types l = unitPages s part sup rd wr types l := by
  induction l with
  | nil => rfl
  | cons x r ih => simp only [unitPages, h.walk_eq, ih]

theorem TouchesChannels.unitRead_eq (part : Nat) (sup : Bool) (types : List PageType) (va len : Nat) :
    unitRead t part sup types va len = unitRead s part sup types va len := by
  simp only [unitRead, h.unitPages_eq, h.mem]

end

/-- A write of a unit changes memory beside what accesses change. -/
theorem unitWrite_ok {s u : State} {part va : Nat} {sup : Bool} {types : List PageType} {bs : List Byte}
    (h : unitWrite s part sup types va bs = .ok u) : ∃ v, TouchesChannels s v ∧ u = { v with mem := u.mem } := by
  simp only [unitWrite] at h
  split at h
  · cases h
  · next ps _ => cases h; exact ⟨_, touches_unitTouched s true va bs.length ps, rfl⟩

section
variable {s u : State} {part va : Nat} {sup : Bool} {types : List PageType} {bs : List Byte} (h : unitWrite s part sup types va bs = .ok u)
include h

theorem unitWrite_launches : u.launches = s.launches := by
  obtain ⟨v, hv, hu⟩ := unitWrite_ok h
  rw [hu]; exact hv.launches

theorem unitWrite_queues : u.queues = s.queues := by
  obtain ⟨v, hv, hu⟩ := unitWrite_ok h
  rw [hu]; exact hv.queues

theorem unitWrite_nextId : u.nextId = s.nextId := by
  obtain ⟨v, hv, hu⟩ := unitWrite_ok h
  rw [hu]; exact hv.nextId

theorem unitWrite_time : u.time = s.time := by
  obtain ⟨v, hv, hu⟩ := unitWrite_ok h
  rw [hu]; exact hv.time

end

/-! ### Launches and their tasks -/

theorem getElem?_lmod {α : Type} (l : List α) (i k : Nat) (f : α → α) : (lmod l i f)[k]? = if k = i then (l[k]?).map f else l[k]? := by
  induction l generalizing i k with
  | nil => simp [lmod]
  | cons x r ih => cases i <;> cases k <;> simp [lmod, ih]

theorem launchOf_congr {s t : State} (h : t.launches = s.launches) (m : Nat) : launchOf t m = launchOf s m := by simp only [launchOf, h]

theorem find?_map_keyed {α : Type} (l : Table α) (k m : Nat) (f : α → α) :
    ((l.map (fun e => if e.1 = k then (e.1, f e.2) else e)).find? (fun e => e.1 == m)).map (·.2) =
      if m = k then ((l.find? (fun e => e.1 == m)).map (·.2)).map f else (l.find? (fun e => e.1 == m)).map (·.2) := by
  induction l with
  | nil => simp
  | cons e r ih => grind

@[simp] theorem launchOf_modLaunch_self (s : State) (ln : Nat) (f : Launch → Launch) : launchOf (modLaunch s ln f) ln = (launchOf s ln).map f := by
  simp only [launchOf, modLaunch, find?_map_keyed, if_true]

@[simp] theorem launchOf_modLaunch_ne (s : State) {ln m : Nat} (f : Launch → Launch) (h : m ≠ ln) : launchOf (modLaunch s ln f) m = launchOf s m := by
  simp only [launchOf, modLaunch, find?_map_keyed, if_neg h]

end Sys2Proof.Machine
end

section
/-! What settling the graph of a launch decides and changes (R29, R50, R55). -/

namespace Sys2Proof.Machine

/-! ### What a step of a launch's graph changes -/

/-- What a step of the graph of launch ln may change of a state: no byte of memory, no queue, no other launch, and of its own launch
only the tasks in W. -/
structure ChangesTasks (ln : Nat) (W : Nat → Prop) (s t : State) : Prop where
  mem : t.mem = s.mem
  queues : t.queues = s.queues
  others : ∀ m, m ≠ ln → launchOf t m = launchOf s m
  own : ∀ l, launchOf s ln = some l → ∃ ts, launchOf t ln = some { l with tasks := ts } ∧ ∀ k, ¬W k → ts[k]? = l.tasks[k]?

namespace ChangesTasks

variable {ln : Nat} {W : Nat → Prop}

/-- A step that writes neither memory nor queues nor launches. -/
theorem of_eq {s t : State} (hm : t.mem = s.mem) (hq : t.queues = s.queues) (hl : t.launches = s.launches) : ChangesTasks ln W s t :=
  ⟨hm, hq, fun m _ => launchOf_congr hl m, fun l h => ⟨l.tasks, (launchOf_congr hl ln).trans h, fun _ _ => rfl⟩⟩

theorem refl (s : State) : ChangesTasks ln W s s := of_eq rfl rfl rfl

theorem trans {s t u : State} (h : ChangesTasks ln W s t) (k : ChangesTasks ln W t u) : ChangesTasks ln W s u := by
  refine ⟨k.mem.trans h.mem, k.queues.trans h.queues, fun m hm => (k.others m hm).trans (h.others m hm), fun l hl => ?_⟩
  obtain ⟨ts, ht, hk⟩ := h.own l hl
  obtain ⟨us, hu, hk'⟩ := k.own _ ht
  exact ⟨us, hu, fun i hi => (hk' i hi).trans (hk i hi)⟩

theorem foldl {α : Type} {f : State → α → State} {l : List α} (h : ∀ s, ∀ x ∈ l, ChangesTasks ln W s (f s x)) (s : State) :
    ChangesTasks ln W s (l.foldl f s) := by
  induction l generalizing s with
  | nil => exact refl s
  | cons x r ih =>
    exact (h s x List.mem_cons_self).trans (ih (fun s y hy => h s y (List.mem_cons_of_mem x hy)) _)

theorem touches {s t u : State} (h : ChangesTasks ln W s t) (k : TouchesChannels t u) : ChangesTasks ln W s u :=
  h.trans (of_eq k.mem k.queues k.launches)

variable {s t : State} (h : ChangesTasks ln W s t) {tk : Nat} (hW : W tk)
include h

theorem startExchange (p x algo : Nat) (f : Handle → Handle) : ChangesTasks ln W s (startExchange t p x algo f).2 := by
  refine h.trans ?_
  simp only [Machine.startExchange]
  repeat' split
  all_goals exact of_eq rfl rfl rfl

include hW

theorem modTask (f : Task → Task) : ChangesTasks ln W s (modTask t ln tk f) := by
  refine h.trans ⟨rfl, rfl, fun m hm => launchOf_modLaunch_ne t _ hm, fun l hl => ⟨lmod l.tasks tk f, ?_, fun k hk => ?_⟩⟩
  · rw [Machine.modTask, launchOf_modLaunch_self, hl]; rfl
  · rw [getElem?_lmod, if_neg (fun e : k = tk => hk (e ▸ hW))]

theorem workDone (status detail : Nat) (d1 : Word) : ChangesTasks ln W s (workDone t (some (ln, tk)) status detail d1) := h.modTask hW _

theorem nodeExchange (p : Nat) (n : BitVec 512) : ChangesTasks ln W s (nodeExchange t p ln tk n) := by
  have hfetch := touches_unitFetch t p (fld n 127 64) 64 64
  simp only [Machine.nodeExchange]
  split
  · exact h
  · split
    · next u e => rw [e] at hfetch; exact h.touches hfetch
    · next f u e => rw [e] at hfetch; exact ((h.touches hfetch).modTask hW _).workDone hW ..
    · next pa bs u e =>
      rw [e] at hfetch
      replace h := h.touches hfetch
      split
      · exact h.touches (touches_unitsKnock ..)
      · replace h := h.touches (.foldl touches_chanRead (pairTables u p (BitVec.ofNat 512 (natOfBytes bs)) (fld n 191 128)) u)
        split
        · exact (h.modTask hW _).workDone hW ..
        · split
          · exact h
          · refine startExchange ?_ ..
            exact (h.modTask hW _).trans (of_eq rfl rfl rfl)

/-- A job of a node changes its own task alone as it is accepted. -/
theorem acceptJob {j : GlazeJob} (hc : j.cookie = none) (hn : j.node = some (ln, tk)) : ChangesTasks ln W s (acceptJob t j) := by
  have hplaced : jobPlaced t j = t := by simp [jobPlaced, hn]
  simp only [Machine.acceptJob, hplaced, jobReply, hc, hn]
  split
  · exact h.workDone hW ..
  · exact h.trans (of_eq rfl rfl rfl)

theorem startTask (p : Nat) (n : BitVec 512) : ChangesTasks ln W s (startTask t ln tk p n) := by
  replace h := h.modTask hW (fun t => { t with state := .running })
  simp only [Machine.startTask]
  split
  · split
    · exact h.workDone hW ..
    · split
      · exact h.workDone hW ..
      · refine acceptJob ?_ hW rfl rfl
        exact h.trans (of_eq rfl rfl rfl)
  · exact h.nodeExchange hW p n
  · exact h

end ChangesTasks

/-! ### The graph settled -/

/-- Whether a task of a launch still waits. -/
def Waits (l : Launch) (k : Nat) : Prop := ∃ t, l.tasks[k]? = some t ∧ t.state = .waiting

theorem evalTask_waiting {l : Launch} {t : Task} {x : TaskState} (h : evalTask l t = some x) : t.state = .waiting := by
  refine Decidable.byContradiction fun hs => ?_
  rw [evalTask, if_pos (.inl hs)] at h
  cases h

/-- What evaluation decides of is a task that waits. -/
theorem waits_of_evalTask {l : Launch} {k : Nat} {x : TaskState} (h : (l.tasks[k]?.map (evalTask l)) = some (some x)) : Waits l k := by
  obtain ⟨t, ht, he⟩ := Option.map_eq_some_iff.1 h
  exact ⟨t, ht, evalTask_waiting he⟩

theorem getElem?_foldl_lmod {α : Type} (f : α → α) (is : List Nat) (l : List α) {k : Nat} (hk : k ∉ is) :
    (is.foldl (fun ts i => lmod ts i f) l)[k]? = l[k]? := by
  induction is generalizing l with
  | nil => rfl
  | cons i r ih =>
    rw [List.mem_cons, not_or] at hk
    rw [List.foldl_cons, ih _ hk.2, getElem?_lmod, if_neg hk.1]

/-- The tasks of a launch that are to be skipped now. -/
def deadTasks (l : Launch) : List Nat := (List.range l.tasks.length).filter (fun i => (l.tasks[i]?.map (evalTask l)) == some (some .skipped))

theorem waits_of_dead {l : Launch} {k : Nat} (h : k ∈ deadTasks l) : Waits l k := waits_of_evalTask (beq_iff_eq.1 (List.mem_filter.1 h).2)

/-- Skipping decides of waiting tasks alone. -/
theorem skipAll_tasks (fuel : Nat) (l : Launch) : ∃ ts, skipAll l fuel = { l with tasks := ts } ∧ ∀ k, ¬Waits l k → ts[k]? = l.tasks[k]? := by
  induction fuel generalizing l with
  | zero => exact ⟨l.tasks, rfl, fun _ _ => rfl⟩
  | succ fuel ih =>
    simp only [skipAll]
    split
    · exact ⟨l.tasks, rfl, fun _ _ => rfl⟩
    · have hsame : ∀ k, ¬Waits l k → ((deadTasks l).foldl (fun ts i => lmod ts i (fun t => { t with state := .skipped })) l.tasks)[k]? = l.tasks[k]? :=
        fun k hw => getElem?_foldl_lmod _ _ _ (fun hm => hw (waits_of_dead hm))
      obtain ⟨ts, hts, hk⟩ := ih { l with tasks := (deadTasks l).foldl (fun ts i => lmod ts i (fun t => { t with state := .skipped })) l.tasks }
      exact ⟨ts, hts, fun k hw => (hk k (fun ⟨t, ht, hs⟩ => hw ⟨t, (hsame k hw).symm.trans ht, hs⟩)).trans (hsame k hw)⟩

theorem mem_of_mem_sorted {α : Type} (before after : α → α → Bool) {l : List α} {x : α} (acc : List α)
    (h : x ∈ l.foldl (fun acc i => acc.filter (before i) ++ [i] ++ acc.filter (after i)) acc) : x ∈ acc ∨ x ∈ l := by
  induction l generalizing acc with
  | nil => exact .inl h
  | cons i r ih =>
    rcases ih _ h with h | h
    · rcases List.mem_append.1 h with h | h
      · rcases List.mem_append.1 h with h | h
        · exact .inl (List.mem_filter.1 h).1
        · exact .inr (List.mem_singleton.1 h ▸ List.mem_cons_self)
      · exact .inl (List.mem_filter.1 h).1
    · exact .inr (List.mem_cons_of_mem i h)

/-- Settling a launch's graph decides of its waiting tasks alone, and starts what becomes ready. -/
theorem settleGraph_changes {s : State} {ln : Nat} {l : Launch} (hl : launchOf s ln = some l) :
    ChangesTasks ln (Waits l) s (settleGraph s ln) := by
  obtain ⟨ts, hskip, hts⟩ := skipAll_tasks (l.tasks.length + 1) l
  simp only [settleGraph, hl, hskip]
  refine .trans (t := modLaunch s ln (fun _ => { l with tasks := ts })) ?_ (.foldl (fun u i hi => ?_) _)
  · refine ⟨rfl, rfl, fun m hm => launchOf_modLaunch_ne s _ hm, fun l' hl' => ⟨ts, ?_, fun k hk => ?_⟩⟩
    · obtain rfl : l = l' := Option.some.inj (hl.symm.trans hl')
      rw [launchOf_modLaunch_self, hl]; rfl
    · obtain rfl : l = l' := Option.some.inj (hl.symm.trans hl')
      exact hts k hk
  · have hwait : Waits l i := by
      rcases mem_of_mem_sorted _ _ _ hi with h | h
      · cases h
      · obtain ⟨t, ht, hs⟩ := waits_of_evalTask (beq_iff_eq.1 (List.mem_filter.1 h).2)
        exact Classical.byContradiction fun hn => hn ⟨t, (hts i hn).symm.trans ht, hs⟩
    split
    · refine .modTask ?_ hwait _
      exact .of_eq rfl rfl rfl
    · refine .startTask (.modTask ?_ hwait _) hwait _ _
      exact .of_eq rfl rfl rfl

/-- A task that does not wait stands as it did once the graph is settled, and so does the rest of its launch. -/
theorem settleGraph_keeps {s : State} {ln tk : Nat} {l : Launch} {t : Task} (hl : launchOf s ln = some l) (ht : l.tasks[tk]? = some t)
    (hs : t.state ≠ .waiting) : ∃ ts, launchOf (settleGraph s ln) ln = some { l with tasks := ts } ∧ ts[tk]? = some t := by
  obtain ⟨ts, hts, hk⟩ := (settleGraph_changes hl).own l hl
  refine ⟨ts, hts, (hk tk ?_).trans ht⟩
  rintro ⟨t', ht', hw⟩
  obtain rfl : t = t' := Option.some.inj (ht.symm.trans ht')
  exact hs hw

/-- Settling leaves memory as it is, whatever its launch is. -/
theorem settleGraph_mem (s : State) (ln : Nat) : (settleGraph s ln).mem = s.mem := by
  cases hl : launchOf s ln with
  | none => simp only [settleGraph, hl]
  | some l => exact (settleGraph_changes hl).mem

end Sys2Proof.Machine
end

section
/-! The acceptance of a queue's next entry (R42, R44). -/

namespace Sys2Proof.Machine

/-! ### Queues -/

@[simp] theorem queueOf_modQueue_self (s : State) (q : Nat) (f : HwQueue → HwQueue) : queueOf (modQueue s q f) q = f (queueOf s q) := by
  simp [queueOf, modQueue]

theorem queueOf_congr {s t : State} (h : t.queues = s.queues) (q : Nat) : queueOf t q = queueOf s q := by simp only [queueOf, h]

/-- Halting sets HALTED and keeps every other field of the queue (R41). -/
theorem queueOf_haltLogged (s : State) (q arg : Nat) : queueOf (haltLogged s q arg) q = { queueOf s q with desc := (queueOf s q).desc ||| 2 } :=
  queueOf_modQueue_self s q fun x => { x with desc := x.desc ||| 2 }

theorem qHalted_or_two (d : BitVec 256) : qHalted (d ||| 2) = true := by simp [qHalted, bit]

/-! ### The acceptance of an entry (R42, R44) -/

/-- HEAD advances whether or not its new value can be written at HEADVA (R42, R44), and no launch changes. -/
theorem advanceHead_frame (s : State) (q : Nat) (bad : List Nat) :
    (advanceHead s q bad).launches = s.launches ∧ (advanceHead s q bad).nextId = s.nextId ∧ (advanceHead s q bad).time = s.time ∧
    (queueOf (advanceHead s q bad) q).head = (queueOf s q).head + 1 := by
  have halted : ∀ arg, (queueOf (haltLogged (modQueue s q (fun x => { x with head := x.head + 1 })) q arg) q).head = (queueOf s q).head + 1 := by
    intro arg; simp [queueOf_haltLogged]
  simp only [advanceHead]
  split
  · exact ⟨rfl, rfl, rfl, halted _⟩
  · split
    · exact ⟨rfl, rfl, rfl, halted _⟩
    · next u hu =>
      refine ⟨(unitWrite_launches hu).trans rfl, (unitWrite_nextId hu).trans rfl, (unitWrite_time hu).trans rfl, ?_⟩
      rw [queueOf_congr (unitWrite_queues hu), queueOf_modQueue_self]

theorem launchOf_tput_self (s : State) (ln : Nat) (l : Launch) : launchOf { s with launches := tput s.launches ln l } ln = some l := by
  simp [launchOf, tput]

theorem find?_filter_ne {α : Type} (l : Table α) {k m : Nat} (h : m ≠ k) :
    (l.filter (fun e => decide (e.1 ≠ k))).find? (fun e => e.1 == m) = l.find? (fun e => e.1 == m) := by
  rw [List.find?_filter]
  congr 1
  funext e
  by_cases he : e.1 = m <;> simp [he, h]

theorem launchOf_tput_ne (s : State) {ln m : Nat} (l : Launch) (h : m ≠ ln) :
    launchOf { s with launches := tput s.launches ln l } m = launchOf s m := by
  simp only [launchOf, tput]
  rw [List.find?_cons_of_neg (by simpa using h.symm), find?_filter_ne _ h]

/-- A launch added at the next number, and its graph settled: its words are kept, and no other launch changes. -/
theorem settleGraph_added (s : State) (l : Launch) :
    ChangesTasks s.nextId (Waits l) { s with nextId := s.nextId + 1, launches := tput s.launches s.nextId l }
      (settleGraph { s with nextId := s.nextId + 1, launches := tput s.launches s.nextId l } s.nextId) :=
  settleGraph_changes (launchOf_tput_self { s with nextId := s.nextId + 1 } s.nextId l)

/-- The launch that an accepted entry starts, at the next number; the others stand as they are. -/
theorem startLaunch_launch (s : State) (q p entry : Nat) (va cookie : Word) (t : LaunchText) :
    (startLaunch s q p entry va cookie t).queues = s.queues ∧
    (∀ m, m ≠ s.nextId → launchOf (startLaunch s q p entry va cookie t) m = launchOf s m) ∧
    ∃ l, launchOf (startLaunch s q p entry va cookie t) s.nextId = some l ∧ l.queue = q ∧ l.part = p ∧ l.entry = entry ∧ l.cookie = cookie ∧
      l.header = t.header ∧ l.tstart = s.time := by
  have hc := settleGraph_added s
  refine ⟨(hc _).queues, fun m hm => ((hc _).others m hm).trans (launchOf_tput_ne _ _ hm), ?_⟩
  obtain ⟨ts, hts, -⟩ := (hc _).own _ (launchOf_tput_self _ _ _)
  exact ⟨_, hts, rfl, rfl, rfl, rfl, rfl, rfl⟩

@[simp] theorem readTables_header (s : State) (p va : Nat) (h : BitVec 512) (lv8 : List Word) : (readTables s p va h lv8).1.header = h := by
  simp only [readTables]
  repeat' split
  all_goals rfl

/-- What acceptance reads and checks does not depend on the accesses that it has made. -/
theorem TouchesChannels.readTables_eq {s t : State} (h : TouchesChannels s t) (p va : Nat) (x : BitVec 512) (lv8 : List Word) :
    readTables t p va x lv8 = readTables s p va x lv8 := by
  simp only [readTables, h.unitRead_eq]

theorem TouchesChannels.launchFault_eq {s t : State} (h : TouchesChannels s t) (p : Nat) (x : LaunchText) (lv8 : List Word) (fault : Bool) :
    launchFault t p x lv8 fault = launchFault s p x lv8 fault := by
  obtain ⟨_, _, rfl, -⟩ := h
  rfl

theorem TouchesChannels.rlqUsed_eq {s t : State} (h : TouchesChannels s t) (p : Nat) : rlqUsed t p = rlqUsed s p := by
  simp only [rlqUsed, h.launches]

/-- The scheduler takes the next entry of a queue. -/
structure TakesEntry (s : State) (q : Nat) : Prop where
  up : schedUp s = true
  port : fld s.pkg.ready 34 19 ≠ 0
  enabled : qEn (queueOf s q).desc = true
  running : qHalted (queueOf s q).desc = false
  nonEmpty : (queueOf s q).head ≠ (queueOf s q).taild
  channels : acceptOpen s q = true

/-- An entry that cannot be read halts its queue (R42, R44). -/
theorem queueEntryAccept_halts {s : State} {q : Nat} (h : TakesEntry s q) {bad : List Nat}
    (hb : bad.contains badEntry = true ∨ ∃ f, unitRead s (qPart (queueOf s q).desc) false dataTypes (entryAt (queueOf s q)) 32 = .error f) :
    exec (.queueEntryAccept ⟨q, bad⟩) s = .next (haltLogged s q (queueOf s q).head.toNat) := by
  change execQueueEntryAccept ⟨q, bad⟩ s = _
  simp only [execQueueEntryAccept, h.up, h.port, h.enabled, h.running, h.nonEmpty, h.channels, not_true_eq_false, Bool.false_eq_true, or_self, if_false]
  split
  · rfl
  · next hn =>
    obtain hb | ⟨f, hf⟩ := hb
    · exact absurd hb hn
    · simp only [hf]

/-- The header and the levels of a launch block (R18, R21). -/
def headerIn (hb : List Byte) : BitVec 512 := BitVec.ofNat 512 (natOfBytes (hb.take 64))
def levelsIn (hb : List Byte) : List Word := (List.range 8).map (fun i => wordAt hb (8 + i))

/-- A queue's next entry can be read, and names a launch block that passes the checks of R33 and has room in the ready list of its
partition p. -/
structure StartsLaunch (s : State) (q p : Nat) (eb hb : List Byte) (r : LaunchText × Bool) : Prop where
  part : qPart (queueOf s q).desc = p
  entry : unitRead s p false dataTypes (entryAt (queueOf s q)) 32 = .ok eb
  zero0 : wordAt eb 0 = 0
  zero1 : wordAt eb 1 = 0
  block : unitRead s p false dataTypes (wordAt eb 3).toNat 128 = .ok hb
  tables : readTables s p (wordAt eb 3).toNat (headerIn hb) (levelsIn hb) = r
  sound : launchFault s p r.1 (levelsIn hb) r.2 = none
  ready : rlqUsed s p + 4 * hdNnode (headerIn hb) ≤ swRlq (partOf s p).sched

/-- Such an entry moves HEAD and starts its launch (R42). -/
theorem queueEntryAccept_starts {s : State} {q p : Nat} {eb hb : List Byte} {r : LaunchText × Bool} (h : TakesEntry s q)
    (k : StartsLaunch s q p eb hb r) : ∃ u, TouchesChannels s u ∧ exec (.queueEntryAccept ⟨q, []⟩) s =
      .next (startLaunch (advanceHead u q []) q p (queueOf s q).head.toNat (wordAt eb 3) (wordAt eb 2) r.1) := by
  obtain ⟨rfl, he, h0, h1, hr, hrt, hf, hq⟩ := k
  have ht := touches_unitTook s (qPart (queueOf s q).desc) (entryAt (queueOf s q)) 32
  have ht' := ht.trans (touches_unitTook _ (qPart (queueOf s q).desc) (wordAt eb 3).toNat 128)
  have hread := (ht.unitRead_eq ..).trans hr
  have htab := (ht'.readTables_eq ..).trans hrt
  have hsound := (ht'.launchFault_eq ..).trans hf
  rw [← ht'.rlqUsed_eq, partOf, ← ht'.parts, ← partOf] at hq
  simp only [headerIn, levelsIn] at htab hsound hq
  refine ⟨_, (ht'.trans (touches_unitTook _ (qPart (queueOf s q).desc) (hdNode (headerIn hb)) (64 * hdNnode (headerIn hb)))).trans
    (touches_unitTook _ (qPart (queueOf s q).desc) (hdEdge (headerIn hb)) (4 * hdNedge (headerIn hb))), ?_⟩
  change execQueueEntryAccept ⟨q, []⟩ s = _
  simp only [execQueueEntryAccept, h.up, h.port, h.enabled, h.running, h.nonEmpty, h.channels, not_true_eq_false, Bool.false_eq_true, or_self, if_false,
    List.contains_nil, he, h0, h1, ne_eq, hread, acceptTables, false_and, htab, hsound, if_neg (Nat.not_lt.2 hq), headerIn]

/-- The launch that it starts, and what stands as it did. -/
theorem queueEntryAccept_launch {s : State} {q p : Nat} {eb hb : List Byte} {r : LaunchText × Bool} (h : TakesEntry s q)
    (k : StartsLaunch s q p eb hb r) : ∃ t l, exec (.queueEntryAccept ⟨q, []⟩) s = .next t ∧ (queueOf t q).head = (queueOf s q).head + 1 ∧
      launchOf t s.nextId = some l ∧ l.queue = q ∧ l.part = p ∧ l.entry = (queueOf s q).head.toNat ∧ l.cookie = wordAt eb 2 ∧
      l.header = headerIn hb ∧ l.tstart = s.time ∧ ∀ m, m ≠ s.nextId → launchOf t m = launchOf s m := by
  obtain ⟨u, hu, hexec⟩ := queueEntryAccept_starts h k
  obtain ⟨hlaunches, hnext, htime, hhead⟩ := advanceHead_frame u q []
  obtain ⟨hqueues, hothers, l, hl, hlq, hlp, hle, hlc, hlh, hlt⟩ :=
    startLaunch_launch (advanceHead u q []) q p (queueOf s q).head.toNat (wordAt eb 3) (wordAt eb 2) r.1
  have hheader : r.1.header = headerIn hb := by rw [← k.tables, readTables_header]
  rw [hnext, hu.nextId] at hothers hl
  refine ⟨_, l, hexec, ?_, hl, hlq, hlp, hle, hlc, hlh.trans hheader, hlt.trans (htime.trans hu.time), fun m hm => ?_⟩
  · rw [queueOf_congr hqueues, hhead, queueOf_congr hu.queues]
  · rw [hothers m hm, launchOf_congr hlaunches, launchOf_congr hu.launches]

end Sys2Proof.Machine
end

section
/-! Control nodes, the completion of tasks, and the record of a launch (R31, R32, R50, R51, R343). -/

namespace Sys2Proof.Machine

/-! ### The words of control nodes (R31, R32) -/

theorem compareCc_eq (v c : Word) (cc : Nat) : compareCc v c cc = conditionHolds v c cc := by
  match cc with
  | 0 | 1 | 2 | 3 => rfl
  | 4 => rfl
  | n + 5 =>
    change (!decide (v.toInt < c.toInt)) = decide (c.toInt ≤ v.toInt)
    rw [← decide_not, decide_eq_decide, Int.not_lt]

theorem syncTouch_launches {s u : State} {pa : Nat} (h : syncTouch s pa = some u) : u.launches = s.launches := by
  simp only [syncTouch] at h
  split at h
  · cases h
  · split at h
    · cases h
    · cases h
      exact ((TouchesChannels.foldl (fun s l => touches_chanRead s (128 * l)) _ s).trans
        (.foldl (fun s l => touches_chanWrote s (128 * l)) _ _)).launches

/-- The read of a condition word changes no launch. -/
theorem conditionWord_launches {s u : State} {l : Launch} {n : BitVec 512} {v : Word} {ty : PageType} {pfn : Nat}
    (h : conditionWord s l n = .word v ty pfn u) : u.launches = s.launches := by
  simp only [conditionWord] at h
  split at h
  · cases h
  · split at h
    · cases h
    · split at h
      · split at h
        · cases h
        · next hs => cases h; exact syncTouch_launches hs
      · split at h
        · cases h
        · cases h; exact (touches_unitTouched ..).launches

theorem launchOf_modTask (s : State) (ln tk : Nat) (f : Task → Task) {l : Launch} (hl : launchOf s ln = some l) :
    launchOf (modTask s ln tk f) ln = some { l with tasks := lmod l.tasks tk f } := by
  rw [modTask, launchOf_modLaunch_self, hl]; rfl

theorem getElem?_lmod_self {α : Type} {l : List α} {i : Nat} {x : α} (f : α → α) (h : l[i]? = some x) : (lmod l i f)[i]? = some (f x) := by
  rw [getElem?_lmod, if_pos rfl, h]; rfl

/-- A launch's task changed and the graph settled: a task that no longer waits stands as the change left it. -/
theorem settleGraph_modTask {s : State} {ln tk : Nat} {l : Launch} {t : Task} (hl : launchOf s ln = some l) (ht : l.tasks[tk]? = some t)
    (f : Task → Task) (hf : (f t).state ≠ .waiting) :
    ∃ ts, launchOf (settleGraph (modTask s ln tk f) ln) ln = some { l with tasks := ts } ∧ ts[tk]? = some (f t) := by
  have hk := settleGraph_keeps (launchOf_modTask s ln tk f hl) (getElem?_lmod_self f ht) hf
  exact hk

/-- A conditional or switch task completes with its selector (R31). -/
theorem controlDone_task {s : State} {ln tk : Nat} {l : Launch} {t : Task} (hl : launchOf s ln = some l) (ht : l.tasks[tk]? = some t)
    (sel : Option Nat) :
    ∃ ts, launchOf (controlDone s ln tk sel) ln = some { l with tasks := ts } ∧ ts[tk]? = some { t with state := .complete, sel := sel } :=
  settleGraph_modTask hl ht (fun t => { t with state := .complete, sel := sel }) (by simp)

/-- A control task whose word cannot be read notes status 7 with the cause, if its launch has no status yet (R51). -/
theorem controlFault_launch {s : State} {ln tk : Nat} {l : Launch} {t : Task} (hl : launchOf s ln = some l) (ht : l.tasks[tk]? = some t)
    (kind cause : Nat) (info : Word) :
    (controlFault s ln tk t kind cause info).mem = s.mem ∧
    ∃ ts, launchOf (controlFault s ln tk t kind cause info) ln = some { noteStatus l 7 t.node cause [0, info, 0] with tasks := ts } := by
  have hn : launchOf (modLaunch s ln (fun l => noteStatus l 7 t.node cause [0, info, 0])) ln = some (noteStatus l 7 t.node cause [0, info, 0]) := by
    rw [launchOf_modLaunch_self, hl]; rfl
  have ht' : (noteStatus l 7 t.node cause [0, info, 0]).tasks[tk]? = some t := by
    rw [← ht, noteStatus]; split <;> rfl
  simp only [controlFault]
  split
  · exact ⟨rfl, _, launchOf_modTask _ ln tk _ hn⟩
  · obtain ⟨ts, hts, -⟩ := controlDone_task hn ht' none
    exact ⟨settleGraph_mem _ ln, ts, hts⟩

/-- Whether the word of a loop node starts a further iteration (R31, R32). -/
def IteratesOn (n : BitVec 512) (v : Word) (iters : Nat) : Prop :=
  conditionHolds v (n.extractLsb' 192 64) (fld n 258 256) = true ∧ (fld n 319 288 = 0 ∨ iters < fld n 319 288)

/-- The launch of a loop task tk as it starts its next iteration, with the nodes of its body. -/
def beginIteration (tk : Nat) (t : Task) (body : List Nat) (l : Launch) : Launch :=
  { l with tasks := lmod l.tasks tk (fun x => { x with iters := t.iters + 1 }) ++ body.map (fun n => newTask n (t.iter ++ [t.iters])) }

theorem beginIteration_task {l : Launch} {tk : Nat} {t : Task} (body : List Nat) (h : l.tasks[tk]? = some t) :
    (beginIteration tk t body l).tasks[tk]? = some { t with iters := t.iters + 1 } := by
  have hself := getElem?_lmod_self (fun x : Task => { x with iters := t.iters + 1 }) h
  exact (List.getElem?_append_left (List.getElem?_eq_some_iff.1 hself).1).trans hself

/-- A running control task of launch ln reads its word v now: a loop does so where the iteration that it waits for has ended. -/
structure ReadsWord (s : State) (ln tk : Nat) (l : Launch) (t : Task) (v : Word) (ty : PageType) (pfn : Nat) (u : State) : Prop where
  launch : launchOf s ln = some l
  task : l.tasks[tk]? = some t
  up : schedUp s = true
  uncut : l.cut = false
  running : t.state = .running
  loop : ndKind (nodeOf l t.node) = 5 → t.exited = false ∧ ∀ j, j + (fld (nodeOf l t.node) 273 272 + 1) = t.iters → iterationDone l t j = true
  word : conditionWord s l (nodeOf l t.node) = .word v ty pfn u

namespace ReadsWord

variable {s u : State} {ln tk : Nat} {l : Launch} {t : Task} {v : Word} {ty : PageType} {pfn : Nat} (h : ReadsWord s ln tk l t v ty pfn u)
include h

theorem launch' : launchOf u ln = some l := (launchOf_congr (conditionWord_launches h.word) ln).trans h.launch

/-- The scheduler evaluates the task. -/
theorem evaluated (hs : selector (ndKind (nodeOf l t.node)) = true) :
    ¬(¬schedUp s = true ∨ l.cut = true ∨ t.state ≠ .running ∨ ¬selector (ndKind (nodeOf l t.node)) = true) := by
  simp [h.up, h.uncut, h.running, hs]

/-- Nothing keeps a loop from its next evaluation. -/
theorem notHeld : ¬(ndKind (nodeOf l t.node) = 5 ∧
    (t.exited = true ∨ (fld (nodeOf l t.node) 273 272 + 1 ≤ t.iters ∧ ¬iterationDone l t (t.iters - (fld (nodeOf l t.node) 273 272 + 1)) = true))) := by
  rintro ⟨h5, hex | ⟨hle, hdone⟩⟩
  · rw [(h.loop h5).1] at hex; cases hex
  · exact hdone ((h.loop h5).2 _ (Nat.sub_add_cancel hle))

/-- A word with an uncorrectable memory error fails its node with cause 13 (R51). -/
theorem evaluates_bad (hs : selector (ndKind (nodeOf l t.node)) = true) :
    ∃ t' info ts, exec (.conditionEvaluation ln ⟨tk, true⟩) s = .next t' ∧ t'.mem = u.mem ∧
      launchOf t' ln = some { noteStatus l 7 t.node 13 [0, info, 0] with tasks := ts } := by
  obtain ⟨hmem, ts, hts⟩ := controlFault_launch (s := emit { u with fresh := u.fresh + 1 } (.log 13
    (mcInfo pfn (if ty = .sync then 4 else (Config.freeWord u.fresh).toNat % 256)).toNat)) h.launch' h.task (ndKind (nodeOf l t.node)) 13
    (mcInfo pfn (if ty = .sync then 4 else (Config.freeWord u.fresh).toNat % 256))
  refine ⟨_, _, ts, ?_, hmem, hts⟩
  change execConditionEvaluation ln ⟨tk, true⟩ s = _
  simp only [execConditionEvaluation, h.launch, h.task, if_neg (h.evaluated hs), if_neg h.notHeld, h.word, if_true, takeFresh]

/-- A conditional node selects 1 where its condition holds, else 0. -/
theorem evaluates_conditional (hk : ndKind (nodeOf l t.node) = 4) : exec (.conditionEvaluation ln ⟨tk, false⟩) s = .next (controlDone u ln tk
    (some (if conditionHolds v ((nodeOf l t.node).extractLsb' 192 64) (fld (nodeOf l t.node) 258 256) then 1 else 0))) := by
  change execConditionEvaluation ln ⟨tk, false⟩ s = _
  simp only [execConditionEvaluation, h.launch, h.task, if_neg (h.evaluated (hk ▸ rfl)), if_neg h.notHeld, h.word, Bool.false_eq_true, if_false, if_pos hk,
    compareCc_eq]
  cases conditionHolds v _ _ <;> rfl

/-- A switch node selects its word's field where an edge has that selector, else 8. -/
theorem evaluates_switch (hk : ndKind (nodeOf l t.node) = 6) : exec (.conditionEvaluation ln ⟨tk, false⟩) s = .next (controlDone u ln tk
    (some (if v.toNat / 2 ^ fld (nodeOf l t.node) 269 264 ≤ 7 ∧
        (∃ e ∈ l.edges, egFrom e = t.node ∧ egSel e = v.toNat / 2 ^ fld (nodeOf l t.node) 269 264)
      then v.toNat / 2 ^ fld (nodeOf l t.node) 269 264 else 8))) := by
  have h4 : ¬ndKind (nodeOf l t.node) = 4 := by rw [hk]; decide
  change execConditionEvaluation ln ⟨tk, false⟩ s = _
  simp only [execConditionEvaluation, h.launch, h.task, if_neg (h.evaluated (hk ▸ rfl)), if_neg h.notHeld, h.word, Bool.false_eq_true, if_false, if_neg h4,
    if_pos hk, List.any_eq_true, Bool.and_eq_true, beq_iff_eq]

/-- A loop that goes on, with room for its body in the ready list, starts its next iteration (R32, R49). -/
theorem evaluates_loop_on (hk : ndKind (nodeOf l t.node) = 5) (hv : IteratesOn (nodeOf l t.node) v t.iters)
    (hr : l.tasks.countP (fun y => !taskEnded y) + (nodesIn l (some t.node)).length ≤ 4 * l.nodes.length) :
    ∃ t' ts, exec (.conditionEvaluation ln ⟨tk, false⟩) s = .next t' ∧ launchOf t' ln = some { l with tasks := ts } ∧
      ts[tk]? = some { t with iters := t.iters + 1 } := by
  have h4 : ¬ndKind (nodeOf l t.node) = 4 := by rw [hk]; decide
  have h6 : ¬ndKind (nodeOf l t.node) = 6 := by rw [hk]; decide
  have hlaunch := (launchOf_modLaunch_self u ln (beginIteration tk t (nodesIn l (some t.node)))).trans (congrArg _ h.launch')
  obtain ⟨ts, hts, htk⟩ := settleGraph_keeps hlaunch (beginIteration_task _ h.task) (by simp [h.running])
  refine ⟨_, ts, ?_, hts, htk⟩
  change execConditionEvaluation ln ⟨tk, false⟩ s = _
  rw [IteratesOn] at hv
  simp only [execConditionEvaluation, h.launch, h.task, if_neg (h.evaluated (hk ▸ rfl)), if_neg h.notHeld, h.word, Bool.false_eq_true, if_false, if_neg h4,
    if_neg h6, compareCc_eq, if_pos hv, if_neg (Nat.not_lt.2 hr)]
  rfl

/-- A loop that does not go on takes its exit with selector 1 (R32). -/
theorem evaluates_loop_off (hk : ndKind (nodeOf l t.node) = 5) (hv : ¬IteratesOn (nodeOf l t.node) v t.iters) :
    exec (.conditionEvaluation ln ⟨tk, false⟩) s = .next (modTask u ln tk (fun t => { t with exited := true, sel := some 1 })) := by
  have h4 : ¬ndKind (nodeOf l t.node) = 4 := by rw [hk]; decide
  have h6 : ¬ndKind (nodeOf l t.node) = 6 := by rw [hk]; decide
  change execConditionEvaluation ln ⟨tk, false⟩ s = _
  rw [IteratesOn] at hv
  simp only [execConditionEvaluation, h.launch, h.task, if_neg (h.evaluated (hk ▸ rfl)), if_neg h.notHeld, h.word, Bool.false_eq_true, if_false, if_neg h4,
    if_neg h6, compareCc_eq, if_neg hv]

end ReadsWord

/-! ### The end of a task and of a launch (R50, R51, R343) -/

@[simp] theorem noteStatus_tasks (l : Launch) (status node detail : Nat) (ds : List Word) : (noteStatus l status node detail ds).tasks = l.tasks := by
  rw [noteStatus]; split <;> rfl

/-- A launch keeps its first status (R344). -/
theorem noteStatus_status (l : Launch) (status node detail : Nat) (ds : List Word) :
    (noteStatus l status node detail ds).status = if l.status = 0 then status else l.status := by
  rw [noteStatus]; split <;> split <;> simp_all

/-- A task whose work is done completes, and its launch notes its status (R50, R51). -/
theorem nodeCompletion_completes {s : State} {ln tk : Nat} {l : Launch} {t : Task} (hl : launchOf s ln = some l) (ht : l.tasks[tk]? = some t)
    (hs : schedEnds s = true) (hr : t.state = .running) (hd : taskDone s l ln tk t = true) :
    ∃ t' ts, exec (.nodeCompletion ln tk) s = .next t' ∧
      launchOf t' ln = some { noteStatus l t.status t.node t.detail [0, t.detail1, 0] with tasks := ts } ∧ ts[tk]? = some { t with state := .complete } := by
  have hlaunch := (launchOf_modLaunch_self s ln (fun l => { noteStatus l t.status t.node t.detail [0, t.detail1, 0] with
    tasks := lmod (noteStatus l t.status t.node t.detail [0, t.detail1, 0]).tasks tk (fun t => { t with state := .complete }) })).trans (congrArg _ hl)
  have htask := getElem?_lmod_self (fun t : Task => { t with state := .complete }) ht
  obtain ⟨ts, hts, hk⟩ := settleGraph_keeps hlaunch (by simpa using htask) (by simp)
  refine ⟨_, ts, ?_, hts, hk⟩
  change execNodeCompletion ln tk s = _
  simp [execNodeCompletion, hl, ht, hs, hr, hd]

theorem launchOf_launchOver_self (s : State) (ln : Nat) : launchOf (launchOver s ln) ln = none := by
  simp [launchOf, launchOver, tdel, List.find?_filter]

theorem launchOf_launchOver_ne (s : State) {ln m : Nat} (h : m ≠ ln) : launchOf (launchOver s ln) m = launchOf s m := by
  simp only [launchOf, launchOver, tdel, find?_filter_ne _ h]

/-- Every task of launch ln has ended, its dies are clean, and its record's channels take writes (R343). -/
structure RecordsLaunch (s : State) (ln : Nat) (l : Launch) : Prop where
  launch : launchOf s ln = some l
  up : schedEnds s = true
  ended : ∀ y ∈ l.tasks, taskEnded y = true
  clean : ∀ u ∈ l.units, u.2.1 = 0 → anyDirty s (dieNo u.2.2.2) = false
  channels : recordOpen s l = true

namespace RecordsLaunch

variable {s : State} {ln : Nat} {l : Launch} (h : RecordsLaunch s ln l)
include h

theorem noneLeft : l.tasks.any (fun t => !taskEnded t) = false := by
  simpa using h.ended

theorem noneDirty : (((l.units.filter (fun u => u.2.1 == 0)).map (fun u => dieNo u.2.2.2)).eraseDups).any (anyDirty s) = false := by
  rw [List.any_eq_false]
  intro d hd
  obtain ⟨u, hu, rfl⟩ := List.mem_map.1 (List.mem_eraseDups.1 hd)
  obtain ⟨hu, h0⟩ := List.mem_filter.1 hu
  simp [h.clean u hu (by simpa using h0)]

theorem writes_body (hp : l.posted = none) : exec (.launchCompletionRecord ⟨ln, []⟩) s = .next (recordBody s ln l [] (recordBytes l.status l.detail
    l.node l.queue (BitVec.ofNat 64 l.va) l.cookie l.tstart s.time (l.dwords.getD 0 0) (l.dwords.getD 1 0) (l.dwords.getD 2 0))) := by
  change execLaunchCompletionRecord ⟨ln, []⟩ s = _
  simp only [execLaunchCompletionRecord, h.launch, h.up, h.noneLeft, h.noneDirty, h.channels, hp, not_true_eq_false, Bool.false_eq_true, or_self, if_false]

theorem writes_head {ring : Bool} {va : Nat} {bs : List Byte} (hp : l.posted = some (ring, va, bs)) :
    exec (.launchCompletionRecord ⟨ln, []⟩) s = .next (recordHead s ln l [] ring va bs) := by
  change execLaunchCompletionRecord ⟨ln, []⟩ s = _
  simp only [execLaunchCompletionRecord, h.launch, h.up, h.noneLeft, h.noneDirty, h.channels, hp, not_true_eq_false, Bool.false_eq_true, or_self, if_false]

end RecordsLaunch

theorem recordBody_ok {s u : State} {ln : Nat} {l : Launch} {bs : List Byte}
    (hu : unitWrite s l.part false dataTypes (hdComp l.header + 8) (bs.drop 8) = .ok u) :
    recordBody s ln l [] bs = modLaunch u ln (fun x => { x with posted := some (false, hdComp l.header, bs) }) := by
  simp [recordBody, hu]

theorem recordHead_ok {s u : State} {ln va : Nat} {l : Launch} {ring : Bool} {bs : List Byte}
    (hu : unitWrite s (if ring then qPart (queueOf s l.queue).desc else l.part) false dataTypes va (bs.take 8) = .ok u) :
    recordHead s ln l [] ring va bs = launchOver (if ring then modQueue u l.queue (fun y => { y with count := y.count + 1 }) else u) ln := by
  simp [recordHead, hu]

/-! ### The obligation -/

/-- Settles O54, clause by clause: what acceptance reads does not depend on the accesses that it makes, and settling a graph decides of
waiting tasks alone. -/
theorem launchStepsComplete : Obligations.LaunchStepsComplete := by
  intro s q ln tk x p slot
  refine ⟨fun hup hport hen hrun hne hopen => ?_, fun l t0 hl ht0 => ?_⟩
  · have htakes : TakesEntry s q := ⟨hup, hport, hen, hrun, hne, hopen⟩
    refine ⟨fun bad hbad => ?_, ?_⟩
    · refine ⟨_, queueEntryAccept_halts htakes hbad, ?_, ?_, rfl, rfl⟩
      · rw [queueOf_haltLogged]; exact qHalted_or_two _
      · rw [queueOf_haltLogged]
    · intro eb hb heb h0 h1 hhb h lv r hsound hready
      exact queueEntryAccept_launch htakes ⟨rfl, heb, h0, h1, hhb, rfl, hsound, hready⟩
  · intro n cc c
    refine ⟨fun hup hcut hrun v ty pfn u hword => ⟨fun hsel hloop => ?_, fun hk => ?_, fun hk => ?_, fun hk hex hiter => ?_⟩,
      fun hends hrun hdone => ?_, fun hends hended hclean hopen => ?_⟩
    · obtain ⟨t, info, ts, hexec, hmem, hlaunch⟩ := ReadsWord.evaluates_bad ⟨hl, ht0, hup, hcut, hrun, hloop, hword⟩ hsel
      refine ⟨t, _, hexec, hlaunch, hmem, fun h => ?_, fun h => ?_⟩ <;> simp [noteStatus, h]
    · have hread : ReadsWord s ln tk l t0 v ty pfn u := ⟨hl, ht0, hup, hcut, hrun, fun h => absurd (hk.symm.trans h) (by decide), hword⟩
      obtain ⟨ts, hts, htk⟩ := controlDone_task hread.launch' ht0 (some (if conditionHolds v c cc then 1 else 0))
      exact ⟨_, _, _, hread.evaluates_conditional hk, hts, htk, rfl, rfl⟩
    · have hread : ReadsWord s ln tk l t0 v ty pfn u := ⟨hl, ht0, hup, hcut, hrun, fun h => absurd (hk.symm.trans h) (by decide), hword⟩
      intro w
      obtain ⟨ts, hts, htk⟩ := controlDone_task hread.launch' ht0 (some (if w ≤ 7 ∧ (∃ e ∈ l.edges, egFrom e = t0.node ∧ egSel e = w) then w else 8))
      exact ⟨_, _, _, hread.evaluates_switch hk, hts, htk, rfl, rfl⟩
    · have hread : ReadsWord s ln tk l t0 v ty pfn u := ⟨hl, ht0, hup, hcut, hrun, fun _ => ⟨hex, hiter⟩, hword⟩
      refine ⟨fun hmore hroom => ?_, fun hmore => ?_⟩
      · obtain ⟨t, ts, hexec, hlaunch, htk⟩ := hread.evaluates_loop_on hk hmore hroom
        exact ⟨t, _, _, hexec, hlaunch, htk, rfl, hex⟩
      · exact ⟨_, _, _, hread.evaluates_loop_off hk hmore, launchOf_modTask u ln tk _ hread.launch', getElem?_lmod_self _ ht0, rfl, rfl, rfl, rfl⟩
    · obtain ⟨t, ts, hexec, hlaunch, htk⟩ := nodeCompletion_completes hl ht0 hends hrun hdone
      exact ⟨t, _, _, hexec, hlaunch, htk, rfl, noteStatus_status ..⟩
    · have hrec : RecordsLaunch s ln l := ⟨hl, hends, hended, hclean, hopen⟩
      refine ⟨fun u hp hu => ?_, fun va cs u hp hu => ?_, fun va cs u hp hu => ?_⟩
      · refine ⟨_, (hrec.writes_body hp).trans (congrArg _ (recordBody_ok hu)), rfl, ?_, (unitWrite_queues hu :), fun m hm => ?_⟩
        · rw [launchOf_modLaunch_self, launchOf_congr (unitWrite_launches hu), hl]; rfl
        · rw [launchOf_modLaunch_ne _ _ hm, launchOf_congr (unitWrite_launches hu)]
      · refine ⟨_, (hrec.writes_head hp).trans (congrArg _ (recordHead_ok (ring := false) hu)), rfl, launchOf_launchOver_self .., (unitWrite_queues hu :), fun m hm => ?_⟩
        rw [launchOf_launchOver_ne _ hm]; exact launchOf_congr (unitWrite_launches hu) m
      · refine ⟨_, (hrec.writes_head hp).trans (congrArg _ (recordHead_ok (ring := true) hu)), rfl, launchOf_launchOver_self .., ?_, fun m hm => ?_⟩
        · rw [← queueOf_congr (unitWrite_queues hu)]; exact queueOf_modQueue_self u l.queue fun y => { y with count := y.count + 1 }
        · rw [launchOf_launchOver_ne _ hm]; exact launchOf_congr (unitWrite_launches hu) m

end Sys2Proof.Machine
end

section
/-! The start of a gang whose leaves resume (R58, R339). -/

namespace Sys2Proof.Machine

/-! ### Jobs restored before a gang starts -/

/-- A fold of steps that keep a view of the state keeps it. -/
theorem foldl_keeps {α β : Type} (view : State → β) {f : State → α → State} (h : ∀ s x, view (f s x) = view s) (l : List α) (s : State) :
    view (l.foldl f s) = view s := by
  induction l generalizing s with
  | nil => rfl
  | cons x r ih => rw [List.foldl_cons, ih, h]

@[simp] theorem restoreJobs_slots (s : State) (g : Nat) (leaf : Option Bound) : (restoreJobs s g leaf).slots = s.slots := by
  simp only [restoreJobs]
  split
  · rfl
  · exact foldl_keeps State.slots (fun _ _ => by rfl) _ s

/-- A gang of two resident leaves, one of which resumes and has jobs that are still to be told to restore, chooses no start: its
step tells them (R339), and the scoreboard stays. -/
theorem gangStart_restores_first {s : State} {g g' ln : Nat} {x y : Slot} (hs : s.slots = [(g, [x]), (g', [y])])
    (hx : x.launch = ln) (hy : y.launch = ln) (ht : y.task = x.task) (hg : x.gang.isSome = true) (hg' : y.gang = x.gang)
    (hxr : x.state = .resident) (hyr : y.state = .resident) (ho : jobsOwed s g x = true) :
    ∃ t, exec (.gangStart ln x.order) s = .next t ∧ t.slots = s.slots := by
  refine ⟨[(g, x), (g', y)].foldl (fun s e => if e.2.resume then restoreJobs s e.1 (some (slotLeaf s e.2)) else s) s, ?_, ?_⟩
  · change execGangStart ln x.order s = _
    simp [execGangStart, hs, hx, hy, ht, hg, hg', hxr, hyr, ho, residentSlot]
  · simp only [List.foldl_cons, List.foldl_nil]
    split <;> split <;> simp

/-! ### A gang of two that was pre-empted with a fresco job -/

/-- A launch of one kernel node whose one level is a gang of two leaves, both placed. -/
def pairLaunch : Launch :=
  { part := 0, queue := 0, entry := 0, va := 0x210000, cookie := 0, header := 0, levels := [0x80000002], nodes := [0], edges := [], tstart := 0
    tasks := [{ newTask 0 [] with state := .running, placed := 2 }], units := [], status := 0, node := 0xFFFF, detail := 0, dwords := [0, 0, 0]
    cut := false, posted := none, ended := false }

/-- The entry with which leaf j of that gang resumes on hand j, resident there. -/
def resumingSlot (j : Nat) : Slot :=
  { launch := 7, task := 0, leaf := j, windows := [(0, 1), (0, 1), (0, 1)], state := .resident, gang := some (0, 0), start := none, resume := true, order := j + 1 }

/-- The context saved for leaf j, with the fresco contexts of its spilled jobs. -/
def savedLeaf (j : Nat) (jobs : List Nat) : Preempt :=
  { by_ := 0, saved := true, time := 0, order := j
    leaf := some { launch := 7, task := 0, leaf := j, codeBase := 0, codeLen := 0, windows := [(0, 1), (0, 1), (0, 1)] }
    image := Hand.reset, slot := none, copies := [], cmds := [], jobs := jobs }

/-- Both leaves of the gang are resident for their resumption, and the job of leaf 0 in fresco context 0 stands spilled. -/
def owedGang : State :=
  { State.reset with
    launches := [(7, pairLaunch)]
    slots := [(0, [resumingSlot 0]), (1, [resumingSlot 1])]
    preempts := [(0, savedLeaf 0 [0]), (1, savedLeaf 1 [])]
    channels := [(0, { Channel.reset with ctx := [(0, { Context.reset with state := .spilled, spiller := 2 })] })] }

theorem owedGang_owes : jobsOwed owedGang 0 (resumingSlot 0) = true := by decide +kernel

/-- Refutes O55: its clause that a gang of resident leaves is given a start at the first step leaves out that a leaf may resume. Where the
jobs spilled for one are still to be restored, that step restores them (R339) and no start is chosen yet. -/
theorem not_dispatchStepsComplete : ¬ Obligations.DispatchStepsComplete := by
  intro h
  obtain ⟨-, -, -, hgang, -⟩ := h owedGang 0 0 1 0 0 7 0 1 (resumingSlot 0) (resumingSlot 1) pairLaunch (newTask 0 [])
  obtain ⟨hstart, -⟩ := hgang (by decide) rfl rfl rfl rfl rfl rfl rfl (by decide) rfl rfl
  obtain ⟨t, ht, hslot, -⟩ := hstart rfl
  obtain ⟨u, hu, hslots⟩ := gangStart_restores_first (s := owedGang) rfl rfl rfl rfl rfl rfl rfl rfl owedGang_owes
  obtain rfl : t = u := Host.Outcome.next.inj (ht.symm.trans hu)
  rw [slotsOf, hslots] at hslot
  exact absurd hslot (by decide)

end Sys2Proof.Machine
end

section
/-! What the machine holds after reset (R37, R52, R54, R65, R353). -/

namespace Sys2Proof.Machine

/-! ### Each unit at its reset value -/

theorem handOf_reset (g : Nat) : handOf State.reset g = Hand.reset := rfl
theorem partOf_reset (p : Nat) : partOf State.reset p = Part.reset := rfl
theorem queueOf_reset (q : Nat) : queueOf State.reset q = HwQueue.reset := rfl

/-- No sequencer has been started. -/
theorem sqOf_reset (g : Nat) (q : SeqId) : sqOf State.reset g q = Seqr.reset := by cases q <;> rfl

theorem canIssue_reset (g : Nat) (q : SeqId) : canIssue State.reset g q = false := by
  simp [canIssue, sqOf_reset, Seqr.reset]

theorem regGet_reset (n : BitVec 5) : regGet Seqr.reset n = 0 := by
  simp [regGet, Seqr.reset]

theorem memGet_reset (a : Nat) : memGet State.reset.mem a = 0 := by
  simp [memGet, unlisted, State.reset, Memory.empty, cellAt]

/-- Settles O41: each unit reads as its reset value, from which the fields follow. -/
theorem resetState : Obligations.ResetState := by
  refine ⟨memWf_reset, memGet_reset, rfl, rfl, rfl, fun g => ?_, fun p => ?_, fun n => rfl, fun q => ?_⟩
  · rw [handOf_reset]
    exact ⟨rfl, rfl, rfl, rfl, rfl, rfl, rfl, rfl, canIssue_reset g, fun q n => by rw [sqOf_reset, regGet_reset], rfl⟩
  · rw [partOf_reset]
    exact ⟨by decide, by decide, by decide, fun l => rfl⟩
  · rw [queueOf_reset]
    exact ⟨rfl, rfl, rfl⟩

end Sys2Proof.Machine
end

section
/-! What the host sends: its writes and reads, and the tails that it releases entries with (R36 to R41, R43, R172). -/

namespace Sys2Proof.Machine

/-! ### Delivery contexts (R36, R43) -/

theorem ctxGet_congr {s t : State} (h : t.ctxs = s.ctxs) (c : Nat) : ctxGet t c = ctxGet s c := by simp only [ctxGet, h]

theorem ctxGet_modDelivery_self (s : State) (ctx : Nat) (f : Delivery → Delivery) : ctxGet (modDelivery s ctx f) ctx = (ctxGet s ctx).map f := by
  simp only [ctxGet, modDelivery, find?_map_keyed, if_true]

theorem ctxGet_cons_self (s : State) (ctx : Nat) (c : Delivery) : ctxGet { s with ctxs := (ctx, c) :: s.ctxs } ctx = some c := by
  simp [ctxGet]

theorem ctxGet_cons_ne (s : State) {ctx x : Nat} (c : Delivery) (h : x ≠ ctx) : ctxGet { s with ctxs := (ctx, c) :: s.ctxs } x = ctxGet s x := by
  simp [ctxGet, h.symm]

/-- A closed context is known no more. -/
theorem ctxGet_filter_self (s : State) (ctx : Nat) : ctxGet { s with ctxs := s.ctxs.filter (fun e => e.1 != ctx) } ctx = none := by
  simp [ctxGet, List.find?_filter]

/-- R36: a context that asks for RUDI, for RCCC or for no security, at a port that is down or for a partition that does not exist, is refused. -/
theorem deliveryContextEstablishment_refused {s : State} {ctx : Nat} {part port : Nat} {mode : CtxMode} {rccc secure : Bool}
    (h : mode = .rudi ∨ rccc = true ∨ secure = false ∨ portUp s port = false ∨ (partOf s part).exists_ = false) :
    exec (.deliveryContextEstablishment ctx ⟨part, port⟩ mode rccc secure) s = .next (emit s (.refused 1)) := by
  change execDeliveryContextEstablishment ctx ⟨part, port⟩ mode rccc secure s = _
  refine if_pos ?_
  simp only [Bool.not_eq_true]
  grind

/-- R36: any other is established, with nothing written and no tail held. -/
theorem deliveryContextEstablishment_established {s : State} {ctx : Nat} {part port : Nat} {mode : CtxMode} {rccc secure : Bool}
    (hnone : ctxGet s ctx = none) (hmode : mode ≠ .rudi) (hrccc : rccc = false) (hsecure : secure = true) (hport : portUp s port = true)
    (hpart : (partOf s part).exists_ = true) :
    exec (.deliveryContextEstablishment ctx ⟨part, port⟩ mode rccc secure) s = .next { s with ctxs :=
      (ctx, { part := part, port := port, rod := mode == .rod, wdone := 0, open_ := false, tails := [], begun := [] }) :: s.ctxs } := by
  change execDeliveryContextEstablishment ctx ⟨part, port⟩ mode rccc secure s = _
  refine if_neg ?_
  simp [hnone, hmode, hrccc, hsecure, hport, hpart]

/-! ### What the accesses of units leave alone -/

section
variable {s t : State} (h : TouchesChannels s t)
include h

theorem TouchesChannels.hands : t.hands = s.hands := by obtain ⟨_, _, rfl, -⟩ := h; rfl
theorem TouchesChannels.ctxs : t.ctxs = s.ctxs := by obtain ⟨_, _, rfl, -⟩ := h; rfl
theorem TouchesChannels.outbox : t.outbox = s.outbox := by obtain ⟨_, _, rfl, -⟩ := h; rfl

end

/-! ### Ranges on one page -/

theorem unitPages_length {s : State} {part : Nat} {sup rd wr : Bool} {types : List PageType} {l : List Touch} {ps : List Page}
    (h : unitPages s part sup rd wr types l = .ok ps) : ps.length = l.length := by
  induction l generalizing ps with
  | nil => cases h; rfl
  | cons x r ih =>
    simp only [unitPages] at h
    split at h
    · cases h
    · split at h
      · cases h
      · split at h
        · cases h
        · next hr => cases h; simp [ih hr]

/-- A range that translates to one page is one touch. -/
theorem splitRange_onePage {s : State} {part va len : Nat} {sup rd wr : Bool} {types : List PageType} {p : Page}
    (h : unitPages s part sup rd wr types (splitRange va len) = .ok [p]) (hlen : 0 < len) : splitRange va len = [{ va := va, len := len }] := by
  have hn : (va % 4096 + len + 4095) / 4096 = 1 := by
    have := unitPages_length h
    simpa [splitRange] using this.symm
  have hlo : max va (4096 * (va / 4096 + 0)) = va := by omega
  have hhi : min (va + len) (4096 * (va / 4096 + 0 + 1)) - va = len := by omega
  simp only [splitRange, hn, List.range_one, List.map_cons, List.map_nil, hlo, hhi]

/-! ### Writes and reads of the host (R172) -/

/-- Bytes of a write on one page, its channels taking them, reach memory and change nothing else but the channels. -/
theorem hostStore_onePage {s : State} {part va : Nat} {bs : List Byte} {p : Page} (hbs : bs ≠ []) (ht : unitsOpen s (rangeTables s part va bs.length) = true)
    (hp : unitPages s part false false true dataTypes (splitRange va bs.length) = .ok [p]) (ho : rangeOpen s va bs.length [p] = true) :
    ∃ v, TouchesChannels { s with mem := memWrite s.mem (physOf p va) bs } v ∧ hostStore s part va bs = .ok (true, v) := by
  have hs := splitRange_onePage hp (List.length_pos_iff.2 hbs)
  have hw : TouchesChannels { s with mem := memWrite s.mem (physOf p va) bs } { walkTouched s p.part va with mem := memWrite s.mem (physOf p va) bs } := by
    obtain ⟨cs, ks, hu, ho⟩ := touches_walkTouched s p.part va
    exact ⟨cs, ks, by rw [hu], ho⟩
  refine ⟨_, hw.trans (touches_chanWrote _ (physOf p va)), ?_⟩
  simp only [hostStore, ht, hp, ho, not_true_eq_false, if_false]
  simp [hs]

section
variable {s : State} {ctx va : Nat} {c : Delivery} (hc : ctxGet s ctx = some c) (hport : portUp s c.port = true)

include hc hport

theorem hostRmaWrite_onePage {bs : List Byte} {p : Page} {last : Bool} (hbs : bs ≠ []) (ht : unitsOpen s (rangeTables s c.part va bs.length) = true)
    (hp : unitPages s c.part false false true dataTypes (splitRange va bs.length) = .ok [p]) (ho : rangeOpen s va bs.length [p] = true) :
    ∃ t, exec (.hostRmaWrite ctx va ⟨bs, last⟩) s = .next t ∧ t.mem = memWrite s.mem (physOf p va) bs ∧ t.hands = s.hands ∧
      ctxGet t ctx = some { c with open_ := !last, wdone := if last then c.wdone + 1 else c.wdone } := by
  obtain ⟨v, hv, hstore⟩ := hostStore_onePage hbs ht hp ho
  refine ⟨modDelivery v ctx (fun c => { c with open_ := !last, wdone := if last then c.wdone + 1 else c.wdone }), ?_, hv.mem, hv.hands, ?_⟩
  · change Host.Outcome.next (hostWrite s ctx va bs last) = _
    simp [hostWrite, hc, hport, hstore]
  · rw [ctxGet_modDelivery_self, ctxGet_congr hv.ctxs]
    exact congrArg _ hc

/-- A write whose translation fails is answered with an error. -/
theorem hostRmaWrite_fault {bs : List Byte} {f : Nat × XlFault} {last : Bool} (ht : unitsOpen s (rangeTables s c.part va bs.length) = true)
    (hp : unitPages s c.part false false true dataTypes (splitRange va bs.length) = .error f) :
    exec (.hostRmaWrite ctx va ⟨bs, last⟩) s = .next (modDelivery (emit s (.rmaError ctx)) ctx (fun c => { c with open_ := false })) := by
  change Host.Outcome.next (hostWrite s ctx va bs last) = _
  simp [hostWrite, hostStore, hc, hport, ht, hp]

/-- A read of bytes on one page, no earlier write of its context being under way where it is ROD, answers with memory. -/
theorem hostRmaRead_onePage {n : Nat} {p : Page} (hn : 0 < n) (hrod : c.rod = false ∨ c.open_ = false)
    (ht : unitsOpen s (rangeTables s c.part va n) = true) (hp : unitPages s c.part false true false dataTypes (splitRange va n) = .ok [p])
    (ho : rangeOpen s va n [p] = true) :
    exec (.hostRmaRead ctx va n) s = .next (emit (unitTouched s false va n [p]) (.rmaRead ctx (memRead s.mem (physOf p va) n))) := by
  have hs := splitRange_onePage hp hn
  have hfree : ¬(c.rod = true ∧ c.open_ = true) := by
    rintro ⟨hr, hopen⟩
    rcases hrod with h | h
    · rw [h] at hr; cases hr
    · rw [h] at hopen; cases hopen
  change Host.Outcome.next (hostRead s ctx va n) = _
  simp only [hostRead, hc, hport, hfree, ht, hp, ho, not_true_eq_false, or_self, if_false]
  simp [hs]

end

/-! ### Tails (R39 to R41, R43) -/

/-- What posting a record may change of its queue: HALTED, which it may set, and the count of records (R44, R345). -/
def RecordPosted (x y : HwQueue) : Prop := ∃ d n, y = { x with desc := d, count := n } ∧ (d = x.desc ∨ d = x.desc ||| 2)

/-- A halted queue stays halted. -/
theorem RecordPosted.halted {x y : HwQueue} (h : RecordPosted { x with desc := x.desc ||| 2 } y) :
    qHalted y.desc = true ∧ y.taild = x.taild ∧ y.head = x.head := by
  obtain ⟨d, n, rfl, hd⟩ := h
  refine ⟨?_, rfl, rfl⟩
  rcases hd with rfl | rfl <;> exact qHalted_or_two _

theorem postQueue_posts (s : State) (q : Nat) (bad : Bool) (bs : List Byte) :
    (postQueue s q bad bs).ctxs = s.ctxs ∧ RecordPosted (queueOf s q) (queueOf (postQueue s q bad bs) q) := by
  have hhalt : ∀ arg, RecordPosted (queueOf s q) (queueOf (haltLogged s q arg) q) := fun arg => ⟨_, _, queueOf_haltLogged s q arg, .inr rfl⟩
  simp only [postQueue]
  split
  · exact ⟨rfl, hhalt _⟩
  · split
    · exact ⟨rfl, hhalt _⟩
    · next u hu =>
      obtain ⟨v, hv, hm⟩ := unitWrite_ok hu
      have hctxs : u.ctxs = s.ctxs := by rw [hm]; exact hv.ctxs
      refine ⟨hctxs, (queueOf s q).desc, (queueOf s q).count + 1, ?_, .inl rfl⟩
      rw [queueOf_modQueue_self, queueOf_congr (unitWrite_queues hu)]

theorem postEvent_posts (s : State) (q status : Nat) (bad : Bool) (t : Nat) :
    (postEvent s q status bad t).ctxs = s.ctxs ∧ RecordPosted (queueOf s q) (queueOf (postEvent s q status bad t) q) :=
  postQueue_posts { s with fresh := s.fresh + 3 } q bad _

/-- Closing a context forgets it, whatever becomes of the records of its held tails (R43). -/
theorem deliveryContextClose_closes {s : State} {ctx : Nat} {c : Delivery} (hc : ctxGet s ctx = some c)
    (hrings : ∀ tl ∈ c.tails, ringOpen s (tailQueue tl) = true) (bad : List Nat) :
    ∃ t, exec (.deliveryContextClose ⟨ctx, bad⟩) s = .next t ∧ t.ctxs = s.ctxs.filter (fun e => e.1 != ctx) ∧
      (c.tails = [] → t = { s with ctxs := s.ctxs.filter (fun e => e.1 != ctx) }) := by
  have hopen : c.tails.all (fun t => ringOpen s (tailQueue t)) = true := List.all_eq_true.2 hrings
  refine ⟨_, ?_, foldl_keeps State.ctxs (fun u x => (postEvent_posts (countError u ctx) (tailQueue x.2) 17 (bad.contains x.1) (tailTail x.2).toNat).1)
    (List.zip (List.range c.tails.length) c.tails) { s with ctxs := s.ctxs.filter (fun e => e.1 != ctx) }, fun h => ?_⟩
  · change execDeliveryContextClose ⟨ctx, bad⟩ s = _
    simp only [execDeliveryContextClose, hc, hopen, not_true_eq_false, if_false]
  · rw [h]; rfl

/-- A message that R39 excludes is dropped and counted. -/
theorem tailMessage_dropped {s : State} {ctx : Nat} {c : Delivery} {tag : Word} {payload : BitVec 128} (hc : ctxGet s ctx = some c)
    (hport : portUp s c.port = true) (h : tag ≠ 0x5441494C ∨ fld payload 63 8 ≠ 0 ∨ c.rod = false ∨
      qEn (queueOf s (tailQueue payload)).desc = false ∨ qPart (queueOf s (tailQueue payload)).desc ≠ c.part) :
    exec (.tailMessage ctx tag payload) s = .next (countError s ctx) := by
  change execTailMessage ctx tag payload s = _
  simp only [← Bool.not_eq_true] at h
  simp only [execTailMessage, hc, hport, not_true_eq_false, if_false, if_pos h]

/-- A tail that it admits is held behind those of its context. -/
theorem tailMessage_held {s : State} {ctx : Nat} {c : Delivery} {payload : BitVec 128} (hc : ctxGet s ctx = some c)
    (hport : portUp s c.port = true) (hzero : fld payload 63 8 = 0) (hrod : c.rod = true)
    (hen : qEn (queueOf s (tailQueue payload)).desc = true) (hpart : qPart (queueOf s (tailQueue payload)).desc = c.part) :
    exec (.tailMessage ctx 0x5441494C payload) s = .next (modDelivery s ctx (fun c => { c with tails := c.tails ++ [payload] })) := by
  change execTailMessage ctx 0x5441494C payload s = _
  simp [execTailMessage, hc, hport, hzero, hrod, hen, hpart]

/-- The oldest held tail is presented once the writes before it are done (R40). -/
theorem tailPresent_presents {s : State} {ctx : Nat} {c : Delivery} {tl : BitVec 128} {r : List (BitVec 128)} (hc : ctxGet s ctx = some c)
    (htails : c.tails = tl :: r) (hring : ringOpen s (tailQueue tl) = true) (hdone : (c.wdone - tailPrior tl).toNat < 2 ^ 31) (bad : Bool) :
    exec (.tailPresent ⟨ctx, bad⟩) s =
      .next (presentTail (modDelivery s ctx (fun c => { c with tails := r })) (tailQueue tl) bad (tailTail tl)) := by
  change execTailPresent ⟨ctx, bad⟩ s = _
  simp only [execTailPresent, hc, htails, if_neg (Nat.not_le.2 hdone), hring, not_true_eq_false, if_false]

section
variable (s : State) (q : Nat) (bad : Bool) (v : BitVec 32)

theorem presentTail_ctxs : (presentTail s q bad v).ctxs = s.ctxs := by
  simp only [presentTail]
  split
  · rfl
  · split
    · exact (postEvent_posts (haltQueue s q) q 16 bad v.toNat).1
    · split <;> rfl

variable {s q v}

/-- A halted queue counts the tail and drops it. -/
theorem presentTail_halted (h : qHalted (queueOf s q).desc = true) :
    queueOf (presentTail s q bad v) q = { queueOf s q with drops := (queueOf s q).drops + 1 } ∧ (presentTail s q bad v).mem = s.mem := by
  rw [show presentTail s q bad v = modQueue s q (fun y => { y with drops := y.drops + 1 }) from if_pos h]
  exact ⟨queueOf_modQueue_self .., rfl⟩

variable (hrun : qHalted (queueOf s q).desc = false)
include hrun

/-- A lap halts the queue, whether or not its record is written, and moves neither TAILD nor HEAD. -/
theorem presentTail_lap (hlap : 2 ^ qLogN (queueOf s q).desc < (v - (queueOf s q).head).toNat) :
    qHalted (queueOf (presentTail s q bad v) q).desc = true ∧ (queueOf (presentTail s q bad v) q).taild = (queueOf s q).taild ∧
    (queueOf (presentTail s q bad v) q).head = (queueOf s q).head := by
  have hpost := (postEvent_posts (haltQueue s q) q 16 bad v.toNat).2
  rw [haltQueue, queueOf_modQueue_self] at hpost
  simp only [presentTail, hrun, Bool.false_eq_true, if_false, if_pos hlap]
  exact hpost.halted

variable (hroom : (v - (queueOf s q).head).toNat ≤ 2 ^ qLogN (queueOf s q).desc)
include hroom

/-- A tail older than the present one counts as stale. -/
theorem presentTail_stale (h : (v - (queueOf s q).head).toNat < ((queueOf s q).taild - (queueOf s q).head).toNat) :
    queueOf (presentTail s q bad v) q = { queueOf s q with stale := (queueOf s q).stale + 1 } ∧ (presentTail s q bad v).mem = s.mem := by
  simp only [presentTail, hrun, Bool.false_eq_true, if_false, if_neg (Nat.not_lt.2 hroom), if_pos h]
  exact ⟨queueOf_modQueue_self .., rfl⟩

/-- Any other tail moves TAILD. -/
theorem presentTail_moves (h : ((queueOf s q).taild - (queueOf s q).head).toNat ≤ (v - (queueOf s q).head).toNat) :
    queueOf (presentTail s q bad v) q = { queueOf s q with taild := v } ∧ (presentTail s q bad v).mem = s.mem := by
  simp only [presentTail, hrun, Bool.false_eq_true, if_false, if_neg (Nat.not_lt.2 hroom), if_neg (Nat.not_lt.2 h)]
  exact ⟨queueOf_modQueue_self .., rfl⟩

end

/-! ### The obligation -/

/-- Settles O52, message by message: a range that translates to one page is one access, the accesses of units leave contexts and hands
alone, and the record of a lap leaves its queue halted whether or not it can be written. -/
theorem hostMessagesComplete : Obligations.HostMessagesComplete := by
  intro s ctx va c
  refine ⟨fun part port mode rccc secure hnone => ⟨deliveryContextEstablishment_refused, fun hmode hrccc hsecure hport hpart => ?_⟩, fun hc => ?_⟩
  · exact ⟨_, deliveryContextEstablishment_established hnone hmode hrccc hsecure hport hpart, rfl, rfl, ctxGet_cons_self .., fun x hx => ctxGet_cons_ne s _ hx⟩
  refine ⟨fun bad hrings => ?_, fun hport => ?_, fun hport => ⟨?_, ?_, ?_, ?_, ?_⟩, ?_⟩
  · obtain ⟨t, hexec, hctxs, hnone⟩ := deliveryContextClose_closes hc hrings bad
    exact ⟨t, hexec, (ctxGet_congr hctxs ctx).trans (ctxGet_filter_self s ctx), hnone⟩
  · change execUeAtomicRequest ctx s = _
    simp [execUeAtomicRequest, hc, hport]
  · change execUeAtomicRequest ctx s = _
    simp [execUeAtomicRequest, hc, hport, emit]
  · intro bs p last hbs ht hp ho
    exact hostRmaWrite_onePage hc hport hbs ht hp ho
  · intro bs f last ht hp
    refine ⟨_, hostRmaWrite_fault hc hport ht hp, rfl, ?_, rfl, rfl⟩
    rw [ctxGet_modDelivery_self]
    exact congrArg _ hc
  · intro n p hn hrod ht hp ho
    have hu := touches_unitTouched s false va n [p]
    exact ⟨_, hostRmaRead_onePage hc hport hn hrod ht hp ho, congrArg _ hu.outbox, hu.mem, hu.ctxs, hu.hands⟩
  · refine fun tag payload => ⟨?_, fun h => ?_⟩
    · rintro rfl hzero hrod hen hpart
      refine ⟨_, tailMessage_held hc hport hzero hrod hen hpart, ?_, rfl, rfl⟩
      rw [ctxGet_modDelivery_self, hc]; rfl
    · exact ⟨_, tailMessage_dropped hc hport h, rfl, rfl, rfl, tget_tmod_self 0 s.pkg.errs ctx _⟩
  · intro tl r bad htails hring hdone q x v
    refine ⟨_, tailPresent_presents hc htails hring hdone bad, ?_, fun hhalted => presentTail_halted bad hhalted,
      fun hrun hlap => presentTail_lap bad hrun hlap, fun hrun hroom hstale => presentTail_stale bad hrun hroom hstale,
      fun hrun hroom hnew => presentTail_moves bad hrun hroom hnew⟩
    rw [ctxGet_congr (presentTail_ctxs ..), ctxGet_modDelivery_self, hc]; rfl

end Sys2Proof.Machine
end

section
/-! What the supervisor asks of the management controller (R37, R41, R46, R48, R52). -/

namespace Sys2Proof.Machine

/-! ### Units after an update -/

theorem queueOf_modQueue_ne (s : State) {q q' : Nat} (f : HwQueue → HwQueue) (h : q' ≠ q) : queueOf (modQueue s q f) q' = queueOf s q' := by
  simp [queueOf, modQueue, h]

theorem partOf_modPart_self (s : State) (p : Nat) (f : Part → Part) : partOf (modPart s p f) p = f (partOf s p) := by
  simp [partOf, modPart]

theorem partOf_modPart_ne (s : State) {p p' : Nat} (f : Part → Part) (h : p' ≠ p) : partOf (modPart s p f) p' = partOf s p' := by
  simp [partOf, modPart, h]

theorem partOf_congr {s t : State} (h : t.parts = s.parts) (p : Nat) : partOf t p = partOf s p := by simp only [partOf, h]

theorem easelOf_modEasel (s : State) (e e' : Nat) (f : Easel → Easel) :
    easelOf (modEasel s e f) e' = if e' = e then f (easelOf s e) else easelOf s e' := tget_tput ..

theorem chanOf_modChan (s : State) (c c' : Nat) (f : Channel → Channel) :
    chanOf (modChan s c f) c' = if c' = c then f (chanOf s c) else chanOf s c' := tget_tput ..

/-- What a step for k sets, and every step keeps, holds after a fold over a list that names k. -/
theorem foldl_sets {α : Type} {f : State → α → State} {P : State → Prop} {k : α} (hset : ∀ s, P (f s k)) (hkeep : ∀ s x, P s → P (f s x))
    {l : List α} (hk : k ∈ l) (s : State) : P (l.foldl f s) := by
  have keeps : ∀ (l : List α) (s : State), P s → P (l.foldl f s) := by
    intro l
    induction l with
    | nil => exact fun _ h => h
    | cons x r ih => exact fun s h => ih _ (hkeep s x h)
  induction l generalizing s with
  | nil => cases hk
  | cons x r ih =>
    rcases List.mem_cons.1 hk with rfl | hr
    · exact keeps r _ (hset s)
    · exact ih hr _

/-! ### Requests to the controller -/

theorem asked_up {s : State} (h : mcUp s = true) (k : Res) : asked s k = k := if_pos h

/-- A controller that is off takes nothing. -/
theorem asked_down {s : State} (h : mcUp s = false) (k : Res) : asked s k = .next s := by
  simp [asked, h]

/-! ### Tails dropped with their queue (R37, R48) -/

/-- A delivery context without the tails that it holds for a queue. -/
def withoutTails (q : Nat) (c : Delivery) : Delivery := { c with tails := c.tails.filter (fun t => tailQueue t != q) }

/-- The tails that one context holds for a queue discarded and counted. -/
def dropContext (q : Nat) (s : State) (e : Nat × Delivery) : State :=
  if e.2.tails.filter (fun t => tailQueue t == q) = [] then s
  else (e.2.tails.filter (fun t => tailQueue t == q)).foldl (fun s _ => countError s e.1) (modDelivery s e.1 (withoutTails q))

theorem dropTails_eq (s : State) (q : Nat) : dropTails s q = s.ctxs.foldl (dropContext q) s := rfl

/-- A view of the state that the contexts and the error counters are no part of. -/
theorem dropTails_view {β : Type} (view : State → β) (hmod : ∀ s c f, view (modDelivery s c f) = view s)
    (hcount : ∀ s c, view (countError s c) = view s) (s : State) (q : Nat) : view (dropTails s q) = view s := by
  rw [dropTails_eq]
  refine foldl_keeps view (fun s e => ?_) s.ctxs s
  rw [dropContext]
  split
  · rfl
  · exact (foldl_keeps view (fun s _ => hcount s e.1) _ _).trans (hmod ..)

theorem dropTails_mem (s : State) (q : Nat) : (dropTails s q).mem = s.mem := dropTails_view State.mem (fun _ _ _ => rfl) (fun _ _ => rfl) s q
theorem dropTails_queues (s : State) (q : Nat) : (dropTails s q).queues = s.queues := dropTails_view State.queues (fun _ _ _ => rfl) (fun _ _ => rfl) s q
theorem dropTails_parts (s : State) (q : Nat) : (dropTails s q).parts = s.parts := dropTails_view State.parts (fun _ _ _ => rfl) (fun _ _ => rfl) s q

/-- Whether a context holds no tail for a queue. -/
def HoldsNone (q : Nat) (c : Delivery) : Prop := ∀ t ∈ c.tails, tailQueue t ≠ q

theorem holdsNone_withoutTails (q : Nat) (c : Delivery) : HoldsNone q (withoutTails q c) := by
  intro t ht
  simpa using (List.mem_filter.1 ht).2

theorem HoldsNone.of_filter {q : Nat} {c : Delivery} (h : c.tails.filter (fun t => tailQueue t == q) = []) : HoldsNone q c := by
  intro t ht
  simpa using List.filter_eq_nil_iff.1 h t ht

/-- The entries after one context's tails are dropped: as before, or without tails for the queue, which that context is in any case. -/
theorem dropContext_ctxs {q : Nat} {s : State} {e x : Nat × Delivery} (hx : x ∈ (dropContext q s e).ctxs) :
    (x ∈ s.ctxs ∧ (x = e → HoldsNone q x.2)) ∨ HoldsNone q x.2 := by
  rw [dropContext] at hx
  split at hx
  · next h => exact .inl ⟨hx, fun he => he ▸ .of_filter h⟩
  · rw [foldl_keeps State.ctxs (f := fun s _ => countError s e.1) (fun _ _ => rfl)] at hx
    obtain ⟨y, hy, rfl⟩ := List.mem_map.1 hx
    split
    · exact .inr (holdsNone_withoutTails q y.2)
    · next h => exact .inl ⟨hy, fun he => absurd (congrArg Prod.fst he) h⟩

/-- Once the tails of the contexts of a list are dropped, every entry is one that stood before and is not in the list, or holds none. -/
theorem foldl_dropContext_ctxs {q : Nat} (l : List (Nat × Delivery)) (s : State) {x : Nat × Delivery}
    (hx : x ∈ (l.foldl (dropContext q) s).ctxs) : (x ∈ s.ctxs ∧ x ∉ l) ∨ HoldsNone q x.2 := by
  induction l generalizing s with
  | nil => exact .inl ⟨hx, List.not_mem_nil⟩
  | cons e r ih =>
    rcases ih _ hx with ⟨hmem, hr⟩ | hnone
    · rcases dropContext_ctxs hmem with ⟨hmem, he⟩ | hnone
      · by_cases hxe : x = e
        · exact .inr (he hxe)
        · exact .inl ⟨hmem, by simp [hxe, hr]⟩
      · exact .inr hnone
    · exact .inr hnone

theorem dropTails_holdsNone {s : State} {q x : Nat} {y : Delivery} (h : ctxGet (dropTails s q) x = some y) : HoldsNone q y := by
  rw [dropTails_eq] at h
  obtain ⟨e, he, rfl⟩ := Option.map_eq_some_iff.1 h
  rcases foldl_dropContext_ctxs s.ctxs s (List.mem_of_find?_eq_some he) with ⟨hmem, hnot⟩ | hnone
  · exact absurd hmem hnot
  · exact hnone

/-! ### Queue descriptors (R37, R41) -/

/-- Whether a descriptor moves its queue (R37). -/
def movesQueue (old desc : BitVec 256) : Bool :=
  qRing old != qRing desc || qComp old != qComp desc || qPart old != qPart desc || qLogN old != qLogN desc

/-- The state in which an accepted descriptor stands: one that moves the queue has restarted it (R37). -/
def descriptorTaken (s : State) (q : Nat) (desc : BitVec 256) : State :=
  if movesQueue (queueOf s q).desc desc then
    dropTails (modQueue (modQueue s q (fun x => { x with desc := desc })) q (fun x => { x with head := 0, taild := 0, count := 0 })) q
  else modQueue s q (fun x => { x with desc := desc })

theorem descriptorTaken_moves {s : State} {q : Nat} {desc : BitVec 256} (h : qRing desc ≠ qRing (queueOf s q).desc) :
    descriptorTaken s q desc =
      dropTails (modQueue (modQueue s q (fun x => { x with desc := desc })) q (fun x => { x with head := 0, taild := 0, count := 0 })) q := by
  simp [descriptorTaken, movesQueue, h.symm]

theorem descriptorTaken_mem (s : State) (q : Nat) (desc : BitVec 256) : (descriptorTaken s q desc).mem = s.mem := by
  rw [descriptorTaken]
  split
  · exact dropTails_mem ..
  · rfl

theorem queueOf_descriptorTaken_desc (s : State) (q : Nat) (desc : BitVec 256) : (queueOf (descriptorTaken s q desc) q).desc = desc := by
  rw [descriptorTaken]
  split
  · rw [queueOf_congr (dropTails_queues ..)]; simp
  · simp

theorem queueOf_descriptorTaken_ne (s : State) {q q' : Nat} (desc : BitVec 256) (h : q' ≠ q) :
    queueOf (descriptorTaken s q desc) q' = queueOf s q' := by
  rw [descriptorTaken]
  split
  · rw [queueOf_congr (dropTails_queues ..), queueOf_modQueue_ne _ _ h, queueOf_modQueue_ne _ _ h]
  · exact queueOf_modQueue_ne _ _ h

theorem queueDescriptorWrite_refused {s : State} (hup : mcUp s = true) {q : Nat} {desc : BitVec 256} (h : queueBad desc = true ∨ 256 ≤ q)
    (head : Option (BitVec 32)) : exec (.queueDescriptorWrite q desc head) s = .next (emit s (.refused 2)) := by
  change execQueueDescriptorWrite q desc head s = _
  rw [execQueueDescriptorWrite, asked_up hup]
  refine if_pos ?_
  rcases h with h | h
  · exact .inr (.inl h)
  · exact .inl h

/-- A well-formed descriptor for a queue that is not enabled is taken, and HEAD and TAILD with it where the request gives them. -/
theorem queueDescriptorWrite_taken {s : State} (hup : mcUp s = true) {q : Nat} {desc : BitVec 256} (hok : queueBad desc = false) (hq : q < 256)
    (hoff : qEn (queueOf s q).desc = false) (head : Option (BitVec 32)) : exec (.queueDescriptorWrite q desc head) s =
      .next (match head with
        | none => descriptorTaken s q desc
        | some h => modQueue (descriptorTaken s q desc) q (fun x => { x with head := h, taild := h })) := by
  change execQueueDescriptorWrite q desc head s = _
  rw [execQueueDescriptorWrite, asked_up hup]
  dsimp only
  rw [if_neg (by simp [hok, hoff, hq])]
  cases head <;> rfl

/-! ### HALTED cleared (R41) -/

theorem qHalted_clear (d : BitVec 256) : qHalted (d &&& ~~~(2 : BitVec 256)) = false := by simp [qHalted, bit]
theorem qEn_clear (d : BitVec 256) : qEn (d &&& ~~~(2 : BitVec 256)) = qEn d := by simp [qEn, bit]

/-- A queue with HALTED clear. -/
def clearHalted (x : HwQueue) : HwQueue := { x with desc := x.desc &&& ~~~(2 : BitVec 256) }

theorem haltedClear_keeps {s : State} (hup : mcUp s = true) (q : Nat) : exec (.haltedClear q none) s = .next (modQueue s q clearHalted) := by
  change execHaltedClear q none s = _
  rw [execHaltedClear, asked_up hup]
  rfl

theorem haltedClear_moves {s : State} (hup : mcUp s = true) {q : Nat} {v : BitVec 32}
    (h : (v - (queueOf s q).head).toNat ≤ 2 ^ qLogN (queueOf s q).desc) :
    exec (.haltedClear q (some v)) s = .next (modQueue (modQueue s q clearHalted) q (fun x => { x with taild := v })) := by
  change execHaltedClear q (some v) s = _
  rw [execHaltedClear, asked_up hup]
  exact if_neg (Nat.not_lt.2 h)

/-! ### Compositions (R46) -/

/-- An easel pair and a channel given to a partition at its composition. -/
def ownPair (p : Nat) (s : State) (k : Nat) : State :=
  modEasel (modEasel s (2 * k) (fun e => { e with owner := some p })) (2 * k + 1) (fun e => { e with owner := some p })
def ownChan (p : Nat) (s : State) (c : Nat) : State := modChan s c (fun x => { x with owner := some p })

/-- The easels and channels of a composition given to their partition. -/
def ownAll (s : State) (p : Nat) (pairs channels : List Nat) : State := channels.foldl (ownChan p) (pairs.foldl (ownPair p) s)

theorem ownAll_mem (s : State) (p : Nat) (pairs channels : List Nat) : (ownAll s p pairs channels).mem = s.mem :=
  (foldl_keeps State.mem (fun _ _ => by rfl) channels _).trans (foldl_keeps State.mem (fun _ _ => by rfl) pairs s)

theorem ownAll_parts (s : State) (p : Nat) (pairs channels : List Nat) : (ownAll s p pairs channels).parts = s.parts :=
  (foldl_keeps State.parts (fun _ _ => by rfl) channels _).trans (foldl_keeps State.parts (fun _ _ => by rfl) pairs s)

theorem ownAll_easels (s : State) (p : Nat) (pairs channels : List Nat) :
    (ownAll s p pairs channels).easels = (pairs.foldl (ownPair p) s).easels :=
  foldl_keeps State.easels (fun _ _ => by rfl) channels _

theorem ownPair_owner (p : Nat) (s : State) (k e : Nat) (h : e = 2 * k ∨ e = 2 * k + 1 ∨ (easelOf s e).owner = some p) :
    (easelOf (ownPair p s k) e).owner = some p := by
  simp only [ownPair, easelOf_modEasel]
  grind

theorem ownAll_easel (s : State) (p : Nat) {pairs : List Nat} (channels : List Nat) {k e : Nat} (hk : k ∈ pairs) (he : e = 2 * k ∨ e = 2 * k + 1) :
    (easelOf (ownAll s p pairs channels) e).owner = some p := by
  have hfold : (easelOf (pairs.foldl (ownPair p) s) e).owner = some p :=
    foldl_sets (P := fun s => (easelOf s e).owner = some p) (fun s => ownPair_owner p s k e (he.imp_right .inl))
      (fun s x h => ownPair_owner p s x e (.inr (.inr h))) hk s
  rw [easelOf, ownAll_easels]
  exact hfold

theorem ownAll_chan (s : State) (p : Nat) (pairs : List Nat) {channels : List Nat} {c : Nat} (hc : c ∈ channels) :
    (chanOf (ownAll s p pairs channels) c).owner = some p := by
  refine foldl_sets (P := fun s => (chanOf s c).owner = some p) (fun s => ?_) (fun s x h => ?_) hc _
  · simp [ownChan, chanOf_modChan]
  · simp only [ownChan, chanOf_modChan]
    split <;> simp [h]

theorem partitionComposition_refused {s : State} (hup : mcUp s = true) {p : Nat} {pairs channels queues : List Nat} (counters quota : Nat)
    (h : pairs = [] ∨ channels.length < 8 ∨ queues = [] ∨ 40 ≤ p) :
    exec (.partitionComposition p pairs channels queues counters quota) s = .next (emit s (.refused 4)) := by
  change execPartitionComposition p pairs channels queues counters quota s = _
  rw [execPartitionComposition, asked_up hup]
  refine if_pos ?_
  grind

/-- A partition as it is composed, with the scheduling word of its number (R52). -/
def composedPart (s : State) (p : Nat) (pairs channels queues : List Nat) (counters quota : Nat) : Part :=
  { Part.reset with sched := (partOf s p).sched, exists_ := true, pairs := pairs, chans := channels, queues := queues, nCounters := counters, quota := quota }

/-- Whether a list names what a partition that exists owns. -/
def ownedElsewhere (s : State) (f : Part → List Nat) (l : List Nat) : Bool :=
  (s.parts.filter (fun e => e.2.exists_)).any (fun e => (f e.2).any (fun x => l.contains x))

theorem ownedElsewhere_eq_false {s : State} {f : Part → List Nat} {l : List Nat} (h : ∀ e ∈ s.parts, e.2.exists_ = true → ∀ x ∈ f e.2, x ∉ l) :
    ownedElsewhere s f l = false := by
  refine List.any_eq_false.2 fun e he => ?_
  obtain ⟨hmem, hex⟩ := List.mem_filter.1 he
  simpa using h e hmem hex

theorem partitionComposition_composes {s : State} (hup : mcUp s = true) {p : Nat} {pairs channels queues : List Nat} {counters quota : Nat}
    (h : CompositionOk s p pairs channels queues counters quota) :
    exec (.partitionComposition p pairs channels queues counters quota) s =
      .next (ownAll (modPart s p (fun _ => composedPart s p pairs channels queues counters quota)) p pairs channels) := by
  obtain ⟨⟨hp, hnew⟩, ⟨hpairs, hchans, hqueues⟩, ⟨huniq, huniq', huniq''⟩, hin, hin', hin'', hfree, hslots, hcounters⟩ := h
  have hpairsFree := ownedElsewhere_eq_false (f := Part.pairs) fun e he hx => (hfree e he hx).1
  have hchansFree := ownedElsewhere_eq_false (f := Part.chans) fun e he hx => (hfree e he hx).2.1
  have hqueuesFree := ownedElsewhere_eq_false (f := Part.queues) fun e he hx => (hfree e he hx).2.2
  have hpairsIn : pairs.any (fun k => decide (64 ≤ k) || !easelReady s (2 * k) || !easelReady s (2 * k + 1)) = false := by
    rw [List.any_eq_false]; intro k hk; obtain ⟨h1, h2, h3⟩ := hin k hk; simp [h1, h2, h3]
  have hchansIn : channels.any (fun c => decide (384 ≤ c) || !channelReady s c) = false := by
    rw [List.any_eq_false]; intro c hc; obtain ⟨h1, h2⟩ := hin' c hc; simp [h1, h2]
  have hqueuesIn : queues.any (fun q => decide (256 ≤ q)) = false := by
    rw [List.any_eq_false]; intro q hq; simp [hin'' q hq]
  change execPartitionComposition p pairs channels queues counters quota s = _
  rw [execPartitionComposition, asked_up hup]
  refine if_neg ?_
  simp only [ownedElsewhere] at hpairsFree hchansFree hqueuesFree
  simp only [hnew, hpairs, hqueues, huniq, huniq', huniq'', hpairsIn, hchansIn, hqueuesIn, hpairsFree, hchansFree, hqueuesFree, Bool.false_eq_true,
    not_true_eq_false, false_or]
  omega

/-! ### Reassignment (R48) -/

theorem tget_tdel_ne {α : Type} (d : α) (t : Table α) {j k : Nat} (h : j ≠ k) : tget d (tdel t k) j = tget d t j := tget_filter_ne d t j k h

/-- What the default and every changed value satisfy, every key of a changed table satisfies. -/
theorem tget_tmap_of {α : Type} {P : α → Prop} {d : α} (hd : P d) {f : Nat → α → α} (hf : ∀ k v, P (f k v)) (t : Table α) (k : Nat) :
    P (tget d (tmap t f) k) := by
  induction t with
  | nil => exact hd
  | cons e r ih =>
    simp only [tmap, List.map_cons, tget]
    split
    · exact hf ..
    · exact ih

theorem handOf_clearHand (s : State) (g g' : Nat) : handOf (clearHand s g) g' = if g' = g then Hand.reset else handOf s g' := by
  split
  · next h => rw [h]; exact tget_tdel_self ..
  · next h => exact tget_tdel_ne _ _ h

/-- The hands of a cleared easel are empty, and no other hand changes. -/
theorem handOf_clearEasel (s : State) (e p g : Nat) : handOf (clearEasel s e p) g = if easelNo g = e then Hand.reset else handOf s g := by
  have hhands : handOf (clearEasel s e p) g = handOf ([4 * e, 4 * e + 1, 4 * e + 2, 4 * e + 3].foldl clearHand s) g := rfl
  simp only [hhands, List.foldl_cons, List.foldl_nil, handOf_clearHand, easelNo]
  grind

theorem easelOf_clearEasel (s : State) (e p e' : Nat) :
    easelOf (clearEasel s e p) e' = if e' = e then { Easel.reset with owner := some p } else easelOf s e' := tget_tput ..

theorem clearEasel_mem (s : State) (e p : Nat) : (clearEasel s e p).mem = s.mem :=
  (setEasel_mem ..).trans (foldl_keeps State.mem (fun _ _ => by rfl) [4 * e, 4 * e + 1, 4 * e + 2, 4 * e + 3] s)

theorem clearEasel_parts (s : State) (e p : Nat) : (clearEasel s e p).parts = s.parts :=
  (setEasel_parts ..).trans (foldl_keeps State.parts (fun _ _ => by rfl) [4 * e, 4 * e + 1, 4 * e + 2, 4 * e + 3] s)

/-- Both easels of a pair cleared and given to a partition. -/
def clearPair (s : State) (k p : Nat) : State := clearEasel (clearEasel s (2 * k) p) (2 * k + 1) p

theorem clearPair_mem (s : State) (k p : Nat) : (clearPair s k p).mem = s.mem := by simp only [clearPair, clearEasel_mem]
theorem clearPair_parts (s : State) (k p : Nat) : (clearPair s k p).parts = s.parts := by simp only [clearPair, clearEasel_parts]

theorem easelOf_clearPair (s : State) {k p e : Nat} (h : e = 2 * k ∨ e = 2 * k + 1) :
    easelOf (clearPair s k p) e = { Easel.reset with owner := some p } := by
  simp only [clearPair, easelOf_clearEasel]
  grind

theorem handOf_clearPair (s : State) {k p g : Nat} (h : easelNo g = 2 * k ∨ easelNo g = 2 * k + 1) : handOf (clearPair s k p) g = Hand.reset := by
  simp only [clearPair, handOf_clearEasel]
  grind

theorem chanOf_giveChannel (s : State) (c p : Nat) : chanOf (giveChannel s c p) c = { Channel.reset with owner := some p } := tget_tput_self ..

/-- No cache holds a line of a channel that has been given away. -/
theorem giveChannel_uncached (s : State) (c p d : Nat) : ∀ x ∈ (dieOf (giveChannel s c p) d).cache, chanNo x.1 ≠ c := by
  simp only [dieOf, giveChannel]
  refine tget_tmap_of (P := fun y : Die => ∀ x ∈ y.cache, chanNo x.1 ≠ c) (fun x hx => absurd hx List.not_mem_nil) (fun _ y x hx => ?_) s.dies d
  simpa using (List.mem_filter.1 hx).2

/-- A queue as it starts afresh with a new owner, none of its tails held any more (log entry 32). -/
def restartQueue (s : State) (q : Nat) : State := { dropTails s q with queues := tput s.queues q HwQueue.reset }

theorem restartQueue_mem (s : State) (q : Nat) : (restartQueue s q).mem = s.mem := by simp only [restartQueue, dropTails_mem]
theorem restartQueue_parts (s : State) (q : Nat) : (restartQueue s q).parts = s.parts := by simp only [restartQueue, dropTails_parts]
theorem queueOf_restartQueue (s : State) (q : Nat) : queueOf (restartQueue s q) q = HwQueue.reset := by simp only [queueOf, restartQueue, tget_tput_self]

theorem restartQueue_holdsNone {s : State} {q x : Nat} {y : Delivery} (h : ctxGet (restartQueue s q) x = some y) : HoldsNone q y := by
  simp only [ctxGet, restartQueue] at h
  exact dropTails_holdsNone h

/-- The partitions after a resource has passed from o to p. -/
def passed (s : State) (r : Resource) (o p : Nat) : State := modPart (modPart s o (fun x => without x r)) p (fun x => withRes x r)

theorem partOf_passed (s : State) (r : Resource) {o p : Nat} (h : o ≠ p) :
    partOf (passed s r o p) o = without (partOf s o) r ∧ partOf (passed s r o p) p = withRes (partOf s p) r := by
  rw [passed, partOf_modPart_ne _ _ h, partOf_modPart_self, partOf_modPart_self, partOf_modPart_ne _ _ h.symm]
  exact ⟨rfl, rfl⟩

/-- The resource itself, cleared for its new owner (R48 steps 2, 3), and the reassignment reported. -/
def handedOver (s : State) (r : Resource) (p : Nat) : State :=
  match r with
  | .easelPair k => emit (clearPair s k p) (.log 5 k)
  | .channel c => emit (giveChannel s c p) (.log 6 c)
  | .queue q => emit (restartQueue s q) (.log 7 q)
  | .counters _ n => emit s (.log 14 n)
  | .slots _ n => emit s (.log 15 n)

theorem handedOver_parts (s : State) (r : Resource) (p : Nat) : (handedOver s r p).parts = s.parts := by
  cases r with
  | easelPair k => simp only [handedOver, emit_parts, clearPair_parts]
  | channel c => simp only [handedOver, emit_parts, giveChannel]
  | queue q => simp only [handedOver, emit_parts, restartQueue_parts]
  | counters o n => rfl
  | slots o n => rfl

theorem handedOver_easelPair (s : State) (k p : Nat) : (handedOver s (.easelPair k) p).mem = s.mem ∧
    (∀ e, e = 2 * k ∨ e = 2 * k + 1 → easelOf (handedOver s (.easelPair k) p) e = { Easel.reset with owner := some p }) ∧
    ∀ g, easelNo g = 2 * k ∨ easelNo g = 2 * k + 1 → handOf (handedOver s (.easelPair k) p) g = Hand.reset := by
  simp only [handedOver, easelOf, handOf, emit_mem, emit_easels, emit_hands, clearPair_mem, true_and]
  exact ⟨fun e he => easelOf_clearPair s he, fun g hg => handOf_clearPair s hg⟩

theorem handedOver_channel (s : State) (c p : Nat) : (handedOver s (.channel c) p).mem = memRekey s.mem c ∧
    chanOf (handedOver s (.channel c) p) c = { Channel.reset with owner := some p } ∧
    ∀ d, ∀ x ∈ (dieOf (handedOver s (.channel c) p) d).cache, chanNo x.1 ≠ c :=
  ⟨rfl, chanOf_giveChannel .., giveChannel_uncached s c p⟩

theorem handedOver_queue (s : State) (q p : Nat) : (handedOver s (.queue q) p).mem = s.mem ∧
    queueOf (handedOver s (.queue q) p) q = HwQueue.reset ∧ ∀ x y, ctxGet (handedOver s (.queue q) p) x = some y → HoldsNone q y := by
  simp only [handedOver, emit_mem, restartQueue_mem, true_and]
  exact ⟨queueOf_restartQueue s q, fun x y hy => restartQueue_holdsNone hy⟩

theorem resourceReassignment_passes {s : State} (hup : mcUp s = true) {r : Resource} {o p : Nat} (ho : ownerOf s r = some o) (hne : o ≠ p)
    (hex : (partOf s p).exists_ = true) (hwithout : partRules (without (partOf s o) r) = true) (hwith : partRules (withRes (partOf s p) r) = true)
    (hidle : partIdle s o = true) : exec (.resourceReassignment r p) s = .next (handedOver (passed s r o p) r p) := by
  change execResourceReassignment r p s = _
  rw [execResourceReassignment, asked_up hup]
  simp only [ho, hne, hex, hwithout, hwith, hidle, not_true_eq_false, or_self, if_false]
  cases r <;> rfl

/-! ### Scheduling words (R52) -/

/-- The ready-list entries that the other partitions have. -/
def rlqOthers (s : State) (p : Nat) : Nat := (((List.range 40).filter (fun i => i != p)).map (fun i => swRlq (partOf s i).sched)).sum

theorem schedulingWordWrite_taken {s : State} (hup : mcUp s = true) {p : Nat} {w : Word} (hzero : fld w 63 55 = 0) (hgap : swGap w ≤ 31)
    (hage : swAge w = 0 ∨ (100 ≤ swAge w ∧ swAge w ≤ 1000000)) (hsum : rlqOthers s p + swRlq w ≤ 16384) :
    exec (.schedulingWordWrite p w) s = .next (modPart s p (fun x => { x with sched := w })) := by
  change execSchedulingWordWrite p w s = _
  rw [execSchedulingWordWrite, asked_up hup]
  refine if_neg ?_
  rw [rlqOthers] at hsum
  omega

theorem schedulingWordWrite_refused {s : State} (hup : mcUp s = true) {p : Nat} {w : Word} (hsum : 16384 < rlqOthers s p + swRlq w) :
    exec (.schedulingWordWrite p w) s = .next (emit s (.refused 6)) := by
  change execSchedulingWordWrite p w s = _
  rw [execSchedulingWordWrite, asked_up hup]
  exact if_pos (.inr (.inr (.inr (.inr hsum))))

/-! ### The obligation -/

/-- Settles O53, request by request: no context keeps a tail of a queue that moves, what a composition names is owned once its fold is through,
and a resource that passes on is cleared. -/
theorem supervisorRequestsComplete : Obligations.SupervisorRequestsComplete := by
  intro s p q
  refine ⟨fun hdown => ?_, fun hup => ⟨?_, ?_, ?_, ?_, ?_, ?_, ?_, ?_⟩⟩
  · exact ⟨fun _ _ => asked_down hdown _, fun _ => asked_down hdown _, fun _ _ _ _ _ => asked_down hdown _, fun _ => asked_down hdown _,
      fun _ => asked_down hdown _⟩
  · exact fun d hbad h => queueDescriptorWrite_refused hup hbad h
  · refine fun d hok hq hoff => ⟨fun h => ⟨_, queueDescriptorWrite_taken hup hok hq hoff (some h), ?_, ?_, ?_, ?_, fun q' hq' => ?_⟩,
      fun hmoves => ⟨_, queueDescriptorWrite_taken hup hok hq hoff none, queueOf_descriptorTaken_desc .., ?_, ?_, ?_, descriptorTaken_mem .., ?_⟩⟩
    · rw [queueOf_modQueue_self]; exact queueOf_descriptorTaken_desc ..
    · rw [queueOf_modQueue_self]
    · rw [queueOf_modQueue_self]
    · exact descriptorTaken_mem ..
    · rw [queueOf_modQueue_ne _ _ hq', queueOf_descriptorTaken_ne s d hq']
    all_goals rw [descriptorTaken_moves hmoves]
    · rw [queueOf_congr (dropTails_queues ..), queueOf_modQueue_self]
    · rw [queueOf_congr (dropTails_queues ..), queueOf_modQueue_self]
    · rw [queueOf_congr (dropTails_queues ..), queueOf_modQueue_self]
    · exact fun x y hy => dropTails_holdsNone hy
  · refine ⟨_, haltedClear_keeps hup q, ?_⟩
    rw [queueOf_modQueue_self]
    exact ⟨qHalted_clear _, rfl, rfl, qEn_clear _, rfl⟩
  · refine fun v hv => ⟨_, haltedClear_moves hup hv, ?_⟩
    rw [queueOf_modQueue_self, queueOf_modQueue_self]
    exact ⟨qHalted_clear _, rfl⟩
  · refine fun pairs channels queues counters quota hok => ⟨_, partitionComposition_composes hup hok, ownAll_mem .., ?_, fun k hk => ?_,
      fun c hc => ownAll_chan _ p pairs hc, fun p' hp' => ?_⟩
    · rw [partOf_congr (ownAll_parts ..), partOf_modPart_self]; rfl
    · exact ⟨ownAll_easel _ p channels hk (.inl rfl), ownAll_easel _ p channels hk (.inr rfl)⟩
    · rw [partOf_congr (ownAll_parts ..), partOf_modPart_ne _ _ hp']
  · exact fun pairs channels queues counters quota h => partitionComposition_refused hup counters quota h
  · intro r o ho hne hex hwithout hwith hidle
    obtain ⟨hold, hnew⟩ := partOf_passed s r hne
    refine ⟨_, resourceReassignment_passes hup ho hne hex hwithout hwith hidle, ?_, ?_, ?_, ?_, ?_, ?_⟩
    · rw [partOf_congr (handedOver_parts ..), hold]
    · rw [partOf_congr (handedOver_parts ..), hnew]
    · rintro k rfl
      obtain ⟨hmem, heasels, hhands⟩ := handedOver_easelPair (passed s (.easelPair k) o p) k p
      exact ⟨heasels _ (.inl rfl), heasels _ (.inr rfl), hhands, hmem⟩
    · rintro c rfl
      obtain ⟨hmem, hchan, hcaches⟩ := handedOver_channel (passed s (.channel c) o p) c p
      exact ⟨hchan, hmem, hcaches⟩
    · rintro k rfl
      obtain ⟨hmem, hqueue, htails⟩ := handedOver_queue (passed s (.queue k) o p) k p
      exact ⟨hqueue, hmem, htails⟩
    · rintro k n (rfl | rfl) <;> exact ⟨rfl, rfl, rfl, rfl⟩
  · refine fun w => ⟨fun hzero hgap hage hsum => ⟨_, schedulingWordWrite_taken hup hzero hgap hage hsum, partOf_modPart_self .., rfl, rfl⟩,
      fun hsum => schedulingWordWrite_refused hup hsum⟩

end Sys2Proof.Machine
end
